-- ==== Sys2Proof/Word.lean ====
section
/-! DEFINITION. The words of the part and their plainest arithmetic (00 R10, R13). -/
namespace Sys2Proof

/-- A 32-bit register or message word (10 R352). -/
abbrev Word := BitVec 32

/-- A byte of a memory image (00 R13). -/
abbrev Byte := BitVec 8

/-- A Copper program word (14 R482). -/
abbrev ProgWord := BitVec 64

/-- A Copper accumulator (13 R457). -/
abbrev Acc := BitVec 72

/-- The word that holds a natural number modulo 2^32. -/
def w32 (n : Nat) : Word := BitVec.ofNat 32 n

/-- The word that holds an integer modulo 2^32. -/
def w32i (n : Int) : Word := BitVec.ofInt 32 n

end Sys2Proof
end

