-- ==== Sys2Proof/Syntax.lean ====
section
/-! DEFINITION. The commands of the block: the ONE inductive Instr, one constructor for each row of spec/opcode_table.json,
with the operands each row takes from outside. The table gives no bits, so no command has an encoding, but for the Copper's
program words (14 R482), whose fields these operands are. -/
namespace Sys2Proof

/-- A host SPI transfer (10 R352, R362): the words the host drives after the header, the number of SCK periods, the trailer
byte; and, where the control processor writes the same mailbox word in the same cycle as one of them, that word's number and
the processor's value (10 R380); `ticks` holds the device-time ticks to the capture edge of each word of a read (R358). -/
structure Transfer where
  modeThree : Bool
  header    : Word
  data      : List Word
  bits      : Nat
  trailer   : BitVec 8
  collide   : Option (Nat × Word)
  ticks     : List Nat
deriving DecidableEq, Repr

/-- A message of the command ring without its opcode: session, sequence, payload words; LEN is their number (11 R383). -/
structure Msg where
  session : Nat
  seq     : Nat
  words   : List Word
deriving DecidableEq, Repr

/-- A store page whose first `fails` checked reads fail although its content is sound (07 R277, R279). -/
structure PageFault where
  page  : Nat
  fails : Nat
deriving DecidableEq, Repr

/-- What the re-run of a unit built as two copies finds (08 R312). -/
inductive Rerun where
  /-- the disagreement has gone -/
  | agree
  /-- only this copy gives its first result again -/
  | stable (copy : Nat)
  /-- both copies are stable and different, or neither is stable -/
  | neither
deriving DecidableEq, Repr

/-- A disagreement of the two copies of the dispatch pass (unit 0) or of timebase tracker t with its table builder
(unit 1 + t) at a boundary (08 R312). -/
structure CopyEvent where
  unit  : Nat
  rerun : Rerun
deriving DecidableEq, Repr

/-- What a block boundary takes from outside: the two die readings (23 R672), whether a handover image's digest matches
(11 R411) and whether a page of its slot failed twice (11 R412), failing scrub reads (07 R280), whether the firmware wrote its heartbeat in the period that ends (09 R343), and the
copies that disagreed (08 R312). -/
structure BoundaryInput where
  tempDig   : Int
  tempAna   : Int
  digestOk  : Bool
  slotFails : Bool
  scrub     : List PageFault
  heartbeat : Bool
  copies    : List CopyEvent
deriving DecidableEq, Repr

/-- How the computation of a voice-block ends in the hardware (08 R293, R302, R308). -/
inductive VoiceOutcome where
  /-- every check passes -/
  | pass
  /-- passes, but the checkpoint entry's read-back finds an error (R302) -/
  | passBadCheckpoint
  /-- a check fails: cause, lane and voice-sample of R323 -/
  | fail (cause lane sample : Nat)
  /-- a stream-ring read is uncorrectable: the ring (R300) -/
  | ringFail (ring : Nat)
  /-- a word of the region's own wavetable copy is uncorrectable: its word number (R18, R22, R293) -/
  | waveFail (word : Nat)
  /-- passes every check of its own but one send differs by `noise` (what R308 resolves) -/
  | silent (noise : Int)
deriving DecidableEq, Repr

/-- What the mixer's own checks report in a block (08 R313). -/
inductive MixFault where
  | none
  /-- residue mismatch of a region mixer on a channel -/
  | region (r ch : Nat)
  /-- a lockstep mismatch of the device mixer: the copy whose residue fails -/
  | copy (k : Nat)
deriving DecidableEq, Repr

/-- How a port read ends (07 R277): the pages of ADDR in whose partial reads alone a mismatch arose, and pages that fail
their checks. -/
structure ReadOutcome where
  mismatch : List Nat
  faults   : List PageFault
deriving DecidableEq, Repr

/-- Which level of a rail was passed (21 R603, R605, R607); `back` says that the rail had come back by the hysteresis of
R605 since the same warning was last raised. -/
inductive RailLevel where
  | reset
  /-- VDD08 below 0.50 V -/
  | lost
  | low (back : Bool)
  | high (back : Bool)
deriving DecidableEq, Repr

/-- What the set-up of a port finds (07 R254): whether its device meets R252, its read latency and its capacity. -/
structure PortSetup where
  meets    : Bool
  dummy    : Nat
  sizeLog2 : Nat
deriving DecidableEq, Repr

/-- A character as the receiver decides it (18 R559, R561), and whether DMA had no access to shared scratch since the one
before it (R562). -/
structure RxChar where
  byte     : BitVec 8
  stopOk   : Bool
  parityOk : Bool
  noise    : Bool
  stalled  : Bool
deriving DecidableEq, Repr

/-- The instructions of the test access port (22 R648). -/
inductive TapInstr where
  | bypass | idcode | sample | extest | clamp | highz | debug
deriving DecidableEq, Repr

/-- A parallel move field (14 R483). -/
structure Mv where
  k : BitVec 2
  p : BitVec 2
  m : BitVec 2
  r : BitVec 4
deriving DecidableEq, Repr

/-- The fields of a format A word (14 R482). -/
structure FmtA where
  dst : BitVec 4
  s1  : BitVec 4
  s2  : BitVec 4
  aux : BitVec 6
  x   : Mv
  y   : Mv
deriving DecidableEq, Repr

/-- The commands, in the order of the table. An operand that tells of an exception to the ordinary course (a page or word that
cannot be read, copies that disagree, a full queue, a second edge) may be left out where there is none; an edge is a rising one
unless its operand says otherwise. -/
inductive Instr where
  /-- A host SPI transfer from the falling to the rising edge of HS_CS_N: header, data words and optional CRC-8 trailer, with STATUS shifted out during the header. (R352) -/
  | hostTransfer (x : Transfer)
  /-- A host write of a direct register without a row of its own, or of a mailbox word, applied by its access codes. (R354) -/
  | registerWrite (addr : Nat) (value : Word)
  /-- The host sets DOORBELL.CMD to post commands up to CMD_HEAD. (R384) -/
  | doorbellCmd
  /-- The host sets DOORBELL.BULKh, which hands bulk half h to the firmware and sets OWNh at once. (R373) -/
  | doorbellBulk (h : Nat)
  /-- A write of the current SEQ to FAULT_ACK releases the capture set, cancels pending actions and releases FAULT_N. (R337) -/
  | faultAck (value : Word)
  /-- A write of 0x5A5A to SOFT_RESET arms it. (R378) -/
  | softResetArm
  /-- A write of 0xA5A5 as the next delivered word after arming starts a soft reset. (R378) -/
  | softReset
  /-- A write of 0x3C3C to SOFT_RESET while it is armed disarms it and requests standby. (R617) -/
  | standbyRequest
  /-- SOFT_RESET is disarmed when 1 ms passes after arming. (R378) -/
  | softResetDisarm
  /-- The firmware takes DOORBELL.CMD, reads CMD_HEAD once and takes every message up to it in ring order. (R384) -/
  | takeDoorbell (bad : List Nat) (rd : List PageFault := [])
  /-- Command taking resumes within 10 µs of the RSP_TAIL write that frees 257 words. (R388) -/
  | takingResume (bad : List Nat := []) (rd : List PageFault := [])
  /-- Once 4 event-ring words are free, the firmware posts OVERFLOW with the count of dropped events. (R397) -/
  | overflow
  /-- Session 0 negotiates the protocol version and the agreed feature set. (R400) -/
  | hello (m : Msg)
  /-- Returns the device time at taking. (R404) -/
  | ping (m : Msg)
  /-- Opens session 1–31 with a ceiling and a quota. (R405) -/
  | sessionOpen (m : Msg)
  /-- Changes the ceiling and quota of an open session. (R405) -/
  | sessionSet (m : Msg)
  /-- Closes a session at the next boundary under R223. (R405) -/
  | sessionClose (m : Msg)
  /-- Validates register-image words as a whole and schedules them for the boundary of their block's rule. (R407) -/
  | imageWrite (m : Msg)
  /-- Returns register-image values in effect at taking. (R408) -/
  | imageRead (m : Msg)
  /-- A TMR_GSTART write, acted on at taking, releases the named timer units and clusters at once or places the mask in the chain frame. (R551) -/
  | globalStart (m : Msg)
  /-- A DACd_PUSH word enters its DAC queue when the firmware takes the command. (R521) -/
  | dacPush (m : Msg)
  /-- Makes a note-on task ready after the residency and safety-object checks. (R421) -/
  | noteOn (m : Msg)
  /-- Makes a release task ready for a note. (R190) -/
  | release (m : Msg)
  /-- Makes a kill task ready, which fades a note over 16 samples. (R190) -/
  | kill (m : Msg)
  /-- Makes a task ready that changes one permitted recipe field of a sounding voice. (R422) -/
  | param (m : Msg)
  /-- Makes a task ready that sets a global controller for the snapshot. (R190) -/
  | controller (m : Msg)
  /-- Makes a task ready that sets the eight profile gains. (R191) -/
  | profile (m : Msg)
  /-- Makes a task ready that posts an event-ring message when applied. (R190) -/
  | event (m : Msg)
  /-- Cancels a task by handle, under the rules of R205. (R424) -/
  | cancel (m : Msg)
  /-- Sets FADE_BLOCKS of a region. (R425) -/
  | allocCfg (m : Msg)
  /-- Returns the Hopper and Maltster counts of a region. (R426) -/
  | hopperStatus (m : Msg)
  /-- Returns the device status words. (R427) -/
  | deviceStatus (m : Msg)
  /-- Starts the check and load of a recipe bank into a slot. (R428) -/
  | bankLoad (m : Msg)
  /-- The bank check ends; the COMPLETION is posted and a passing bank replaces the slot at the next boundary. (R428) -/
  | bankLoadDone (rd : List PageFault)
  /-- Empties a bank slot. (R429) -/
  | bankUnload (m : Msg)
  /-- Starts writing a speaker-vector table into both region copies. (R430) -/
  | svtLoad (m : Msg)
  /-- Both copies have been written and read back; the table takes effect at the next boundary and the COMPLETION is posted. (R430) -/
  | svtLoadDone (rd : List PageFault)
  /-- Starts making a wavetable resident. (R431) -/
  | wtLoad (m : Msg)
  /-- Every table copy has been written and checked; the table is usable from the next boundary and the COMPLETION is posted. (R101) -/
  | wtLoadDone (rd : List PageFault)
  /-- Frees a resident table's slots from the next boundary. (R432) -/
  | wtUnload (m : Msg)
  /-- Returns the state of the four bank slots and the tables. (R433) -/
  | bankStatus (m : Msg)
  /-- Delivers a host update to a host-fed timebase. (R434) -/
  | tbUpdate (m : Msg)
  /-- Starts copying the active directory and page-check table into the inactive copies. (R435) -/
  | gristPrepare (m : Msg)
  /-- The copies are complete, UPDATE becomes 1 and the COMPLETION is posted. (R283) -/
  | gristPrepareDone
  /-- Starts erasing and programming object data from a bulk half. (R435) -/
  | gristWrite (m : Msg)
  /-- Programming ends and the COMPLETION is posted. (R435) -/
  | gristWriteDone
  /-- Starts writing directory or page-check entries into the inactive copies. (R435) -/
  | gristMeta (m : Msg)
  /-- The entries are written and the COMPLETION is posted. (R435) -/
  | gristMetaDone
  /-- Starts verifying the changed entries and writing the new anchor. (R435) -/
  | gristCommit (m : Msg)
  /-- The anchor and its mirror are written and the new directory becomes active at the next boundary. (R283) -/
  | gristCommitDone (rd : List PageFault)
  /-- Returns UPDATE to 0 and abandons the inactive copies. (R435) -/
  | gristAbort (m : Msg)
  /-- Returns the Grist counts and the bad-page list. (R436) -/
  | gristStatus (m : Msg)
  /-- Starts a checked tier-4 read of store bytes into a bulk half. (R435) -/
  | gristRead (m : Msg)
  /-- The read ends, the half is returned and the COMPLETION is posted. (R435) -/
  | gristReadDone (rd : List PageFault)
  /-- Starts checking a Copper program and writing it to the inactive bank. (R437) -/
  | copperLoad (m : Msg)
  /-- The inactive bank is written and the COMPLETION is posted. (R437) -/
  | copperLoadDone (rd : List PageFault)
  /-- Swaps the program banks at the next block boundary, with a parameter crossfade. (R438) -/
  | copperSwap (m : Msg)
  /-- Writes X or Y words, which become visible at the next sample-frame boundary. (R439) -/
  | copperParam (m : Msg)
  /-- Starts a standby or active line-check job over the masked channels. (R440) -/
  | diagStart (m : Msg) (rd : List PageFault := [])
  /-- Returns the results of the last completed job. (R441) -/
  | diagRead (m : Msg)
  /-- Ends a running job within one block, with no result. (R441) -/
  | diagAbort (m : Msg)
  /-- Starts capture of Wort channels 24–31 into the bulk halves from the next boundary. (R442) -/
  | captureStart (m : Msg)
  /-- Ends a capture at the next boundary and returns the partly filled half. (R442) -/
  | captureStop (m : Msg)
  /-- Returns Kiln log records from a sequence number. (R443) -/
  | faultLogRead (m : Msg)
  /-- Resets a resettable block from the next boundary. (R444) -/
  | blockReset (m : Msg)
  /-- Returns the 16 lifetime counters. (R445) -/
  | lifetimeRead (m : Msg)
  /-- Adds the host's stored values to the lifetime counters, once per power-on. (R445) -/
  | lifetimeSet (m : Msg)
  /-- Starts writing a firmware image slice into the inactive slot. (R446) -/
  | fwLoad (m : Msg)
  /-- The slice is written and the COMPLETION is posted. (R446) -/
  | fwLoadDone (fails : Bool := false)
  /-- Starts checking the image format, the key hash and the signature. (R447) -/
  | fwVerify (m : Msg)
  /-- Verification ends with STEP 3, or STEP 7 with a RESULT code. (R447) -/
  | fwVerifyDone (result : Nat)
  /-- Arms the switch to the verified firmware at the next boundary. (R411) -/
  | handover (m : Msg)
  /-- Writes an anchor that selects the verified slot from the next reset. (R449) -/
  | fwSelect (m : Msg)
  /-- New or restarted firmware resumes the mailbox, clears PAUSED and takes the queued doorbells. (R411) -/
  | firmwareResume
  /-- If the new firmware has not resumed 2 ms after the switch, hardware restarts the previous firmware. (R412) -/
  | handoverTimeout
  /-- The post-handover anchor write completes and GRIST_DIRSTAT.FW_SLOT changes. (R411) -/
  | fwAnchorWritten
  /-- At device time n × 4,096 the block pipeline advances: dispatch, snapshot, scheduled image writes and boundary-timed actions. (R26) -/
  | blockBoundary (b : BoundaryInput)
  /-- Every 1,024 blocks each region's shedding ceiling is set, lowered or raised from the temperature. (R674) -/
  | sheddingCeiling
  /-- An added MASH_REGION1 puts region 1 in service at the first boundary at least 150 µs after HELLO. (R402) -/
  | regionInService
  /-- Once no deferred command or update is outstanding, the device enters standby at a boundary. (R618) -/
  | standbyEntry
  /-- A VPE computes one voice-block in its slot, writes the checkpoint and checks the result. (R54) -/
  | voiceBlock (v : Nat) (out : VoiceOutcome)
  /-- A failed voice-block is recomputed from its checkpoint in a reserve slot. (R295) -/
  | voiceBlockRetry (v : Nat) (out : VoiceOutcome)
  /-- Once both twins have passed their checks, the device mixer compares their sends and digests. (R307) -/
  | twinCompare (v : Nat) (agree : Bool)
  /-- Mismatched twins are recomputed in reserve slots and the outcome case is decided; `disagree` is the comparator copy whose
  verdict is not that case where the copies disagree again. (R308, R310) -/
  | twinRecompute (v : Nat) (outA : VoiceOutcome) (outB : VoiceOutcome) (disagree : Option Nat := none)
  /-- The device mixer forms the Wort bus output of a block with gain, rounding and saturation. (R229) -/
  | deviceMix (f : MixFault)
  /-- At each sample-frame boundary the Copper hands over slots, latches inputs, applies parameter words and writes the crossfade step. (R451) -/
  | copperFrame
  /-- A pending enabled source is accepted: ipc and isr are saved and the core jumps to the vector. (R471) -/
  | copperInterrupt
  /-- Execution reaches an unchecked word or one beyond PWORDS; TRAPS counts and the core restarts at the next frame. (R466) -/
  | copperTrap
  /-- Does nothing but its parallel moves. (R493) -/
  | cNop (a : FmtA)
  /-- Sets aD to the exact fractional product. (R487) -/
  | cMpy (a : FmtA)
  /-- Adds the fractional product to aD. (R488) -/
  | cMac (a : FmtA)
  /-- Subtracts the fractional product from aD. (R488) -/
  | cMsu (a : FmtA)
  /-- Sets an accumulator pair to a complex product. (R494) -/
  | cCmpy (a : FmtA)
  /-- Adds a complex product to an accumulator pair. (R494) -/
  | cCmac (a : FmtA)
  /-- Subtracts a complex product from an accumulator pair. (R494) -/
  | cCmsu (a : FmtA)
  /-- Adds the product with the conjugate of the second operand. (R494) -/
  | cCmacj (a : FmtA)
  /-- Wrapping 32-bit add. (R491) -/
  | cAdd (a : FmtA)
  /-- Wrapping 32-bit subtract. (R491) -/
  | cSub (a : FmtA)
  /-- Saturating add. (R491) -/
  | cAdds (a : FmtA)
  /-- Saturating subtract. (R491) -/
  | cSubs (a : FmtA)
  /-- Bitwise AND. (R493) -/
  | cAnd (a : FmtA)
  /-- Bitwise OR. (R493) -/
  | cOr (a : FmtA)
  /-- Bitwise XOR. (R493) -/
  | cXor (a : FmtA)
  /-- Absolute value with saturation of −1.0. (R491) -/
  | cAbs (a : FmtA)
  /-- Arithmetic shift of a d register. (R491) -/
  | cSha (a : FmtA)
  /-- Logical shift of a d register. (R491) -/
  | cShl (a : FmtA)
  /-- Adds two accumulators. (R493) -/
  | cAadd (a : FmtA)
  /-- Subtracts two accumulators. (R493) -/
  | cAsub (a : FmtA)
  /-- Shifts an accumulator by k. (R493) -/
  | cAsh (a : FmtA)
  /-- Rounds an accumulator to 32 bits with shift k. (R489) -/
  | cRnd (a : FmtA)
  /-- Clears an accumulator. (R493) -/
  | cClr (a : FmtA)
  /-- Sets the flags of a subtraction. (R493) -/
  | cCmp (a : FmtA)
  /-- Sets the flags of an accumulator. (R493) -/
  | cTsta (a : FmtA)
  /-- Keeps the largest memory value and its address. (R495) -/
  | cMaxi (a : FmtA)
  /-- Keeps the smallest memory value and its address. (R495) -/
  | cMini (a : FmtA)
  /-- Conditional register move. (R493) -/
  | cMvc (a : FmtA)
  /-- Loads an immediate into a register. (R493) -/
  | cLdi (reg : BitVec 6) (imm : Word)
  /-- Register-to-register move. (R485) -/
  | cMv (reg : BitVec 6) (src : BitVec 6)
  /-- Loads from X at an absolute address. (R493) -/
  | cLdx (reg : BitVec 6) (addr : BitVec 16)
  /-- Loads from Y at an absolute address. (R493) -/
  | cLdy (reg : BitVec 6) (addr : BitVec 16)
  /-- Stores to X at an absolute address. (R493) -/
  | cStx (reg : BitVec 6) (addr : BitVec 16)
  /-- Stores to Y at an absolute address. (R493) -/
  | cSty (reg : BitVec 6) (addr : BitVec 16)
  /-- Loads from the I/O space. (R473) -/
  | cLdio (reg : BitVec 6) (addr : BitVec 12)
  /-- Stores to the I/O space. (R473) -/
  | cStio (reg : BitVec 6) (addr : BitVec 12)
  /-- Pushes a register to the X stack through ax3. (R493) -/
  | cPush (reg : BitVec 6)
  /-- Pops a register from the X stack through ax3. (R493) -/
  | cPop (reg : BitVec 6)
  /-- Conditional branch with two delay slots. (R464) -/
  | cBr (cond : BitVec 4) (target : BitVec 14)
  /-- Pushes the return address and branches. (R493) -/
  | cCall (target : BitVec 14)
  /-- Pops the return address and branches. (R493) -/
  | cRet
  /-- Restores sr and returns to ipc. (R471) -/
  | cReti
  /-- Sets lc, ls and le for a hardware loop. (R468) -/
  | cLoop (target : BitVec 14) (count : BitVec 16)
  /-- Repeats the next instruction n times. (R467) -/
  | cRep (count : BitVec 16)
  /-- Stalls until the next sample-frame boundary. (R450) -/
  | cWfr
  /-- An output frame's slots are sent on the TDM lanes from the Copper or direct path. (R236) -/
  | tdmoFrame
  /-- An input frame completes; lock and frame assignment are decided. (R243) -/
  | tdmiFrame (slots : List Word)
  /-- An FS edge off its expected time discards the frame, clears LOCKED and counts a slip. (R244) -/
  | tdmiSlip
  /-- The device sends its chain frame for the sample frame. (R589) -/
  | chainFrameTransmit
  /-- A received chain frame is checked, forwarded and used for election, link state and alive. (R590) -/
  | chainFrameReceive (words : List Word) (inWindow : Bool)
  /-- Once its conditions hold, a non-root device adopts the upstream device time. (R594) -/
  | alignAdopt
  /-- At sample frame f+4 the devices release the units and clusters named by a chain global start. (R552) -/
  | globalStartRelease
  /-- A stage-1 group completes, giving the coarse value and feeding the later stages. (R501) -/
  | spargeStage1Output (c : Nat) (bits : List Bool) (overload : Bool)
  /-- A channel's fine value for a sample frame is interpolated, and FINE_VALID is judged. (R505) -/
  | spargeFineValue (c : Nat)
  /-- A threshold's dwell count completes, its state changes and the event goes to its routes. (R510) -/
  | thresholdChange (c : Nat) (k : Nat)
  /-- At an update tick the DAC takes its next code from its source. (R516) -/
  | dacUpdate (d : Nat)
  /-- A prescaler carry steps a timer unit and its clusters. (R539) -/
  | timerStep (u : Nat)
  /-- A divided, accepted capture edge stores the count in TMRu_CAPT. (R545) -/
  | timerCapture (u : Nat) (rising : Bool := true) (late : Nat := 0)
  /-- In standby each LF tick advances device time by 750 and steps the tick- and sample-clock units. (R538) -/
  | standbyLfTick
  /-- An accepted TB-pin edge is captured, judged by its tracker and updates the estimate; `both` says that the other pin of its
  quadrature pair changes in the same core cycle (R161). (R150) -/
  | tbEdge (pin : Nat) (level : Bool) (cycle : Nat) (both : Bool := false)
  /-- No edge for STALL_MS, or no update for HOST_MS, puts the tracker into STALLED or UNSYNCED. (R175) -/
  | tbStall (n : Nat)
  /-- A port read completes and its frames enter the ring after any mirror and page checks. (R269) -/
  | gristReadComplete (id : Nat) (out : ReadOutcome)
  /-- A read whose deadline passes is abandoned. (R273) -/
  | readDeadline (id : Nat)
  /-- Two reads without a data-strobe edge mark the port failed. (R327) -/
  | gristPort (p : Nat)
  /-- A detector message reaches the Kiln and is logged, captured or merged, and may start an action; `full` says that its
  detector's queue is full. (R319, R322) -/
  | kilnMessage (msg : BitVec 64) (master : Nat) (access : Nat) (full : Bool := false)
  /-- A pending action's software-chance timer expires. (R333) -/
  | actionDeadline
  /-- A block reset's duration ends and the block is restored. (R338) -/
  | blockResetEnd (target : Nat)
  /-- ALIVE toggles at each HALF_MS while its conditions hold. (R342) -/
  | aliveToggle
  /-- A missed firmware heartbeat raises FW_HEARTBEAT. (R343) -/
  | fwHeartbeat
  /-- No heartbeat within WDT_MS after the miss resets the device. (R343) -/
  | watchdog
  /-- 20 µs without a die-link frame while the watch is armed sets the latch as LAST_COPY. (R345) -/
  | dieLinkSilence
  /-- Consecutive readback mismatches on a pad raise PIN_READBACK. (R646) -/
  | pinReadback (pin : Nat) (expected : Bool)
  /-- A rail stays beyond a supervisor threshold for 1 µs, giving a brown-out reset or a warning. (R604) -/
  | supplyThreshold (rail : Nat) (level : RailLevel)
  /-- The two comparators of a threshold disagree for more than 1 ms. (R605) -/
  | comparatorDisagreement (rail : Nat)
  /-- VDDA33 falls below its reset level and the device resets fully. (R622) -/
  | powerOnReset
  /-- RESET_N is held low from outside for longer than 250 ns. (R624) -/
  | resetPin (ns : Nat)
  /-- RESET_N reads high again and the start sequence begins. (R630) -/
  | resetRelease
  /-- A reference source completes 4,096 good periods. (R609) -/
  | referenceQualified (primary : Bool)
  /-- The PLL locks; device time counts, memories are cleared and the boot ROM starts. (R610) -/
  | pllLock (slotA : Nat) (slotB : Nat)
  /-- The firmware reaches READY: STATUS.READY and IRQ_STATUS.READY set and session 0 opens. (R634) -/
  | ready (m0 m1 : PortSetup)
  /-- The reference is lost; the PLL enters holdover or moves to the backup. (R611) -/
  | referenceLoss
  /-- 10 s in holdover without a qualified source raises CLOCK C2. (R614) -/
  | holdoverTimeout
  /-- A primary qualified for 1 s is taken back at a block boundary. (R612) -/
  | primaryTakeback
  /-- A PLL loop's lock detector fails and the output moves to the other loop. (R610) -/
  | pllLoopFail (main : Bool)
  /-- A falling HS_CS_N edge in standby wakes the device. (R369) -/
  | wakeHost
  /-- Two consecutive LF samples meet a wake comparator's entering condition and the device wakes. (R620) -/
  | wakeComparator (c : Nat) (k : Nat)
  /-- A bank leaving off finishes its clear and its stalled accesses proceed. (R583) -/
  | bankClearDone (b : Nat)
  /-- The scrubber reads a word in an idle cycle, corrects it and reports errors. (R577) -/
  | memoryScrub (mem : Nat) (bank : Nat) (word : Nat) (errors : Nat)
  /-- Adds an operand to a shared-scratch word and returns the old value; `a` is the word's byte address in shared scratch,
  `bad` an uncorrectable read. (R579, R580) -/
  | atomicAdd (a : Nat) (v : Word) (bad : Bool)
  /-- Swaps an operand into a shared-scratch word and returns the old value. (R579) -/
  | atomicSwap (a : Nat) (v : Word) (bad : Bool)
  /-- A character is received, checked and stored through the FIFO to DMA. (R559) -/
  | uartCharacter (x : Nat) (ch : RxChar)
  /-- An idle line for TIMEOUT bit-times flushes the partial block and ends a frame. (R563) -/
  | uartTimeout (x : Nat)
  /-- The firmware takes a received frame, checks it and executes its command. (R570) -/
  | uartFrame (x : Nat) (rd : List PageFault := [])
  /-- A queued response frame is sent with DE raised LEAD bit-times early. (R564) -/
  | uartTransmit (x : Nat)
  /-- DE falls TAIL bit-times after the last stop bit. (R564) -/
  | uartDeTail (x : Nat)
  /-- A line's settling and N summing frames end and its sums are taken. (R528) -/
  | diagStepEnd
  /-- The Copper program leaves DONE unchanged 192 frames after a step, and the line gets verdict 15. (R529) -/
  | diagDoneTimeout
  /-- A rail that tripped a brown-out or power-on reset rises back above its release level, ending the reset cause so that RESET_N is released 200–260 µs later. (R623) -/
  | supplyRelease (rail : Nat)
  /-- A qualified reference source that is not in use, either the backup or a primary waiting to be taken back, loses its qualification without any report. (R612) -/
  | backupLost (primary : Bool)
  /-- An accepted edge on a timer unit's capture input that does not itself capture advances the CAP_DIV edge count and, for SRC 4, the prescaler phase. (R544) -/
  | captureInputEdge (u : Nat) (rising : Bool := true)
  /-- A bank's 1 µs exit from retention or 4 µs power-up from off ends, so that the bank is on, or its clear begins and MEM_CLEARING sets. (R582) -/
  | bankPowerUpEnd (b : Nat)
  /-- A JTAG instruction shifted in on TCK and TMS takes effect: DEBUG halts the control processor, and EXTEST, CLAMP or HIGHZ act while RESET_N is held low from outside. (R648) -/
  | tapInstruction (t : TapInstr)
deriving DecidableEq, Repr

end Sys2Proof
end

