-- ==== Sys2Proof/Config.lean ====
section
/-! DEFINITION. What an implementation of the manual fixes and the manual does not: constants without a body.
Nothing in Lean can evaluate one, so a statement that mentions one holds for every value. Each is named in notes/assumptions. -/
namespace Sys2Proof.Config

/-- A value the manual leaves open, drawn by number (log 3). -/
opaque freeValue : Nat → BitVec 64

/-- The implementation's deviation, in LSB, of a phase increment from the exact value of R62 (log 8). -/
opaque incDev : Int → Int

/-- The implementation's deviation of the SMP playback ratio of R79 (log 8). -/
opaque ratioDev : Int → Int → Int

/-- The implementation's deviation of g in R115 (log 8). -/
opaque cutoffDev : Int → Int

/-- The implementation's deviation of a reciprocal in R116 (log 8). -/
opaque recipDev : Int → Int

/-- The implementation's deviation of the LFO increment of R130 (log 8). -/
opaque lfoDev : Int → Int → Int

/-- The implementation's deviation of the LFO sine of R131 (log 8). -/
opaque sineDev : Int → Int

/-- The stored value of point k of the expo table of R122 between its exact ends (log 8). -/
opaque expoDev : Nat → Int

/-- Fraction bits, beyond 32, of the speed estimate of R169 (log 9). -/
opaque speedFracExtra : Nat

/-- Rounding of the firmware's impedance results of R531, 0 down or 1 up (log 10). -/
opaque diagRound : Int → Int

/-- The rounding of the firmware's demodulation factors of R528 on the QK1024N, -1, 0 or 1 LSB (log 10). -/
opaque twiddleDev : Int → Int

/-- The banks of system SRAM that hold the firmware's image and data (R584, 'per firmware'; log 13). -/
opaque sysLock : BitVec 8

/-- How a voice's running state fills the bytes of its context behind the recipe copy (R109, R307; log 16). -/
opaque contextState : List Int → Nat → BitVec 8

/-- Which Copper core a word of the Copper memories fails (R325; log 80). -/
opaque copperReader : Nat → Nat → Bool

/-- The firmware version word of HELLO (R399; log 14). -/
opaque fwVersion : BitVec 32

end Sys2Proof.Config
end

