-- ==== Sys2Proof/Machine/State.lean ====
section
/-! DEFINITION. Everything the manual gives the part, as plain data, and the part right after power-on reset.
Word registers of the register images live in `regs`, keyed by block ID and offset; each unit's other state has a structure of its own.
A list that stands for an array is read with a default, so a short list reads as that default beyond its end. -/
namespace Sys2Proof.Machine

/-- Why a meaning may stop with a fault. No meaning of this model does: every row of the table has an effect in the manual
(safe: nothing is cut short). -/
inductive Fault where
  /-- raised by no meaning; the type has to be inhabited for the interface -/
  | unused
deriving DecidableEq, Repr

/-- Why a meaning may be refused. -/
inductive Refusal where
  /-- a row whose meaning is not written yet, by its mnemonic (safe) -/
  | notModelled (mnemonic : String)
deriving DecidableEq, Repr

/-- Sparse data by key: keys strictly rising, no entry equal to what an unlisted key reads as. -/
abbrev Sparse (α : Type) := List (Nat × α)

/-! ### The part -/

/-- The three variants of R2. -/
inductive Variant where
  | qk2048a | qk1024a | qk1024n
deriving DecidableEq, Repr

/-- The Cask's values (R627). Trim gains are unsigned 2.30. -/
structure Cask where
  uniqueId   : BitVec 64
  keyHash    : BitVec 256
  refPrimary : Nat
  refBackup  : Nat
  refRatio   : Nat
  bootFreq   : Nat
  bootDummy  : Nat
  dacPwrup   : List Nat
  dacFault   : List Nat
  dacRange   : Nat
  senseOfs   : List Int
  senseGain  : List Int
deriving DecidableEq, Repr

/-- The blank values of R627; the untrimmed trims are offset 0 and gain 1 (log 4). -/
def Cask.blank : Cask where
  uniqueId := 0
  keyHash := 0
  refPrimary := 0
  refBackup := 3
  refRatio := 128
  bootFreq := 4
  bootDummy := 30
  dacPwrup := [0, 0, 0, 0]
  dacFault := [0, 0, 0, 0]
  dacRange := 0
  senseOfs := List.replicate 8 0
  senseGain := List.replicate 8 0x40000000

/-- What is fixed at the factory: variant, Cask as programmed, and the Cask fields of which neither copy decodes (R628, R629). -/
structure Part where
  variant    : Variant
  cask       : Cask
  unreadable : List Nat
deriving DecidableEq, Repr

/-! ### Supplies, clocks, reset -/

/-- Where the start sequence of R630 stands. -/
inductive Phase where
  /-- RESET_N is low -/
  | inReset
  /-- released: option load and reference qualification (steps 1 to 3) -/
  | released
  /-- PLL locked, memories cleared, booting (steps 4 to 8) -/
  | locked
  /-- both slots failed or no anchor is readable (R632) -/
  | bootFailed
  | ready
  /-- standby (R618) -/
  | standby
deriving DecidableEq, Repr

/-- A threshold that wakes the part from standby (R620). -/
structure WakeComp where
  ch  : Nat
  thr : Nat
deriving DecidableEq, Repr

/-- `lanes` tells of each die-link lane whether it carries traffic (R18). -/
structure Power where
  phase       : Phase
  railLow     : List Bool
  resetHeld   : Bool
  driveLow    : Bool
  warned      : List Bool
  refUsed     : Option Bool
  qualP       : Option Nat
  qualB       : Option Nat
  holdover    : Option Nat
  holdTold    : Bool
  mainLoop    : Bool
  standbyLoop : Bool
  shadow      : Cask
  latch       : Option (BitVec 64 × Nat)
  dieWatch    : Bool
  tempDig     : Int
  tempAna     : Int
  tempTold    : List Bool
  hotBlocks   : Nat
  wakeSet     : List WakeComp
  woken       : Bool
  por         : Bool
  alive       : Bool
  aliveNext   : Option Nat
  bootSlot    : Nat
  bootFault   : Nat
  tap         : TapInstr
  debugHalt   : Bool
  standbyReq  : Bool
  wakeCause   : Option (Nat × Nat × Nat)
  resetCause  : Word
  life        : List Nat
  lifeSet     : Bool
  lanes       : List Bool
deriving DecidableEq, Repr

/-! ### Host port -/

structure HostPort where
  mbxCollide  : Bool
  crcErr      : Bool
  addrErr     : Bool
  frameErr    : Bool
  xferCnt     : Nat
  cmdHead     : Nat
  cmdTail     : Nat
  rspHead     : Nat
  rspTail     : Nat
  evtHead     : Nat
  evtTail     : Nat
  bellCmd     : Bool
  bellBulk    : List Bool
  own         : List Bool
  irqStatus   : Word
  irqEnable   : Word
  crcEn       : Bool
  aliveCfg    : Word
  softArmed   : Option Nat
  hoStep      : Nat
  hoResult    : Nat
  hoCount     : Nat
  activeSlot  : Nat
  collideAddr : Nat
  mailbox     : Sparse Word
  sdo         : List Word
  angleBlock  : Nat
  angles      : List Nat
deriving DecidableEq, Repr

/-! ### Protocol and firmware -/

structure Session where
  opened  : Bool
  closing : Bool
  ceiling : Nat
  quota   : Nat
deriving DecidableEq, Repr

/-- An accepted image word that waits for its boundary (R407). -/
structure PendingWrite where
  block : Nat
  off   : Nat
  value : Word
  due   : Nat
deriving DecidableEq, Repr

/-- Where a command came from and where its response goes (R570). -/
inductive Origin where
  | ring
  /-- UART line, own position at the time, and whether to answer (0x0F requests are not answered) -/
  | line (x pos : Nat) (answer : Bool)
deriving DecidableEq, Repr

/-- A command whose work or response is outstanding (R387, R405). -/
structure Job where
  opcode  : Nat
  session : Nat
  seq     : Nat
  origin  : Origin
  words   : List Word
  due     : Nat
deriving DecidableEq, Repr

/-- A response not yet posted (R387): `words` once it is formed, none while it waits for its boundary; `agrees` is the set that a
HELLO's response brings into force as it is posted (R402). -/
structure Reply where
  opcode  : Nat
  session : Nat
  seq     : Nat
  origin  : Origin
  words   : Option (List Word)
  agrees  : Option Word
deriving DecidableEq, Repr

/-- A recipe image (R109). -/
abbrev Recipe := List Byte

/-- A resident recipe bank (R113). -/
structure Bank where
  object  : Nat
  bankId  : Word
  format  : Nat
  recipes : List Recipe
deriving DecidableEq, Repr

/-- A resident wavetable (R100, R101): usable from block `usable`; `gone` is the block from which its slots are free. -/
structure Table where
  object : Nat
  first  : Nat
  frames : Nat
  usable : Nat
  gone   : Option Nat
deriving DecidableEq, Repr

/-- A Wort capture (R442). -/
structure Capture where
  mask  : Nat
  left  : Option Nat
  start : Nat
  half  : Nat
  fill  : Nat
  first : Nat
  stop  : Bool
deriving DecidableEq, Repr

/-- The running diagnostic job (R440, R528). -/
structure DiagJob where
  kind    : Nat
  mask    : Nat
  profile : List Byte
  channel : Nat
  stepSeq : Nat
  going   : Bool
  begun   : Nat
  saved   : List (Nat × Nat × Word)
  re1     : Int
  im1     : Int
  re2     : Int
  im2     : Int
  dc2     : Int
  ovl     : Bool
  results : List (Nat × Word × Word)
deriving DecidableEq, Repr

structure DiagResult where
  kind  : Nat
  mask  : Nat
  words : List Word
deriving DecidableEq, Repr

/-- A host update on its way to a tracker (R167). -/
structure TbUpdate where
  t     : Nat
  valid : Bool
  angle : Int
  speed : Int
  accel : Int
  arrived : Nat
deriving DecidableEq, Repr

structure Firmware where
  running     : Bool
  paused      : Bool
  helloDone   : Bool
  agreed      : Word
  version     : Word
  unitAgreed  : Word
  unitPending : Bool
  region1From : Option Nat
  sessions    : List Session
  evtSeq      : Nat
  dropped     : Nat
  seenRspTail : Nat
  seenEvtTail : Nat
  limit       : Nat
  writes      : List PendingWrite
  jobs        : List Job
  replies     : List Reply
  banks       : List (Option Bank)
  bankNext    : List (Nat × Option Bank)
  tables      : List Table
  svtObject   : Option Nat
  svtNext     : Option (Nat × List Nat)
  capture     : Option Capture
  diag        : Option DiagJob
  diagLast    : Option DiagResult
  stamp       : Nat
  tbUpdates   : List (Nat × TbUpdate)
  update      : Nat
  changed     : List Nat
  anchorDue   : Bool
  pausedAt    : Nat
  restart     : Bool
deriving DecidableEq, Repr

/-! ### Hopper -/

inductive TaskKind where
  | noteOn | release | param | kill | controller | profile | event
deriving DecidableEq, Repr

/-- Due conditions (R195, R181). -/
inductive Due where
  | now
  | time (t : Nat)
  | angle (tb cycle trev frac dirn : Nat) (rep : Bool)
  | sense (ch thr edge : Nat) (rep : Bool)
deriving DecidableEq, Repr

/-- PENDING, ARMED and DUE of R200; FREE is the entry's absence. -/
inductive TaskState where
  | pending | armed | due
deriving DecidableEq, Repr

/-- A task entry; `quota` is its session's quota when it was made ready (R221). -/
structure Task where
  kind     : TaskKind
  session  : Nat
  flow     : Nat
  note     : Nat
  prio     : Nat
  stamp    : Nat
  due      : Due
  st       : TaskState
  examined : Option Nat
  point    : Option (Nat × Nat)
  cross    : Int
  fired    : Option Int
  words    : List Word
  primed   : List Nat
  quota    : Option Nat
deriving DecidableEq, Repr

/-- The counts of R206, per region. -/
structure RegionCounts where
  carried       : Nat
  lateMax       : List Nat
  orphans       : Nat
  steals        : Nat
  hardSteals    : Nat
  streamSteals  : Nat
  quotaSteals   : Nat
  refusedVoice  : Nat
  refusedQuota  : Nat
  refusedStream : Nat
deriving DecidableEq, Repr

def RegionCounts.zero : RegionCounts :=
  ⟨0, List.replicate 8 0, 0, 0, 0, 0, 0, 0, 0, 0⟩

/-- A threshold event offered to SENSE conditions (R196). -/
structure SenseEvent where
  ch       : Nat
  thr      : Nat
  entering : Bool
  stamp    : Nat
deriving DecidableEq, Repr

/-- `left` says of an entry that is FREE again whether its last task was applied, and that task's session. -/
structure Hopper where
  tasks    : Sparse Task
  gen      : Sparse Nat
  left     : Sparse (Bool × Nat)
  ctl      : List Int
  hostGain : List Nat
  pg       : List Nat
  pgPrev   : List Nat
  counts   : List RegionCounts
  fade     : List Nat
  fadeNext : List (Nat × Nat)
  senses   : List SenseEvent
deriving DecidableEq, Repr

/-! ### Mash -/

/-- Running state of one oscillator (R109, chapter 02). -/
structure OscState where
  phase   : Nat
  out     : Int
  held    : Int
  p0      : Int
  p1      : Int
  p2      : Int
  pos     : Nat
  back    : Bool
  looped  : Bool
  ended   : Bool
  started : Bool
  tests   : Nat
  starve  : Option (Int × Nat)
  muted   : Bool
  jumped  : Bool
  /-- the stream it plays, by its identity -/
  stream  : Option Nat
deriving DecidableEq, Repr

/-- State of one filter, signed 8.32 (R116). -/
structure FltState where
  ic1 : Int
  ic2 : Int
  s1  : Int
  s2  : Int
  s3  : Int
  s4  : Int
deriving DecidableEq, Repr

/-- The states of R125. -/
inductive EnvPhase where
  | off | run (k : Nat) | sustain | done
deriving DecidableEq, Repr

structure EnvState where
  ph     : EnvPhase
  e      : Nat
  l0     : Int
  level  : Int
  aStart : Int
deriving DecidableEq, Repr

structure LfoState where
  phase : Nat
  held  : Int
deriving DecidableEq, Repr

/-- A steal, hard-steal or KILL fade: length in samples and first absolute sample (R214). -/
structure Fade where
  len   : Nat
  start : Nat
  kill  : Bool
deriving DecidableEq, Repr

/-- A PARAM applied at the boundary of the block being computed (R143). -/
structure ParamChange where
  off    : Nat
  size   : Nat
  value  : Nat
  sample : Nat
deriving DecidableEq, Repr

/-- A voice's context (R109): the recipe copy and the running state. `start` and `gateOff` are absolute sample numbers. -/
structure Ctx where
  recipe   : Recipe
  pitch    : Int
  velocity : Nat
  seed     : Nat
  rnd      : Int
  gateOff  : Option Nat
  start    : Nat
  started  : Bool
  osc      : List OscState
  flt      : List FltState
  env      : List EnvState
  lfo      : List LfoState
  srcPrev  : List Int
  sums     : List Int
  go       : List Int
  params   : List ParamChange
  fades    : List Fade
  ovf     : Bool
deriving DecidableEq, Repr

/-- A failed attempt at a voice-block that waits for its retry: cause, lane and voice-sample of R323, the stream of a ring fault,
its place in the order in which failures were found (R296), and, once the stream has moved to another ring, the block period in
which it did (R300). -/
structure Attempt where
  cause  : Nat
  lane   : Nat
  sample : Nat
  ring   : Option Nat
  seq    : Nat
  moved  : Option Nat
deriving DecidableEq, Repr

/-- What a boundary does to a voice's context: a gate-off at an absolute sample, a fade, a field change (R83, R190, R214). -/
inductive VoiceOp where
  | gateOff (at0 : Nat)
  | fade (f : Fade)
  | change (p : ParamChange)
deriving DecidableEq, Repr

/-- A sounding voice: its context, its checkpoint entry and what the Maltster keeps of it. `later` holds what boundaries ordered
for blocks it has not started (R304); `left` says that its session was closed (R223). -/
structure Voice where
  ctx      : Ctx
  ckpt     : Ctx
  ckptAt   : Option Nat
  next     : Nat
  failed   : Option Attempt
  session  : Nat
  note     : Option Nat
  prio     : Nat
  twin     : Option Nat
  stolen   : Bool
  born     : Nat
  peak     : Nat
  ckptBad  : Bool
  later    : List (Nat × VoiceOp)
  left     : Bool
deriving DecidableEq, Repr

inductive SwitchHalf where
  | good | failedOpen | failedClosed
deriving DecidableEq, Repr

structure Region where
  inService    : Bool
  quarantined  : Bool
  halves       : List SwitchHalf
  mixBad       : Option Nat
  mixPermanent : Bool
  ceiling      : Option Nat
deriving DecidableEq, Repr

/-- A logical cluster that the spare catches up (R303): the failing block, the rankings of R305, the message of its fault. -/
structure Catchup where
  cluster  : Nat
  block    : Nat
  rankings : Nat
  msg      : BitVec 64
deriving DecidableEq, Repr

/-- One timebase's entry of a snapshot table (R174); `lo` is a_last + D, `srcSpeed` and `srcAccel` are the matrix sources of R133. -/
structure TbSnap where
  angles : List Int
  speed  : Int
  accel  : Int
  state  : Nat
  jump   : Int
  lo     : Int
  gain   : List Int
  srcSpeed : Int
  srcAccel : Int
deriving DecidableEq, Repr

/-- The snapshot table of a block (R39); `ranges` holds the valid frames of each stream, at most two ranges (R85). -/
structure Snapshot where
  block  : Nat
  tbs    : List TbSnap
  ctl    : List Int
  fine   : List Int
  pgPrev : List Nat
  pg     : List Nat
  ranges : List (Nat × List (Nat × Nat))
deriving DecidableEq, Repr

/-- The sums of one logical cluster in one block, channel by channel, 16 samples each: the exact S of R228. -/
structure ClusterSum where
  block   : Nat
  cluster : Nat
  vals    : List Int
deriving DecidableEq, Repr

/-- A safety voice-block waiting at the comparator (R307): 20 sends of 16 samples and the context at the block's
end; `differs` once a comparison found a mismatch, `split` where it was the comparator's copies that disagreed (R310), `released`
once the pair's sends have entered the device sum, `compared` once the comparison is settled. -/
structure TwinResult where
  block   : Nat
  v       : Nat
  twin    : Nat
  session : Nat
  sends   : List (List Int)
  ctx     : Ctx
  differs : Bool
  split    : Bool
  released : Bool
  compared : Bool
deriving DecidableEq, Repr

/-- A Wort bus block (R229), channel by channel, 16 samples each, and the channel that carries a diagnostic pilot (R525). -/
structure WortBlock where
  block : Nat
  vals  : List Int
  pilot : Option Nat
deriving DecidableEq, Repr

/-- `gains` holds the 32 bus gains in force for each of the last blocks (R231). `stopped` names logical clusters with the block
they stopped in and the message of their fault, `lost` those no physical cluster carries. `queued` holds the notes that take a
hard-stolen context over at the next boundary (R213), `ending` the voices whose context is free again while the spare still has
blocks of theirs to compute (R214, R303). `reserve` names the steal-reserve contexts of each logical cluster (R209). `svtOld`
holds the speaker-vector tables that were in force before a block (R140), `transients` the transients charged to each VPE (R308),
`copperBad` the frame of the last Copper core mismatch (R313). -/
structure Mash where
  voices    : Sparse Voice
  queued    : Sparse Voice
  ending    : Sparse Voice
  reserve   : List (List Nat)
  retired   : List Nat
  regions   : List Region
  clusterOf : List Nat
  stopped   : List (Nat × Nat × BitVec 64)
  lost      : List Nat
  catchups  : List Catchup
  snaps     : List Snapshot
  sums      : List ClusterSum
  twins     : List TwinResult
  wort      : List WortBlock
  gains     : List (Nat × List Nat)
  resSlots  : List (Nat × Nat)
  svt       : List (List Nat)
  svtOld    : List (Nat × List (List Nat))
  wave      : List (Sparse Word)
  disabled  : List Nat
  mixCopy   : Option Nat
  transients : Sparse Nat
  copperBad : Option Nat
  shedAt    : Nat
deriving DecidableEq, Repr

/-! ### Timebases -/

/-- The reference of an angle trajectory (R170): w in units per core cycle with F fraction bits, alpha in units per core cycle
squared with 2 F, the angle with 2 F + 1 (F of log 9). -/
structure TbRef where
  a     : Int
  t     : Int
  w     : Int
  alpha : Int
  hold  : Option Nat
deriving DecidableEq, Repr

/-- A tracker; `quiet` says that its timeout has run out since its last input (R175). -/
structure Tracker where
  state    : Nat
  nextState : Option Nat
  reverse  : Bool
  lastEdge : Option Nat
  rise     : Option Nat
  p        : Nat
  span     : Nat
  valid    : Nat
  first    : Bool
  w        : Int
  alpha    : Int
  wPrev    : Int
  pPrev    : Nat
  tooth    : Nat
  rev      : Int
  aligned  : Bool
  refSeen  : Bool
  quad     : List Nat
  ref      : TbRef
  newRef   : Option TbRef
  jumpBy   : Int
  entering : Bool
  lost     : Bool
  o        : Int
  k        : Nat
  aLast    : Int
  rampB    : Nat
  late     : Bool
  losses   : Nat
  lates    : Nat
  cause    : Nat
  pos      : Nat
  speed    : Int
  lastInput : Nat
  quiet    : Bool
deriving DecidableEq, Repr

/-! ### Grist store -/

/-- An open or primed stream, its identity and its ring (R268, R275); `frames` lists the frames present. -/
structure Stream where
  id      : Nat
  ring    : Nat
  voice   : Option Nat
  osc     : Nat
  object  : Nat
  addr    : Nat
  mirror  : Nat
  wide    : Bool
  rate    : Nat
  root    : Int
  length  : Nat
  ls      : Nat
  le      : Nat
  band    : Nat
  mode    : Nat
  start   : Nat
  safety  : Bool
  prio    : Nat
  general : List Nat
  share   : List Nat
  frames  : List Nat
  targets : List (Nat × List Nat)
  opened  : Nat
  closing : Option Nat
  primed  : Bool
deriving DecidableEq, Repr

/-- A read queued or running on its ports (R272), for a stream by its identity; `refetch` marks R300's read of bytes already there. -/
structure GristRead where
  id       : Nat
  ports    : List Nat
  tier     : Nat
  deadline : Nat
  stream   : Nat
  frames   : List Nat
  refetch  : Bool
deriving DecidableEq, Repr

structure PortState where
  present   : Bool
  failed    : Bool
deriving DecidableEq, Repr

/-- The anchor in force (R259). -/
structure Anchor where
  copy       : Nat
  fwSlot     : Nat
  generation : Nat
  entries    : Nat
  mirrorM1   : Bool
deriving DecidableEq, Repr

/-- `serving` names the read that each port has taken up (R272). -/
structure Store where
  flash    : Sparse Byte
  rings    : Sparse Byte
  streams  : List Stream
  nextStream : Nat
  badRings : List Nat
  reads    : List GristRead
  nextId   : Nat
  serving  : List (Option Nat)
  bad      : List Nat
  ports    : List PortState
  anchor   : Anchor
  nextAnchor : Option Anchor
  scrubAt  : Nat
deriving DecidableEq, Repr

/-! ### Kiln -/

/-- A record of the Kiln log (R330); `bad` once its memory cannot be read (R325). -/
structure LogRec where
  msg    : BitVec 64
  time   : Nat
  master : Nat
  access : Nat
  flags  : Nat
  action : Nat
  seq    : Nat
  bad    : Bool
deriving DecidableEq, Repr

/-- A detector's message on its way into the Kiln, with master and access of R330. -/
structure Raised where
  msg    : BitVec 64
  master : Nat
  access : Nat
deriving DecidableEq, Repr

/-- The capture set (R328, R350). -/
structure CaptureSet where
  valid     : Bool
  cls       : Nat
  fromLatch : Bool
  acted     : Bool
  merged    : Nat
  seq       : Nat
  msg       : BitVec 64
  master    : Nat
  access    : Nat
  conseq    : Nat
  time      : Nat
deriving DecidableEq, Repr

/-- A pending action (R333), with the log record of its message. -/
structure PendAct where
  msg      : BitVec 64
  record   : Nat
  action   : Nat
  deadline : Nat
deriving DecidableEq, Repr

/-- A block under reset (R338) or in the window after it (R341): target of R444, first boundary, end. -/
structure BlockWindow where
  target : Nat
  inReset : Bool
  until_ : Nat
deriving DecidableEq, Repr

/-- `raised` holds the messages of the present core cycle, which the Kiln has still to take (R321). -/
structure Kiln where
  raised   : List Raised
  cap      : CaptureSet
  acts     : List PendAct
  ready    : List PendAct
  log      : List LogRec
  seq      : Nat
  safe     : Bool
  halted   : Bool
  resetReq : List Nat
  windows  : List BlockWindow
  c0Win    : List (Nat × Nat)
  c0Told   : List Nat
  hbLast   : Nat
  hbMissed : Option Nat
deriving DecidableEq, Repr

/-! ### Copper DSP -/

/-- What a write in flight changes: a register code of R485, or a word of X, Y or the I/O space. -/
inductive CopTarget where
  | reg (code : Nat)
  | x (addr : Nat)
  | y (addr : Nat)
  | io (addr : Nat)
deriving DecidableEq, Repr

/-- A write that lands at the end of the next instruction (R462, R463). -/
structure Flight where
  target : CopTarget
  value  : Word
deriving DecidableEq, Repr

structure Crossfade where
  len  : Nat
  t    : Nat
  base : Nat
  olds : List Int
  news : List Int
deriving DecidableEq, Repr

structure Copper where
  on       : Bool
  active   : Nat
  loaded   : Bool
  hasProg  : Bool
  pwords   : List Nat
  prmBase  : List Nat
  prmVals  : List (List Word)
  prog     : List (Sparse ProgWord)
  x        : Sparse Word
  y        : Sparse Word
  d        : List Word
  a        : List Acc
  aOld     : List Acc
  ptr      : List (BitVec 16)
  md       : List (BitVec 16)
  base     : List (BitVec 16)
  len      : List (BitVec 16)
  lc       : BitVec 16
  ls       : BitVec 14
  le       : BitVec 14
  pc       : BitVec 14
  ipc      : BitVec 14
  sr       : BitVec 16
  isr      : BitVec 16
  flights  : List Flight
  branch   : Option (BitVec 14 × Nat)
  rep      : Option Nat
  afterLoop : Bool
  wait     : Bool
  trapped  : Bool
  missed   : Nat
  cycles   : Nat
  used     : Nat
  usedMax  : Nat
  irqPend  : BitVec 4
  irqEn    : BitVec 4
  overruns : Nat
  traps    : Nat
  first    : Bool
  fast     : List Word
  slots    : List Word
  xch      : List Word
  inputs   : Sparse Word
  frame    : Nat
  params   : List (Bool × Nat × Word)
  fade     : Option Crossfade
  outq     : List (Nat × Nat × Bool × Word)
  swapLen  : Option Nat
deriving DecidableEq, Repr

/-! ### TDM, Sparge, DACs, timers, UARTs, memories, chain -/

structure Tdm where
  running  : Bool
  restart  : Option Nat
  outNext  : Nat
  sent     : List Int
  good     : Nat
  locked   : Bool
  inPhase  : Nat
  inLast   : List Word
  inPrev   : List Word
  inFrame  : Nat
deriving DecidableEq, Repr

structure Threshold where
  isIn  : Bool
  dwell : Nat
  stamp : Nat
deriving DecidableEq, Repr

structure SenseCh where
  align   : Nat
  groups  : Nat
  s1      : List Int
  s2      : List Int
  y       : List Int
  coarse  : Int
  fine    : Int
  valid   : Bool
  clean   : Nat
  lastOk  : Int
  ovl     : Bool
  frame   : Nat
  thr     : List Threshold
deriving DecidableEq, Repr

/-- A DAC; `gain2` and `refExt` are the range that drives its string (R514): G of 2, and DAC_REF in place of the internal
reference. -/
structure DacState where
  raw     : Nat
  gain2   : Bool
  refExt  : Bool
  queue   : List Nat
  phase   : Nat
  sine    : Bool
  cask    : Bool
  faulted : Bool
  lastTick : Option Nat
deriving DecidableEq, Repr

structure TimerUnit where
  phase : Nat
  edges : Nat
  held  : Bool
deriving DecidableEq, Repr

structure TimerCluster where
  down : Bool
  heldReload : Option Nat
  heldDuty   : Option Nat
  overridden : Option Bool
deriving DecidableEq, Repr

/-- A line (chapter 18). `active` holds the settings in force: CTRL and RATE of the receiver, then of the transmitter;
`newSettings` says that a write which came over the line itself still waits for its response to go out (R565). -/
structure Uart where
  fifo    : List (Byte × Bool)
  partialBlock : Nat
  frame   : List Byte
  frameBad : Bool
  ready   : List (List Byte × Bool)
  outq    : List (List Byte)
  de      : Bool
  lastTx  : List Byte
  active  : List Word
  newSettings : Bool
deriving DecidableEq, Repr

/-- State of a memory bank (R582): `exiting` leaves retention, `powering` leaves off and then clears. -/
inductive BankPower where
  | on | retention | off | exiting | powering | clearing
deriving DecidableEq, Repr

/-- An atomic operation that waits for its bank (R583): word, swap or add, operand, whether its read is uncorrectable. -/
structure StalledOp where
  word  : Nat
  swap  : Bool
  value : Word
  bad   : Bool
deriving DecidableEq, Repr

/-- `locked` holds the bank locks as the last boundary, or a later lock, left them; `badScratch` names scratch words that read as
uncorrectable, `pairBad` words of the doubly written memories of which one bank does (R325). -/
structure Memories where
  scratch : Sparse Word
  sys     : Sparse Word
  banks   : List BankPower
  locked  : Nat
  stalled : List StalledOp
  lastOld : Word
  badScratch : List Nat
  pairBad : List (Nat × Nat × Nat)
deriving DecidableEq, Repr

/-- What a chain frame offers for the election (R591): ID, hops field, N - 1. -/
structure Elect where
  id   : BitVec 64
  hops : Nat
  n    : Nat
deriving DecidableEq, Repr

/-- The chain link (chapter 20). `txFrame` and `rxFrame` number the sample frames last sent and received; `heard` is the last
good frame's offer, `settled` the own offer whose unchanged frames `settle` counts; `hold` the groups of frame f_q, position by
position; `rise` and `fall` the blocks of a takeover's rise and fall; `starts` the global starts by sending frame. -/
structure Chain where
  txFrame   : Nat
  rxFrame   : Nat
  goodRun   : Nat
  badRun    : Nat
  settle    : Nat
  heard     : Option Elect
  settled   : Option Elect
  rootId    : BitVec 64
  ringN     : Nat
  enteredRun : Bool
  rxWords   : List Word
  rxGood    : Bool
  txWords   : List Word
  hold      : List (Nat × List (Option (List Int)))
  lastMix   : List (List Int)
  absentFor : List Nat
  backFor   : List Nat
  deadFor   : List Nat
  told      : List Bool
  takeNext  : List Nat
  rise      : List (Option Nat)
  fall      : List (Option (Nat × Nat))
  starts    : List (Nat × Nat)
  ownStart  : Option Nat
  slots     : List (Option (List Word))
  realign   : Bool
deriving DecidableEq, Repr

/-! ### The whole state -/

structure State where
  pending   : List Instr
  freeCount : Nat
  part      : Part
  time      : Nat
  lastBlock : Nat
  pwr       : Power
  host      : HostPort
  fw        : Firmware
  regs      : Sparse Word
  hop       : Hopper
  mash      : Mash
  tbs       : List Tracker
  tbPins    : List (Bool × Nat)
  store     : Store
  kiln      : Kiln
  cop       : Copper
  tdm       : Tdm
  sns       : List SenseCh
  prof      : List Bool
  dacs      : List DacState
  tmr       : List TimerUnit
  tcl       : List TimerCluster
  uarts     : List Uart
  mem       : Memories
  chain     : Chain
deriving DecidableEq, Repr

/-! ### Reset values of the units, as every reset leaves them (R626) -/

def Session.closed : Session := ⟨false, false, 0, 0⟩

def HostPort.reset : HostPort where
  mbxCollide := false
  crcErr := false
  addrErr := false
  frameErr := false
  xferCnt := 0
  cmdHead := 0
  cmdTail := 0
  rspHead := 0
  rspTail := 0
  evtHead := 0
  evtTail := 0
  bellCmd := false
  bellBulk := [false, false]
  own := [false, false]
  irqStatus := 0
  irqEnable := 0x460
  crcEn := false
  aliveCfg := 0x101
  softArmed := none
  hoStep := 0
  hoResult := 0
  hoCount := 0
  activeSlot := 0
  collideAddr := 0
  mailbox := []
  sdo := []
  angleBlock := 0
  angles := [0, 0, 0, 0]

def Firmware.reset : Firmware where
  running := false
  paused := false
  helloDone := false
  agreed := 0
  version := 0
  unitAgreed := 0
  unitPending := false
  region1From := none
  sessions := List.replicate 32 Session.closed
  evtSeq := 0
  dropped := 0
  seenRspTail := 0
  seenEvtTail := 0
  limit := 0
  writes := []
  jobs := []
  replies := []
  banks := [none, none, none, none]
  bankNext := []
  tables := []
  svtObject := none
  svtNext := none
  capture := none
  diag := none
  diagLast := none
  stamp := 0
  tbUpdates := []
  update := 0
  changed := []
  anchorDue := false
  pausedAt := 0
  restart := false

def Hopper.reset : Hopper where
  tasks := []
  gen := []
  left := []
  ctl := List.replicate 8 0
  hostGain := List.replicate 8 0x8000
  pg := List.replicate 8 0x8000
  pgPrev := List.replicate 8 0x8000
  counts := [RegionCounts.zero, RegionCounts.zero]
  fade := [4, 4]
  fadeNext := []
  senses := []

def Region.reset (on : Bool) : Region where
  inService := on
  quarantined := false
  halves := [.good, .good]
  mixBad := none
  mixPermanent := false
  ceiling := none

def Mash.reset : Mash where
  voices := []
  queued := []
  ending := []
  reserve := (List.range 4).map fun l => [l * 512 + 248, l * 512 + 249, l * 512 + 250, l * 512 + 251, l * 512 + 252, l * 512 + 253,
    l * 512 + 254, l * 512 + 255, l * 512 + 504, l * 512 + 505, l * 512 + 506, l * 512 + 507, l * 512 + 508, l * 512 + 509,
    l * 512 + 510, l * 512 + 511]
  retired := []
  regions := [Region.reset true, Region.reset false]
  clusterOf := [0, 1, 3, 4]
  stopped := []
  lost := []
  catchups := []
  snaps := []
  sums := []
  twins := []
  wort := []
  gains := []
  resSlots := []
  svt := [[], []]
  svtOld := []
  wave := [[], []]
  disabled := []
  mixCopy := none
  transients := []
  copperBad := none
  shedAt := 0

def Tracker.off : Tracker where
  state := 0
  nextState := none
  reverse := false
  lastEdge := none
  rise := none
  p := 0
  span := 1
  valid := 0
  first := true
  w := 0
  alpha := 0
  wPrev := 0
  pPrev := 0
  tooth := 0
  rev := 0
  aligned := false
  refSeen := false
  quad := []
  ref := ⟨0, 0, 0, 0, none⟩
  newRef := none
  jumpBy := 0
  entering := false
  lost := false
  o := 0
  k := 0
  aLast := 0
  rampB := 0
  late := false
  losses := 0
  lates := 0
  cause := 0
  pos := 0
  speed := 0
  lastInput := 0
  quiet := false

def PortState.off : PortState := ⟨false, false⟩

def Anchor.none : Anchor := ⟨0, 0, 0, 0, false⟩

/-- The store after a reset that leaves the flash devices' content as it is. -/
def Store.reset (flash : Sparse Byte) : Store where
  flash := flash
  rings := []
  streams := []
  nextStream := 0
  badRings := []
  reads := []
  nextId := 0
  serving := [Option.none, Option.none]
  bad := []
  ports := [PortState.off, PortState.off]
  anchor := Anchor.none
  nextAnchor := Option.none
  scrubAt := 0

def Kiln.reset : Kiln where
  raised := []
  cap := ⟨false, 0, false, false, 0, 0, 0, 0, 0, 0, 0⟩
  acts := []
  ready := []
  log := []
  seq := 0
  safe := false
  halted := false
  resetReq := []
  windows := []
  c0Win := []
  c0Told := []
  hbLast := 0
  hbMissed := none

/-- The Copper domain switched off, or just powered up with its memories cleared (R456); registers as R457. -/
def Copper.reset (on : Bool) : Copper where
  on := on
  active := 0
  loaded := false
  hasProg := false
  pwords := [0, 0]
  prmBase := [0, 0]
  prmVals := [[], []]
  prog := [[], []]
  x := []
  y := []
  d := List.replicate 8 0
  a := List.replicate 4 0
  aOld := List.replicate 4 0
  ptr := List.replicate 8 0
  md := List.replicate 8 0
  base := List.replicate 8 0
  len := List.replicate 8 0
  lc := 0
  ls := 0
  le := 0
  pc := 0
  ipc := 0
  sr := 0x0100
  isr := 0
  flights := []
  branch := none
  rep := none
  afterLoop := false
  wait := true
  trapped := false
  missed := 0
  cycles := 0
  used := 0
  usedMax := 0
  irqPend := 0
  irqEn := 0
  overruns := 0
  traps := 0
  first := false
  fast := [0, 0]
  slots := List.replicate 64 0
  xch := List.replicate 64 0
  inputs := []
  frame := 0
  params := []
  fade := none
  outq := []
  swapLen := none

def Tdm.reset : Tdm where
  running := false
  restart := none
  outNext := 0
  sent := List.replicate 64 0
  good := 0
  locked := false
  inPhase := 0
  inLast := List.replicate 32 0
  inPrev := List.replicate 32 0
  inFrame := 0

def Threshold.out : Threshold := ⟨false, 0, 0⟩

def SenseCh.reset : SenseCh where
  align := 0
  groups := 0
  s1 := []
  s2 := []
  y := []
  coarse := 0
  fine := 0
  valid := false
  clean := 0
  lastOk := 0
  ovl := false
  frame := 0
  thr := [Threshold.out, Threshold.out]

/-- A DAC on its Cask code (R518): the fault code where the latch is set. -/
def DacState.onCask (c : Cask) (latched : Bool) (d : Nat) : DacState where
  raw := if latched then c.dacFault.getD d 0 else c.dacPwrup.getD d 0
  gain2 := c.dacRange.testBit d
  refExt := false
  queue := []
  phase := 0
  sine := false
  cask := !latched
  faulted := latched
  lastTick := none

def TimerUnit.reset : TimerUnit := ⟨0, 0, false⟩
def TimerCluster.reset : TimerCluster := ⟨false, none, none, none⟩

def Uart.reset (x : Nat) : Uart where
  fifo := []
  partialBlock := 0
  frame := []
  frameBad := false
  ready := []
  outq := []
  de := false
  lastTx := []
  active := [if x = 0 then 1 else 0, 0x1E00, if x = 0 then 1 else 0, 0x1E00]
  newSettings := false

def Memories.reset : Memories where
  scratch := []
  sys := []
  banks := List.replicate 12 .on
  locked := 0x300
  stalled := []
  lastOld := 0
  badScratch := []
  pairBad := []

def Chain.reset : Chain where
  txFrame := 0
  rxFrame := 0
  goodRun := 0
  badRun := 0
  settle := 0
  heard := none
  settled := none
  rootId := 0
  ringN := 0
  enteredRun := false
  rxWords := []
  rxGood := false
  txWords := []
  hold := []
  lastMix := List.replicate 4 (List.replicate 8 0)
  absentFor := [16, 16, 16, 16]
  backFor := [0, 0, 0, 0]
  deadFor := [0, 0, 0, 0]
  told := [false, false, false, false]
  takeNext := []
  rise := [none, none, none, none]
  fall := [none, none, none, none]
  starts := []
  ownStart := none
  slots := [none, none, none, none]
  realign := false

/-- The supplies and clocks right after power-on reset (R626): every rail still below its release level (R606). -/
def Power.reset : Power where
  phase := .inReset
  railLow := [true, true, true, true]
  resetHeld := false
  driveLow := true
  warned := List.replicate 8 false
  refUsed := none
  qualP := none
  qualB := none
  holdover := none
  holdTold := false
  mainLoop := true
  standbyLoop := true
  shadow := Cask.blank
  latch := none
  dieWatch := false
  tempDig := 0
  tempAna := 0
  tempTold := List.replicate 4 false
  hotBlocks := 0
  wakeSet := []
  woken := false
  por := true
  alive := false
  aliveNext := none
  bootSlot := 0
  bootFault := 0
  tap := .idcode
  debugHalt := false
  standbyReq := false
  wakeCause := none
  resetCause := 1
  life := [0, 1, 0, 0, 0, 0, 0, 0, 0, 0, 0, 0, 0, 0, 0, 0]
  lifeSet := false
  lanes := [true, true]

/-- The part right after power-on reset. Variant, Cask and flash content are the model's choice (logs 4 and 7); a TB pin
is taken as low until its first edge (DESIGN CHOICE, log 75). -/
def State.reset : State where
  pending := []
  freeCount := 0
  part := ⟨.qk2048a, Cask.blank, []⟩
  time := 0
  lastBlock := 0
  pwr := Power.reset
  host := HostPort.reset
  fw := Firmware.reset
  regs := []
  hop := Hopper.reset
  mash := Mash.reset
  tbs := List.replicate 4 Tracker.off
  tbPins := List.replicate 4 (false, 0)
  store := Store.reset []
  kiln := Kiln.reset
  cop := Copper.reset false
  tdm := Tdm.reset
  sns := List.replicate 8 SenseCh.reset
  prof := [false, false]
  dacs := (List.range 4).map (DacState.onCask Cask.blank false)
  tmr := List.replicate 4 TimerUnit.reset
  tcl := List.replicate 3 TimerCluster.reset
  uarts := [Uart.reset 0, Uart.reset 1]
  mem := Memories.reset
  chain := Chain.reset

end Sys2Proof.Machine
end

