-- ==== Sys2Proof/Machine/Ops.lean ====
section
/-! DEFINITION. The named operations over sparse memories, byte images, check codes and bit fields, and the part's variant facts. -/
namespace Sys2Proof.Machine

/-! ### Sparse data -/

/-- What key `k` reads as; an unlisted key reads as `d k`. -/
def sget {α : Type} (d : Nat → α) : Sparse α → Nat → α
  | [], k => d k
  | (a, v) :: m, k => if k = a then v else sget d m k

/-- The entry at `k`, if listed. -/
def sfind {α : Type} : Sparse α → Nat → Option α
  | [], _ => none
  | (a, v) :: m, k => if k = a then some v else sfind m k

/-- The listing without key `k`. -/
def serase {α : Type} : Sparse α → Nat → Sparse α
  | [], _ => []
  | (a, v) :: m, k => if k = a then serase m k else (a, v) :: serase m k

/-- The listing with `k` bound to `v`, keys kept rising. -/
def sinsert {α : Type} : Sparse α → Nat → α → Sparse α
  | [], k, v => [(k, v)]
  | (a, w) :: m, k, v =>
    if k < a then (k, v) :: (a, w) :: m
    else if k = a then (k, v) :: m
    else (a, w) :: sinsert m k v

/-- Write `v` at `k`: writing what an unlisted key reads as removes the entry, so equal contents are equal lists. -/
def sput {α : Type} [DecidableEq α] (d : Nat → α) (m : Sparse α) (k : Nat) (v : α) : Sparse α :=
  if v = d k then serase m k else sinsert m k v

/-- Write consecutive values from key `k`. -/
def sputs {α : Type} [DecidableEq α] (d : Nat → α) (m : Sparse α) (k : Nat) : List α → Sparse α
  | [] => m
  | v :: vs => sputs d (sput d m k v) (k + 1) vs

/-- Keys strictly rising from `lo` on. -/
def srising {α : Type} : Nat → Sparse α → Bool
  | _, [] => true
  | lo, (a, _) :: m => decide (lo ≤ a) && srising (a + 1) m

/-- The canonical form: keys strictly rising and no entry equal to its default. -/
def swf {α : Type} [DecidableEq α] (d : Nat → α) (m : Sparse α) : Bool :=
  srising 0 m && m.all fun e => decide (e.2 ≠ d e.1)

/-- Update the element at an index of an array-like list. -/
def modAt {α : Type} (l : List α) (i : Nat) (f : α → α) : List α :=
  l.modify i f

/-- Element of a list of words or numbers, 0 beyond its end. -/
def nth (l : List Nat) (i : Nat) : Nat := l.getD i 0
def nthI (l : List Int) (i : Nat) : Int := l.getD i 0
def nthB (l : List Bool) (i : Nat) : Bool := l.getD i false
def nthW (l : List Word) (i : Nat) : Word := l.getD i 0

/-- The smallest element by a key, first one on a tie. -/
def minBy {α : Type} (lt : α → α → Bool) : List α → Option α
  | [] => none
  | a :: l => match minBy lt l with
    | none => some a
    | some b => if lt b a then some b else some a

/-- Insertion into a list ordered by `le`, after its equals. -/
def insertBy {α : Type} (le : α → α → Bool) (a : α) : List α → List α
  | [] => [a]
  | b :: l => if le b a then b :: insertBy le a l else a :: b :: l

/-- Stable sort by `le`. -/
def sortBy {α : Type} (le : α → α → Bool) (l : List α) : List α :=
  l.foldl (fun acc a => insertBy le a acc) []

/-! ### Bits -/

/-- Bits [lo + n - 1 : lo] of a number. -/
def bits (x lo n : Nat) : Nat := x / 2 ^ lo % 2 ^ n

/-- Bit i of a number. -/
def bit (x i : Nat) : Bool := x / 2 ^ i % 2 == 1

/-- The number a Bool stands for. -/
def b2n (b : Bool) : Nat := if b then 1 else 0

/-- The number whose bit i is the i-th Bool. -/
def packBits (l : List Bool) : Nat := l.foldr (fun b acc => b2n b + 2 * acc) 0

/-- A number of n bits read as two's complement. -/
def signed (n x : Nat) : Int :=
  let y := x % 2 ^ n
  if y < 2 ^ (n - 1) then (y : Int) else (y : Int) - (2 ^ n : Nat)

/-- Bit i set in a register. -/
def setBit (w : Word) (i : Nat) : Word := w ||| (1#32 <<< i)

/-- Field [lo + n - 1 : lo] of a register replaced by x. -/
def setField (w : Word) (lo n x : Nat) : Word :=
  let mask : Word := w32 ((2 ^ n - 1) * 2 ^ lo)
  (w &&& ~~~mask) ||| (w32 (x % 2 ^ n * 2 ^ lo))

/-- Saturating count of n bits. -/
def satAdd (n x k : Nat) : Nat := min (x + k) (2 ^ n - 1)

/-- Field [lo + n - 1 : lo] of a register counts `k` more, saturating (the manual's saturating counts). -/
def countField (w : Word) (lo n k : Nat) : Word :=
  setField w lo n (satAdd n (bits w.toNat lo n) k)

/-! ### Byte images (R13) -/

/-- Byte i of an image. -/
def u8 (l : List Byte) (i : Nat) : Nat := (l.getD i 0).toNat
/-- Little-endian 16-bit value at byte i. -/
def u16 (l : List Byte) (i : Nat) : Nat := u8 l i + 256 * u8 l (i + 1)
/-- Little-endian 32-bit value at byte i. -/
def u32 (l : List Byte) (i : Nat) : Nat := u16 l i + 65536 * u16 l (i + 2)
def s16 (l : List Byte) (i : Nat) : Int := signed 16 (u16 l i)
def s32 (l : List Byte) (i : Nat) : Int := signed 32 (u32 l i)

/-- The `n` little-endian bytes of a number. -/
def leBytes : Nat → Nat → List Byte
  | 0, _ => []
  | n + 1, x => BitVec.ofNat 8 x :: leBytes n (x / 256)

/-- An image with the bytes `bs` laid over it from byte `i`. -/
def overlay (l : List Byte) (i : Nat) (bs : List Byte) : List Byte :=
  l.take i ++ bs ++ l.drop (i + bs.length)

/-- The bytes of words, each little-endian. -/
def wordBytes (ws : List Word) : List Byte := ws.flatMap fun w => leBytes 4 w.toNat

/-- Words from bytes, little-endian, `n` of them. -/
def bytesWords : Nat → List Byte → List Word
  | 0, _ => []
  | n + 1, l => w32 (u32 l 0) :: bytesWords n (l.drop 4)

/-! ### Check codes -/

/-- One bit of the reflected CRC-32 (IEEE 802.3). -/
def crc32Bit (c : Nat) : Nat :=
  if c % 2 = 1 then (c / 2) ^^^ 0xEDB88320 else c / 2

def crc32Byte (c : Nat) (b : Byte) : Nat :=
  (List.range 8).foldl (fun c _ => crc32Bit c) (c ^^^ b.toNat)

/-- CRC-32 (IEEE 802.3) of bytes. -/
def crc32 (l : List Byte) : Nat := (l.foldl crc32Byte 0xFFFFFFFF) ^^^ 0xFFFFFFFF

def crc16Bit (c : Nat) : Nat :=
  if c / 32768 % 2 = 1 then (c * 2 % 65536) ^^^ 0x1021 else c * 2 % 65536

/-- CRC-16 of R567: polynomial 0x1021, initial 0xFFFF, not reflected, not inverted. -/
def crc16 (l : List Byte) : Nat :=
  l.foldl (fun c b => (List.range 8).foldl (fun c _ => crc16Bit c) (c ^^^ (b.toNat * 256))) 0xFFFF

def crc8Bit (c : Nat) : Nat :=
  if c / 128 % 2 = 1 then (c * 2 % 256) ^^^ 0x2F else c * 2 % 256

/-- CRC-8 of R364: polynomial 0x2F, initial 0xFF, final exclusive-or 0xFF. -/
def crc8 (l : List Byte) : Nat :=
  (l.foldl (fun c b => (List.range 8).foldl (fun c _ => crc8Bit c) (c ^^^ b.toNat)) 0xFF) ^^^ 0xFF

/-- The bytes of a word most significant first, as the SPI port shifts it (R14). -/
def beBytes (w : Word) : List Byte := (leBytes 4 w.toNat).reverse

/-! ### Variant facts (R2, R5, R51) -/

def Variant.regionCount : Variant → Nat
  | .qk2048a => 2
  | _ => 1

def Variant.voices : Variant → Nat
  | .qk2048a => 2048
  | _ => 1024

def Variant.hasCopper : Variant → Bool
  | .qk1024n => false
  | _ => true

/-- HW_FEATURE0.PRESENT (10 HW_FEATURE0). -/
def Variant.features : Variant → Word
  | .qk2048a => 0xFFFF
  | .qk1024a => 0xFFBE
  | .qk1024n => 0xFBB8

def Variant.devId : Variant → Word
  | .qk2048a => 0x514B2048
  | .qk1024a => 0x514B1024
  | .qk1024n => 0x514B1025

/-- IDCODE (R648). -/
def Variant.idcode : Variant → Word
  | .qk2048a => 0x0514B0D5
  | .qk1024a => 0x0514A0D5
  | .qk1024n => 0x051490D5

/-! ### Time -/

/-- Block index of a device time (R24). -/
def blockOf (t : Nat) : Nat := t / 4096

/-- Sample frame index of a device time (R25). -/
def frameOf (t : Nat) : Nat := t / 256

/-- Device time is running (R610, R618): from PLL lock on, by core or LF clock. -/
def State.clocked (s : State) : Bool :=
  match s.pwr.phase with
  | .inReset | .released => false
  | _ => true

/-- The part has reached READY and is not in standby. -/
def State.isReady (s : State) : Bool := s.pwr.phase == .ready

/-- The firmware runs and takes commands: READY, not paused by handover or restart, not halted by DEBUG. -/
def State.fwTakes (s : State) : Bool :=
  s.isReady && s.fw.running && !s.fw.paused && !s.pwr.debugHalt

/-- A feature bit is agreed (R400). -/
def State.agrees (s : State) (k : Nat) : Bool := s.fw.agreed.getLsbD k

/-- A feature's unit effect is in force (R402). -/
def State.unitOn (s : State) (k : Nat) : Bool := s.fw.unitAgreed.getLsbD k

/-- The store runs on M0 alone (R256). -/
def State.m0Only (s : State) : Bool :=
  s.part.variant == .qk1024n || !(s.store.ports.getD 1 PortState.off).present || !s.unitOn 2

/-- The next boundary, counted from the last one processed. -/
def State.nextBlock (s : State) : Nat := s.lastBlock + 1

/-- A free value is drawn: the number of the draw, and the state with the count advanced. -/
def drawFree (s : State) : Nat × State :=
  ((Config.freeValue s.freeCount).toNat, { s with freeCount := s.freeCount + 1 })

end Sys2Proof.Machine
end

