-- ==== Sys2Proof/Machine/Fixed.lean ====
section
/-! DEFINITION. Fixed-point arithmetic: rounding and saturation (00 R11, R12), the held gains (R682), and the functions of
chapters 02 to 04 that the manual gives as real functions, evaluated with 96 fraction bits and the implementation's allowed deviation (log 8). -/
namespace Sys2Proof.Machine

/-! ### Rounding and saturation -/

/-- v / 2^k, rounded convergently (R11). -/
def rndShift (v : Int) (k : Nat) : Int :=
  let d : Int := 2 ^ k
  let q := v / d
  let r := v % d
  if 2 * r > d ∨ (2 * r = d ∧ q % 2 = 1) then q + 1 else q

/-- num / den for den > 0, rounded convergently. -/
def rndDiv (num den : Int) : Int :=
  let q := num / den
  let r := num % den
  if 2 * r > den ∨ (2 * r = den ∧ q % 2 = 1) then q + 1 else q

/-- Saturation to [lo, hi] (R12). -/
def satI (lo hi v : Int) : Int := if v < lo then lo else if hi < v then hi else v

/-- Saturation to signed 1.31. -/
def sat31 (v : Int) : Int := satI (-0x80000000) 0x7FFFFFFF v

/-- Modulo 2^32, read as unsigned. -/
def u32i (v : Int) : Nat := (v % 0x100000000).toNat

/-- Modulo 2^32, read as signed. -/
def s32i (v : Int) : Int := signed 32 (u32i v)

/-- Modulo 2^64, read as signed (R153). -/
def s64i (v : Int) : Int := signed 64 (v % 0x10000000000000000).toNat

/-- A product rounded convergently to 1.31. -/
def mul31 (a b : Int) : Int := rndShift (a * b) 31

/-- A value clamped to a deviation bound. -/
def within (bound dev : Int) : Int := satI (-bound) bound dev

/-! ### Real functions with 96 fraction bits -/

def fpOne : Int := 2 ^ 96

/-- π. -/
def fpPi : Int := 248902613312231085230521944622

/-- ln 2. -/
def fpLn2 : Int := 54916777467707473351141471128

/-- The rest of a power series: `term` is the present term, the next one is term × x × y / (a (a + s) 2^192) with a growing by d. -/
def fpSeries (x : Int) (next : Int → Nat → Int) : Nat → Nat → Int → Int
  | 0, _, term => term
  | fuel + 1, k, term => term + fpSeries x next fuel (k + 1) (next term k)

/-- e^x for 0 ≤ x < 1. -/
def fpExp (x : Int) : Int :=
  fpSeries x (fun t k => t * x / fpOne / ((k : Int) + 1)) 40 0 fpOne

/-- cos x. -/
def fpCos (x : Int) : Int :=
  let x2 := x * x / fpOne
  fpSeries x (fun t k => -(t * x2 / fpOne) / (((2 * k + 1) * (2 * k + 2) : Nat) : Int)) 40 0 fpOne

/-- sin x. -/
def fpSin (x : Int) : Int :=
  let x2 := x * x / fpOne
  fpSeries x (fun t k => -(t * x2 / fpOne) / (((2 * k + 2) * (2 * k + 3) : Nat) : Int)) 40 0 x

/-- 2^(num / den), den > 0. -/
def fpExp2 (num : Int) (den : Nat) : Int :=
  let whole := num / (den : Int)
  let frac := num % (den : Int)
  let m := fpExp (frac * fpLn2 / (den : Int))
  if 0 ≤ whole then m * 2 ^ whole.toNat else m / 2 ^ (-whole).toNat

/-- I0(z) from q = z² / 4 (the modified Bessel function of order 0). -/
def fpBessel (q : Int) : Int :=
  fpSeries q (fun t k => t * q / fpOne / (((k + 1) * (k + 1) : Nat) : Int)) 60 0 fpOne

/-! ### Held gains (R682) -/

/-- A real gain in 1.31, 1.0 as 0x7FFF_FFFF. -/
def heldGain (x : Int) : Int := min 0x7FFFFFFF (rndShift x 65)

/-- The raised-cosine fall at k of length L. -/
def cosFall (len k : Nat) : Int :=
  heldGain ((fpOne + fpCos (fpPi * ((k : Int) + 1) / (len : Int))) / 2)

/-- The raised-cosine rise at k of length L. -/
def cosRise (len k : Nat) : Int :=
  heldGain ((fpOne - fpCos (fpPi * ((k : Int) + 1) / (len : Int))) / 2)

/-- A fraction num / den as a held gain. -/
def heldFrac (num den : Nat) : Int := min 0x7FFFFFFF (rndDiv ((num : Int) * 2 ^ 31) (den : Int))

/-! ### Pitch (R62, R79), cutoff (R115), LFO (R130, R131) -/

/-- The phase increment of pitch p; pitches past 16 octaves above the reference all lie beyond every ceiling of R63. -/
def pitchInc (p : Int) : Nat :=
  let p := min p 12582912
  let exact := rndDiv (440 * 2 ^ 32 * fpExp2 p 786432) (96000 * fpOne)
  (exact + within (max 1 (exact / 2 ^ 24)) (Config.incDev p)).toNat

/-- The playback ratio in 4.28 before its limit, for a source rate and a pitch above the root. -/
def playRatio (rate : Nat) (p : Int) : Nat :=
  let p := satI (-50331648) 12582912 p
  let exact := rndDiv ((rate : Int) * 2 ^ 28 * fpExp2 p 786432) (96000 * fpOne)
  (exact + within (exact / 2 ^ 24) (Config.ratioDev rate p)).toNat

/-- g of R115 in 4.28 for a limited cutoff c. -/
def cutoffG (c : Int) : Int :=
  let x := fpPi * (440 * fpExp2 c 786432) / (96000 * fpOne)
  let exact := rndDiv (fpSin x * 2 ^ 28) (fpCos x)
  exact + within (exact / 2 ^ 20) (Config.cutoffDev c)

/-- The reciprocal of a positive 4.28 value, in 4.28 (R116). -/
def recip28 (d : Int) : Int :=
  let exact := rndDiv (2 ^ 56) (max 1 d)
  exact + within (exact / 2 ^ 26) (Config.recipDev d)

/-- The LFO increment for a rate in Hz (16.16) and a modulation m in 1.31: the rate is limited to 1,000 Hz, and the increment
deviates from the exact one within R130's bound on either side, at the limit too. -/
def lfoInc (rate : Nat) (m : Int) : Nat :=
  let exact := rndDiv (min (1000 * 2 ^ 32 * fpOne) ((rate : Int) * 2 ^ 16 * fpExp2 (8 * m) (2 ^ 31))) (96000 * fpOne)
  (exact + within (max 1 (exact / 2 ^ 24)) (Config.lfoDev rate m)).toNat

/-- The LFO sine of a phase, within 2^-24 of full scale (R131). -/
def lfoSine (phase : Nat) : Int :=
  let x := 2 * fpPi * (phase : Int) / 2 ^ 32
  satI (-0x7FFFFFFF) 0x7FFFFFFF (rndDiv (fpSin (x - (if phase < 2 ^ 31 then 0 else 2 * fpPi)) * 0x7FFFFFFF) fpOne
    + within 128 (Config.sineDev phase))

/-! ### Exponential shape (R122) -/

/-- Point k of the table, 0.32: exact at both ends. -/
def expoPoint (k : Nat) : Int :=
  if k = 0 then 0
  else if 1024 ≤ k then 2 ^ 32
  else
    rndDiv ((fpOne - fpExp2 (-(k : Int)) 128) * 2 ^ 32 * 256) (255 * fpOne) + within 1 (Config.expoDev k)

/-- expo(q) for q in 0.32, with 54 fraction bits: linear between table points. -/
def expoShape (q : Nat) : Int :=
  let k := q / 2 ^ 22
  if 1024 ≤ k then 2 ^ 54
  else
    let a := expoPoint k
    a * 2 ^ 22 + (expoPoint (k + 1) - a) * ((q % 2 ^ 22 : Nat) : Int)

/-! ### Windowed sinc kernels (R81) -/

/-- kernel(k - q / 512) × π q-independent factors: sinc × window before normalisation, with 96 fraction bits. -/
def kernelRaw (k : Int) (q : Nat) : Int :=
  let x512 := k * 512 - (q : Int)
  if x512 = 0 then fpBessel (16 * fpOne)
  else
    let sinAbs := fpSin (fpPi * (q : Int) / 512)
    let s := if k % 2 = 0 then -sinAbs else sinAbs
    let sinc := s * 512 * fpOne / (fpPi * x512)
    sinc * fpBessel (16 * fpOne - x512 * x512 * fpOne / (512 * 512)) / fpOne

/-- The taps of one stored phase from the kernel's values: normalised to a sum of 1.0 (2^31 + e / 4 in 1.31) and rounded convergently. -/
def normTaps (raw : List Int) (e : Int) : List Int :=
  let total := raw.foldl (· + ·) 0
  raw.map fun r => sat31 (rndDiv (r * (2 ^ 33 + e)) (max 1 (4 * total)))

/-- R81's normalisation: the rounded taps sum to 1.0 within 1 LSB. The sum normalised to is 1.0 itself where the rounded taps then
keep that bound, and else the nearest one, in quarter LSBs and the lower first, at which they do (DESIGN CHOICE, log 75). -/
def storedTaps (raw : List Int) : List Int :=
  let good (e : Int) : Bool := decide (((normTaps raw e).foldl (· + ·) 0 - 2 ^ 31).natAbs ≤ 1)
  normTaps raw (([0, -1, 1, -2, 2, -3, 3, -4, 4].find? good).getD 0)

/-- The stored taps of phase q, k = -3 to 4, in 1.31. -/
def kernelPhase (q : Nat) : List Int :=
  if q = 0 then [0, 0, 0, 0x7FFFFFFF, 0, 0, 0, 0]
  else if 512 ≤ q then [0, 0, 0, 0, 0x7FFFFFFF, 0, 0, 0]
  else storedTaps ((List.range 8).map fun (i : Nat) => kernelRaw ((i : Int) - 3) q)

/-- The taps at fraction t (0.32), interpolated between the two neighbouring stored phases, with 23 more fraction bits. -/
def kernelTaps (t : Nat) : List Int :=
  let q := t / 2 ^ 23
  let f : Int := (t % 2 ^ 23 : Nat)
  let a := kernelPhase q
  if f = 0 then a.map (· * 2 ^ 23)
  else (a.zip (kernelPhase (q + 1))).map fun e => e.1 * 2 ^ 23 + (e.2 - e.1) * f

/-! ### Random values (R90) -/

/-- qrand(seed, n, j, src) as a 32-bit number. -/
def qrand (seed n j src : Nat) : Nat :=
  let m : Nat := 2 ^ 32
  let x := (seed % m) ^^^ (n % m * 0x9E3779B1 % m) ^^^ (n / m % m * 0x85A308D3 % m)
    ^^^ ((j * 256 + src) % m * 0xC2B2AE3D % m)
  let x := x ^^^ (x / 2 ^ 16)
  let x := x * 0x7FEB352D % m
  let x := x ^^^ (x / 2 ^ 15)
  let x := x * 0x846CA68B % m
  x ^^^ (x / 2 ^ 16)

/-- qrand as signed 1.31. -/
def qrandI (seed n j src : Nat) : Int := signed 32 (qrand seed n j src)

end Sys2Proof.Machine
end

