-- ==== Sys2Proof/Machine/Images.lean ====
section
/-! DEFINITION. The register images (11 R406): sizes, reset values, access codes of every register, and the reads and writes of the file. -/
namespace Sys2Proof.Machine

/-- Access masks and reset value of a register; bits in no mask are RSV (R15, R16). -/
structure RegInfo where
  reset : Nat
  rw    : Nat
  w1c   : Nat
  ro    : Nat
  wo    : Nat
deriving DecidableEq, Repr

def rsv : RegInfo := ⟨0, 0, 0, 0, 0⟩
def rwReg (reset mask : Nat) : RegInfo := ⟨reset, mask, 0, 0, 0⟩
def roReg (reset mask : Nat) : RegInfo := ⟨reset, 0, 0, mask, 0⟩
def w1cReg (mask : Nat) : RegInfo := ⟨0, 0, mask, 0, 0⟩
def allBits : Nat := 0xFFFFFFFF

/-! Block IDs of R406. -/
def bTIMER : Nat := 0x01
def bUART0 : Nat := 0x02
def bUART1 : Nat := 0x03
def bSPARGE : Nat := 0x04
def bDAC : Nat := 0x05
def bTDMO : Nat := 0x06
def bTDMI : Nat := 0x07
def bGRIST : Nat := 0x08
def bCHAIN : Nat := 0x09
def bKILN : Nat := 0x0A
def bMEMCTL : Nat := 0x0B
def bTIMEBASE : Nat := 0x0C
def bWORT : Nat := 0x0D

/-- Bytes of a block's image; 0 for an ID that names no block. -/
def imageSize : Nat → Nat
  | 0x01 => 0x1A0
  | 0x02 => 0x1C
  | 0x03 => 0x1C
  | 0x04 => 0x140
  | 0x05 => 0x90
  | 0x06 => 0x54
  | 0x07 => 0x08
  | 0x08 => 0x44
  | 0x09 => 0x40
  | 0x0A => 0x300
  | 0x0B => 0x18
  | 0x0C => 0x140
  | 0x0D => 0x88
  | _ => 0

/-- TIMEBASE image (R188). -/
def infoTimebase (o : Nat) : RegInfo :=
  if o = 0 then rwReg 0 allBits
  else if o = 4 then w1cReg 0xFFFF
  else if o = 8 then rwReg 0 0xFFFF
  else if o < 0x40 then rsv
  else match o % 0x40 with
    | 0x00 => rwReg 0 0xF77
    | 0x04 => rwReg 0x0002003C 0x7FFFF
    | 0x08 => rwReg 0x40201808 allBits
    | 0x0C => rwReg 0 allBits
    | 0x10 => rwReg 1 0xF
    | 0x14 => rwReg 0x03E81032 0xFFFF7FFF
    | 0x18 => rwReg 0 allBits
    | 0x1C => rwReg 0x10 0xFF
    | 0x20 => rwReg 0x003200C8 allBits
    | 0x24 => rwReg 0x708 0xFFFF
    | 0x28 => roReg 0 0xFFFF0F1F
    | 0x2C => roReg 0 allBits
    | 0x30 => roReg 0 allBits
    | 0x34 => roReg 0 allBits
    | _ => rsv

/-- WORT image (R249). -/
def infoWort (o : Nat) : RegInfo :=
  if o < 0x50 ∨ (0x60 ≤ o ∧ o < 0x80) then rwReg 0x40000000 allBits
  else if o = 0x80 then w1cReg 0xFF0FFFFF
  else if o = 0x84 then roReg 0 allBits
  else rsv

/-- Reset of a TDMO slot map word (R250). -/
def tdmoMapReset (o : Nat) : Nat :=
  match o with
  | 0x10 => 0x83828180
  | 0x20 => 0x87868584
  | 0x30 => 0x8B8A8988
  | 0x40 => 0x8F8E8D8C
  | _ => 0

/-- TDMO image (R250); DIRECT is read-only on the QK1024N. -/
def infoTdmo (v : Variant) (o : Nat) : RegInfo :=
  if o = 0 then
    if v = .qk1024n then ⟨0xFF028, 0xF7FF, 0, 0xF0000, 0⟩ else rwReg 0xF028 0xFF7FF
  else if 0x10 ≤ o ∧ o < 0x50 then rwReg (tdmoMapReset o) 0x9F9F9F9F
  else if o = 0x50 then roReg 0 7
  else rsv

/-- TDMI image (R251). -/
def infoTdmi (o : Nat) : RegInfo :=
  if o = 0 then rwReg 0x3028 0x37FF
  else if o = 4 then ⟨0, 0, 2, 0xFFFF0001, 0⟩
  else rsv

/-- GRIST image (R289); the M1 registers read 0 on the QK1024N and refuse writes. -/
def infoGrist (v : Variant) (o : Nat) : RegInfo :=
  match o with
  | 0x00 => rwReg 0x03400A55 0x03FF7F7F
  | 0x04 => rwReg 0x7D0 0xFFFF
  | 0x10 => ⟨0, 7, 0, 0x011F1F00, 0⟩
  | 0x14 => if v = .qk1024n then roReg 0 allBits else ⟨0, 7, 0, 0x011F1F00, 0⟩
  | 0x20 => roReg 0 allBits
  | 0x24 => roReg 0 allBits
  | 0x28 => roReg 0 allBits
  | 0x2C => roReg 0 allBits
  | 0x30 => roReg 0 0x01FF1FFF
  | 0x34 => roReg 0 allBits
  | 0x38 => roReg 0 0xFFFF07FF
  | 0x3C => roReg 0 allBits
  | 0x40 => roReg 0 0x1F
  | _ => rsv

/-- Reserved fault kinds (R323). -/
def kindReserved (k : Nat) : Bool := k == 0 || decide (0x22 ≤ k)

/-- KILN image (R349). -/
def infoKiln (o : Nat) : RegInfo :=
  if o = 0 then rwReg 0x03E80501 0xFFFFFF03
  else if o = 4 then roReg 0 0xFFFF0007
  else if o = 8 then roReg 0 0xFFFF07FF
  else if 0x100 ≤ o ∧ o < 0x200 then
    let k := (o - 0x100) / 4
    rwReg (if kindReserved k then 0 else if k = 0x15 ∨ k = 0x1B then 0x321 else 0x320) 0x00FF07F7
  else if 0x200 ≤ o then roReg 0 allBits
  else rsv

/-- SPARGE image (R520). -/
def infoSparge (o : Nat) : RegInfo :=
  match o with
  | 0x00 => rwReg 0 0xFFFFFF
  | 0x04 => rwReg 0x02008008 0x07FDFF7F
  | 0x08 => rwReg 0x00773080 0x00FFF1FF
  | 0x0C => rwReg 0x400 0xFFFF
  | 0x10 => rwReg 0x20002000 allBits
  | 0x14 => rwReg 0x40002000 allBits
  | 0x18 => rwReg 0x40004000 allBits
  | 0x1C => rwReg 0x80008000 allBits
  | 0x20 => rwReg 0x40004000 allBits
  | 0x24 => rwReg 0x40004000 allBits
  | 0x28 => rwReg 0x40004000 allBits
  | 0x2C => rwReg 0x80008000 allBits
  | 0x30 => roReg 0 allBits
  | 0x34 => w1cReg 0xFFFFFF
  | 0x38 => roReg 0 0xFFFF0003
  | _ =>
    if o < 0x40 then rsv
    else match o % 0x20 with
      | 0x00 => rwReg 0 allBits
      | 0x04 => rwReg 0 0xFFFF03FF
      | 0x08 => rwReg 0 allBits
      | 0x0C => rwReg 0 0xFFFF03FF
      | 0x10 => roReg 0 allBits
      | 0x14 => roReg 0 allBits
      | 0x18 => roReg 0 allBits
      | _ => rsv

/-- DAC image (R521). -/
def infoDac (o : Nat) : RegInfo :=
  if o = 0 then rwReg 0 1
  else if o = 4 then roReg 0xF 0xFF
  else if o < 0x10 then rsv
  else match (o - 0x10) % 0x20 with
    | 0x00 => rwReg 0 0xF3F
    | 0x04 => rwReg 0 0xFFF
    | 0x08 => ⟨0, 0, 0, 0, 0xFFF⟩
    | 0x0C => roReg 0 0xFFFF007F
    | 0x10 => rwReg 0 allBits
    | 0x14 => rwReg 0 0x0FFF0FFF
    | 0x18 => rwReg 0 allBits
    | 0x1C => roReg 0 0xFFFF0FFF
    | _ => rsv

/-- TIMER image (R554). -/
def infoTimer (o : Nat) : RegInfo :=
  if o = 0 then ⟨0, 0, 0, 0, 0x17F⟩
  else if o = 4 then rwReg 1 1
  else if o = 8 then roReg 0 allBits
  else if o = 0xC then w1cReg 0x07FFFFFF
  else if o = 0x10 ∨ o = 0x14 then roReg 0 allBits
  else if o < 0x40 then rsv
  else if o < 0x140 then match o % 0x40 with
    | 0x00 => rwReg 0xC0 0xFFFFFF
    | 0x04 => rwReg 0 allBits
    | 0x08 => rwReg 0 allBits
    | 0x0C => roReg 0 allBits
    | 0x10 => rwReg allBits allBits
    | 0x14 => rwReg 0 allBits
    | 0x18 => rwReg allBits allBits
    | 0x1C => rwReg 0 allBits
    | 0x20 => rwReg allBits allBits
    | 0x24 => rwReg 0 allBits
    | 0x28 => rwReg allBits allBits
    | 0x2C => rwReg 0 allBits
    | 0x30 => roReg 0 0xFFFF0003
    | _ => rsv
  else match o % 0x20 with
    | 0x00 => rwReg 0 0x1F
    | 0x04 => rwReg 1 allBits
    | 0x08 => rwReg 0 allBits
    | 0x0C => roReg 0 allBits
    | 0x10 => roReg 0 0xF
    | _ => rsv

/-- UART images (R573). -/
def infoUart (x o : Nat) : RegInfo :=
  match o with
  | 0x00 => rwReg (if x = 0 then 1 else 0) 0x3F
  | 0x04 => rwReg 0x1E00 0xFFFFF
  | 0x08 => rwReg 0x1010 0xFFFF
  | 0x0C => rwReg 0x00400023 0x07FF00FF
  | 0x10 => ⟨0, 0, 0xF00, 3, 0⟩
  | 0x14 => roReg 0 allBits
  | 0x18 => roReg 0 allBits
  | _ => rsv

/-- MEMCTL image (R585). -/
def infoMemctl (o : Nat) : RegInfo :=
  match o with
  | 0x00 => rwReg 0 0xFFFF
  | 0x04 => rwReg 0 0xFF
  | 0x08 => roReg 0 0xFFFFFF
  | 0x0C => roReg 0 0xFFF
  | 0x10 => roReg 0 0xFFFF0FFF
  | 0x14 => rwReg 1000 0xFFFF
  | _ => rsv

/-- CHAIN image (R602). -/
def infoChain (o : Nat) : RegInfo :=
  match o with
  | 0x00 => rwReg 3 3
  | 0x04 => rwReg 0 0x9F9F9F9F
  | 0x08 => rwReg 0 0x9F9F9F9F
  | 0x0C => rwReg 0 0xF7F7F7F7
  | 0x10 => rwReg 0 0xF
  | 0x14 => rwReg 0 0x07070707
  | 0x18 => rwReg 0 0x11F
  | 0x1C => rwReg 0 0x11F
  | 0x20 => rwReg 0 0x11F
  | 0x24 => rwReg 0 0x11F
  | 0x30 => roReg 0 0xFFFFF
  | 0x34 => roReg 0 allBits
  | 0x38 => roReg 0 allBits
  | 0x3C => roReg 0 allBits
  | _ => rsv

/-- The register at an offset of a block's image. -/
def regInfo (v : Variant) (b o : Nat) : RegInfo :=
  match b with
  | 0x01 => infoTimer o
  | 0x02 => infoUart 0 o
  | 0x03 => infoUart 1 o
  | 0x04 => infoSparge o
  | 0x05 => infoDac o
  | 0x06 => infoTdmo v o
  | 0x07 => infoTdmi o
  | 0x08 => infoGrist v o
  | 0x09 => infoChain o
  | 0x0A => infoKiln o
  | 0x0B => infoMemctl o
  | 0x0C => infoTimebase o
  | 0x0D => infoWort o
  | _ => rsv

/-- Key of a register in the file. -/
def regKey (b o : Nat) : Nat := b * 0x10000 + o

/-- What an unlisted register reads as: its reset value. -/
def regDefault (v : Variant) (k : Nat) : Word := w32 (regInfo v (k / 0x10000) (k % 0x10000)).reset

/-- The stored value of a register. -/
def State.reg (s : State) (b o : Nat) : Word := sget (regDefault s.part.variant) s.regs (regKey b o)

/-- The stored value as a number. -/
def State.regN (s : State) (b o : Nat) : Nat := (s.reg b o).toNat

/-- Store a register value. -/
def State.setReg (s : State) (b o : Nat) (w : Word) : State :=
  { s with regs := sput (regDefault s.part.variant) s.regs (regKey b o) w }

/-- A register with every listing of its block removed: the image back at reset values. -/
def State.resetBlockRegs (s : State) (b : Nat) : State :=
  { s with regs := s.regs.filter fun e => e.1 / 0x10000 != b }

/-- A saturating count held in a register field counts k more. -/
def State.countReg (s : State) (b o lo n k : Nat) : State :=
  s.setReg b o (countField (s.reg b o) lo n k)

/-- The value a register takes from a written word by its access codes: RW bits from the word, W1C bits cleared, the rest kept (R16). -/
def applyAccess (i : RegInfo) (old new : Word) : Word :=
  (old &&& ~~~(w32 i.rw)) &&& ~~~(new &&& w32 i.w1c) ||| (new &&& w32 i.rw)

end Sys2Proof.Machine
end

