-- ==== Sys2Proof/Machine/Events.lean ====
section
/-! DEFINITION. The rings of the mailbox as the firmware uses them: interrupts, events and responses (10 R375, 11 R381 to R397). -/
namespace Sys2Proof.Machine

/-- How a meaning ends: the next state, in which the queue and what the factory fixed stand as they stood. -/
def State.done (s t : State) : Host.Outcome State Fault Refusal :=
  .next { t with pending := s.pending, part := s.part }

/-! ### Interrupts -/

/-- A set event of an IRQ_STATUS bit, whether or not it is enabled (R375). -/
def State.irq (s : State) (k : Nat) : State :=
  { s with host.irqStatus := setBit s.host.irqStatus k }

/-- HIRQ_N is driven low (R375); released in standby and before PLL lock (R618, R635). -/
def State.hirqLow (s : State) : Bool :=
  (s.host.irqStatus &&& s.host.irqEnable) != 0

/-- A step of the handover: STEP and RESULT, the interrupt bit (R411). The event is posted apart. -/
def State.setHandoverStep (s : State) (step result : Nat) : State :=
  { s.irq 7 with host.hoStep := step, host.hoResult := result }

/-! ### The mailbox, by word: 0 the command ring, 4,096 responses, 6,144 events, 8,192 and 12,288 the bulk halves (R381) -/

def State.mbx (s : State) (i : Nat) : Word := sget (fun _ => 0) s.host.mailbox i

def State.setMbx (s : State) (i : Nat) (w : Word) : State :=
  { s with host.mailbox := sput (fun _ => 0) s.host.mailbox i w }

/-- Words of a message written from ring position `i` on, modulo the ring's size (R382). -/
def State.ringWrite (s : State) (base n i : Nat) : List Word → State
  | [] => s
  | w :: ws => (s.setMbx (base + i % n) w).ringWrite base n ((i + 1) % n) ws

/-- The words of bulk half h from byte offset 0, `n` of them (R390). -/
def State.bulkWords (s : State) (h n : Nat) : List Word :=
  (List.range n).map fun i => s.mbx (8192 + 4096 * h + i)

/-- Words stored into bulk half h from word `i` on. -/
def State.bulkWrite (s : State) (h i : Nat) (ws : List Word) : State :=
  { s with host.mailbox := sputs (fun _ => 0) s.host.mailbox (8192 + 4096 * h + i) ws }

/-- The firmware returns a bulk half (R373, R390). -/
def State.returnHalf (s : State) (h : Nat) : State :=
  ({ s with host.own := s.host.own.set h false }).irq (3 + h)

/-! ### Events -/

/-- Free words of the event ring, one kept unused (R382). -/
def State.evtFree (s : State) : Nat := 2047 - (s.host.evtHead + 2048 - s.host.evtTail) % 2048

/-- Free words of the response ring. -/
def State.rspFree (s : State) : Nat := 2047 - (s.host.rspHead + 2048 - s.host.rspTail) % 2048

/-- A header word (R383). -/
def header (opcode session seq len : Nat) : Word :=
  w32 (opcode % 256 * 0x1000000 + session % 256 * 0x10000 + seq % 256 * 256 + len % 256)

/-- Device time as two words. -/
def timeWords (t : Nat) : List Word := [w32 t, w32 (t / 2 ^ 32)]

/-- An event message enters the ring without further checks (R396). -/
def State.putEvent (s : State) (code session : Nat) (ws : List Word) : State :=
  let len := ws.length + 2
  let s1 := s.ringWrite 6144 2048 s.host.evtHead
    (header code session s.fw.evtSeq len :: (timeWords s.time ++ ws))
  ({ s1 with
    host.evtHead := (s.host.evtHead + len + 1) % 2048
    fw.evtSeq := (s.fw.evtSeq + 1) % 256 }).irq 1

/-- A tail lies in the range from the tail last seen to the head (R389). -/
def tailLegal (seen tail head : Nat) : Bool :=
  decide ((tail + 2048 - seen) % 2048 ≤ (head + 2048 - seen) % 2048)

/-- The check of EVT_TAIL before a post (R389). -/
def State.checkEvtTail (s : State) : State :=
  if tailLegal s.fw.seenEvtTail s.host.evtTail s.host.evtHead then
    { s with fw.seenEvtTail := s.host.evtTail }
  else
    let lost := (s.host.evtHead + 2048 - s.fw.seenEvtTail) % 2048
    ({ s with host.evtTail := s.host.evtHead, fw.seenEvtTail := s.host.evtHead }).putEvent 0x88 0
      [w32 (1 + lost * 0x10000)]

/-- Once 4 words are free, OVERFLOW with the count of dropped events; the count restarts at 0 (R397). -/
def State.postOverflow (s : State) : State :=
  if s.fw.dropped = 0 ∨ s.evtFree < 4 then s
  else ({ s with fw.dropped := 0 }).putEvent 0x80 0 [w32 s.fw.dropped]

/-- An event is posted, or dropped and counted where it finds too little space (R396, R397).
Nothing is posted before READY. -/
def State.event (s : State) (code session : Nat) (ws : List Word) : State :=
  if !s.isReady then s else
  let s := s.checkEvtTail.postOverflow
  if s.fw.dropped != 0 || decide (s.evtFree < ws.length + 3) then
    { s with fw.dropped := satAdd 32 s.fw.dropped 1 }
  else s.putEvent code session ws

/-- The check of RSP_TAIL before a post (R389). -/
def State.checkRspTail (s : State) : State :=
  if tailLegal s.fw.seenRspTail s.host.rspTail s.host.rspHead then
    { s with fw.seenRspTail := s.host.rspTail }
  else
    let lost := (s.host.rspHead + 2048 - s.fw.seenRspTail) % 2048
    ({ s with host.rspTail := s.host.rspHead, fw.seenRspTail := s.host.rspHead }).event 0x88 0
      [w32 (lost * 0x10000)]

/-! ### Responses -/

/-- Status codes (R393, R416). -/
def stOk : Nat := 0x00
def stAccepted : Nat := 0x01
def stAlreadyApplied : Nat := 0x02
def stBadOpcode : Nat := 0x10
def stBadLength : Nat := 0x11
def stBadSession : Nat := 0x12
def stNoHello : Nat := 0x13
def stBadVersion : Nat := 0x14
def stBadFeature : Nat := 0x15
def stFeatureLocked : Nat := 0x16
def stNotAgreed : Nat := 0x17
def stRingError : Nat := 0x18
def stBulkNotOwned : Nat := 0x19
def stBadParam : Nat := 0x1A
def stBadBlock : Nat := 0x1B
def stImageRejected : Nat := 0x1C
def stSessionLimit : Nat := 0x1D
def stBusy : Nat := 0x1E
def stBadState : Nat := 0x1F
def stSafeState : Nat := 0x40
def stTaskFull : Nat := 0x41
def stFlowBusy : Nat := 0x42
def stStaleHandle : Nat := 0x43
def stNotOwner : Nat := 0x44
def stNotResident : Nat := 0x45
def stSafetyObject : Nat := 0x46
def stBankInvalid : Nat := 0x47
def stObjectMissing : Nat := 0x48
def stWrongType : Nat := 0x49
def stDirFull : Nat := 0x4A
def stNoSpace : Nat := 0x4B
def stInUse : Nat := 0x4C
def stLoadFailed : Nat := 0x4D
def stCommitRefused : Nat := 0x4E
def stEraseRefused : Nat := 0x4F
def stScratchError : Nat := 0x50
def stProgramInvalid : Nat := 0x51

/-- Word 0 of a response (R392). -/
def statusWord (status detail : Nat) : Word := w32 (status % 256 + detail % 65536 * 65536)

/-- A response message enters the response ring (R387). -/
def State.putResponse (s : State) (opcode session seq : Nat) (ws : List Word) : State :=
  let s := s.checkRspTail
  let s1 := s.ringWrite 4096 2048 s.host.rspHead (header opcode session seq ws.length :: ws)
  ({ s1 with host.rspHead := (s.host.rspHead + ws.length + 1) % 2048 }).irq 0

/-- A message as a response frame of chain position `pos`: ADDR 0x80 + pos, the words, CRC-16 low byte first (R567). -/
def lineFrame (pos : Nat) (ws : List Word) : List Byte :=
  let body := BitVec.ofNat 8 (0x80 + pos) :: wordBytes ws
  body ++ leBytes 2 (crc16 body)

/-- A frame is queued for line x (R570). -/
def State.queueFrame (s : State) (x : Nat) (f : List Byte) : State :=
  { s with uarts := modAt s.uarts x fun u => { u with outq := u.outq ++ [f] } }

/-- A response goes out where its command came from (R387, R570). -/
def State.sendReply (s : State) (r : Reply) (ws : List Word) : State :=
  match r.origin with
  | .ring => s.putResponse r.opcode r.session r.seq ws
  | .line x pos answer =>
    if answer then
      s.queueFrame x (lineFrame pos (header r.opcode r.session r.seq ws.length :: ws))
    else s

/-- The agreement takes its first stage: version, HOST_CRC and command acceptance; the unit effects wait for the next
boundary (R402). -/
def State.agree (s : State) (a : Word) : State :=
  let added := a.getLsbD 0 && !s.agrees 0
  { s with
    fw.helloDone := true
    fw.agreed := a
    fw.version := 0x00010000
    fw.unitPending := true
    fw.region1From := if added then some ((s.time + 3687 + 4095) / 4096) else s.fw.region1From
    host.crcEn := s.host.crcEn && a.getLsbD 9 }

/-- A response is posted, and an agreement that it carries with it. -/
def State.postReply (s : State) (r : Reply) (ws : List Word) : State :=
  match r.agrees with
  | some a => (s.agree a).sendReply r ws
  | none => s.sendReply r ws

/-- Responses are posted in the order their commands were taken, those of each origin by themselves: a formed one that
stands behind an unformed one waits (R387). -/
def State.flushReplies (s : State) : State :=
  let r := s.fw.replies.foldl (fun (acc : State × List Reply) r =>
    match r.words with
    | some ws =>
      if acc.2.any (fun q => q.origin == r.origin) then (acc.1, acc.2 ++ [r])
      else (acc.1.postReply r ws, acc.2)
    | none => (acc.1, acc.2 ++ [r])) (s, [])
  { r.1 with fw.replies := r.2 }

/-- A command as the firmware takes it: where it came from, its message, its opcode. -/
structure Cmd where
  origin  : Origin
  opcode  : Nat
  session : Nat
  seq     : Nat
  words   : List Word
deriving DecidableEq, Repr

/-- A command of the ring, from a row's message. -/
def cmdOf (opcode : Nat) (m : Msg) : Cmd := ⟨.ring, opcode, m.session, m.seq, m.words⟩

/-- Payload word i as a number, 0 where absent. -/
def Cmd.w (c : Cmd) (i : Nat) : Nat := (nthW c.words i).toNat

/-- The firmware answers a command. -/
def State.respond (s : State) (c : Cmd) (ws : List Word) : State :=
  ({ s with fw.replies := s.fw.replies ++ [Reply.mk c.opcode c.session c.seq c.origin (some ws) none] }).flushReplies

/-- A status without results (R392). -/
def State.answer (s : State) (c : Cmd) (status detail : Nat) : State :=
  s.respond c [statusWord status detail]

/-- OK with result words. -/
def State.ok (s : State) (c : Cmd) (ws : List Word) : State :=
  s.respond c (statusWord stOk 0 :: ws)

/-- The response is formed at a later boundary or step. -/
def State.awaitReply (s : State) (c : Cmd) : State :=
  { s with fw.replies := s.fw.replies ++ [Reply.mk c.opcode c.session c.seq c.origin none none] }

/-- Every waiting response of an opcode is formed (R387). -/
def State.formReplies (s : State) (opcode : Nat) (ws : List Word) : State :=
  ({ s with fw.replies := s.fw.replies.map fun (r : Reply) =>
      if r.opcode = opcode ∧ r.words = none then { r with words := some ws } else r }).flushReplies

/-- A response of this opcode waits. -/
def State.awaits (s : State) (opcode : Nat) : Bool :=
  s.fw.replies.any fun r => r.opcode == opcode && r.words.isNone

/-! ### Deferred work -/

/-- A deferred command of an opcode is outstanding (R414). -/
def State.jobOf (s : State) (opcode : Nat) : Option Job := s.fw.jobs.find? fun j => j.opcode == opcode

/-- ACCEPTED, and the work is outstanding (R413). -/
def State.defer (s : State) (c : Cmd) : State :=
  let s := s.answer c stAccepted 0
  { s with fw.jobs := s.fw.jobs ++ [Job.mk c.opcode c.session c.seq c.origin c.words 0] }

/-- Payload word i of an outstanding command. -/
def Job.w (j : Job) (i : Nat) : Nat := (nthW j.words i).toNat

/-- The deferred command ends with its COMPLETION (R396), on the line it came from (R570). -/
def State.complete (s : State) (j : Job) (status : Nat) (ws : List Word) : State :=
  let s := { s with fw.jobs := s.fw.jobs.erase j }
  let ev := w32 (j.opcode % 256 + j.seq % 256 * 256 + status % 256 * 65536) :: ws
  match j.origin with
  | .ring => s.event 0x81 j.session ev
  | .line x pos answer =>
    if answer then
      let msg := header 0x81 j.session s.fw.evtSeq (ev.length + 2) :: (timeWords s.time ++ ev)
      { s.queueFrame x (lineFrame pos msg) with fw.evtSeq := (s.fw.evtSeq + 1) % 256 }
    else s

end Sys2Proof.Machine
end

