-- ==== Sys2Proof/Machine/DiagOps.lean ====
section
/-! DEFINITION. Diagnostic profiles, the resources of a job, and its end (16 R522 to R524, R533, R534). -/
namespace Sys2Proof.Machine

/-! ### Profiles (R522, R523) -/

/-- Byte offset of line record c. -/
def lineAt (c : Nat) : Nat := 0x40 + 48 * c

def lineDac (p : List Byte) (c : Nat) : Nat := u8 p (lineAt c)
def lineRef (p : List Byte) (c : Nat) : Nat := u8 p (lineAt c + 1)
def lineSns (p : List Byte) (c : Nat) : Nat := u8 p (lineAt c + 2)
def lineSelect (p : List Byte) (c : Nat) : Nat := u8 p (lineAt c + 3)
def lineV (p : List Byte) (c : Nat) : Nat := u8 p (lineAt c + 4)
def lineI (p : List Byte) (c : Nat) : Nat := u8 p (lineAt c + 5)

/-- The failing fields of a line record, as offsets (R524); the last rule binds masked channels alone. -/
def lineFaults (p : List Byte) (mask c : Nat) : List Nat :=
  let o := lineAt c
  let dac := lineDac p c
  let z (k : Nat) : Nat := u32 p (o + 0x18 + 4 * k)
  [(decide (3 < dac) && dac != 0xFF, o), (decide (7 < lineRef p c), o + 1),
   (bit mask c && dac != 0xFF && lineRef p c == lineSns p c, o + 1), (decide (7 < lineSns p c), o + 2),
   (decide (7 < lineSelect p c), o + 3), (decide (z 1 ≤ z 0), o + 0x18), (decide (z 2 < z 1), o + 0x1C),
   (decide (z 3 ≤ z 2), o + 0x20), (decide (s16 p (o + 0x28) ≤ s16 p (o + 0x2A)), o + 0x28)].filterMap fun x =>
    if x.1 then some x.2 else none

/-- The failing fields of a profile's header. -/
def profileFaults (p : List Byte) : List Nat :=
  let frames (o step : Nat) : Bool := u16 p o % step != 0 || decide (u16 p o < 1536) || decide (65280 < u16 p o)
  [(u32 p 0 != 0x44504B51, 0), (u16 p 4 != 0x0100, 4), (decide (u16 p 6 < 1) || decide (2047 < u16 p 6), 6),
   (decide (4095 < u16 p 8), 8), (frames 0xA 128, 0xA), (frames 0xC 192, 0xC),
   (crc32 (p.take 0x3C ++ (p.drop 0x40).take 0x300) != u32 p 0x3C, 0x3C)].filterMap fun x => if x.1 then some x.2 else none

/-- The first failing field of a profile. -/
def profileFault (p : List Byte) (mask : Nat) : Option Nat :=
  match profileFaults p with
  | o :: _ => some o
  | [] => ((List.range 16).flatMap (lineFaults p mask)).head?

/-! ### What a job holds (R533) -/

/-- The lines of present and later steps. -/
def DiagJob.lines (d : DiagJob) : List Nat := (List.range 16).filter fun c => bit d.mask c && decide (d.channel ≤ c)

/-- The DACs of the job's lines. -/
def DiagJob.dacs (d : DiagJob) : List Nat :=
  if d.kind = 0 then (d.lines.map fun c => lineDac d.profile c).filter fun x => x != 0xFF else []

/-- The sense channels of a line. -/
def DiagJob.sensesOf (d : DiagJob) (c : Nat) : List Nat :=
  if d.kind = 0 then (if lineDac d.profile c = 0xFF then [] else [lineRef d.profile c, lineSns d.profile c])
  else
    let i := lineI d.profile c
    if i != 0xFF && bit i 7 then [i % 8] else []

def DiagJob.senses (d : DiagJob) : List Nat := d.lines.flatMap d.sensesOf

/-- The present step drives pilot and sources. -/
def State.diagStep (s : State) : Option DiagJob :=
  match s.fw.diag with
  | some d => if d.going then some d else none
  | none => none

/-- The channel that carries the pilot of an active step (R525). -/
def State.pilotChannel (s : State) : Option Nat :=
  match s.diagStep with
  | some d => if d.kind = 1 then some d.channel else none
  | none => none

/-- The pilot for sample x of a channel's sequence (R525). -/
def pilotAt (x : Nat) : Int := rndDiv (0x679F1C * fpSin (2 * fpPi * ((41 * (x % 192) % 192 : Nat) : Int) / 192)) fpOne

/-- DEPTH, while CHAIN is agreed. -/
def State.depth (s : State) : Nat := if s.unitOn 3 then bits (s.regN bCHAIN 0) 0 2 else 0

/-- A sense channel of the present step overloads (R532). -/
def State.diagOverload (s : State) (c : Nat) : State :=
  match s.diagStep with
  | some d => if (d.sensesOf d.channel).contains c then { s with fw.diag := some { d with ovl := true } } else s
  | none => s

/-! ### Sums (R528, R530) -/

/-- N of a job, and the sample frames that its summing lasts on a variant. -/
def DiagJob.count (d : DiagJob) : Nat := u16 d.profile (if d.kind = 0 then 0xA else 0xC)

def DiagJob.span (d : DiagJob) (v : Variant) : Nat := if v = .qk1024n ∧ d.kind = 1 then 4 * d.count else d.count

/-- Turns of the pilot at frame f, as a fraction a / b of a cycle: for an active step by the index of the pilot sample that the
frame presents, 16 n + j of its sample j of block n (DEDUCED, log 71). -/
def DiagJob.turn (d : DiagJob) (f depth : Nat) : Int × Int :=
  if d.kind = 0 then (((f - d.begun) % 128 : Nat), 128) else ((41 * ((f - 32 - depth) % 192) : Nat), 192)

/-- The factor e^(-jθ) in 1.31. -/
def twiddle (t : Int × Int) : Int × Int :=
  let x := 2 * fpPi * t.1 / t.2
  let q (v : Int) : Int := satI (-0x80000000) 0x7FFFFFFF (rndDiv v (2 ^ 65) + within 1 (Config.twiddleDev v))
  (q (fpCos x), q (-(fpSin x)))

/-- The firmware of the QK1024N takes a coarse value of channel c in sample frame f (R530); sums have 63 fraction bits. -/
def State.diagFrame (s : State) (c f : Nat) : State :=
  match s.diagStep with
  | none => s
  | some d =>
    let first := d.begun + 192
    if s.part.variant ≠ .qk1024n ∨ f < first ∨ first + d.span .qk1024n ≤ f ∨ (f - first) % 4 ≠ 0 then s else
    let src := d.sensesOf d.channel
    let x := (s.sns.getD c SenseCh.reset).coarse / 256
    let (re, im) := twiddle (d.turn f s.depth)
    let d1 : DiagJob := if d.kind = 0 ∧ src.head? = some c then { d with re1 := d.re1 + 2 * x * re, im1 := d.im1 + 2 * x * im } else d
    let d2 : DiagJob := if src.getLast? = some c then
        { d1 with re2 := d1.re2 + 2 * x * re, im2 := d1.im2 + 2 * x * im, dc2 := d1.dc2 + x * 2 ^ 32 } else d1
    { s with fw.diag := some d2 }

/-! ### The end of a step and of a job (R533, R534) -/

/-- What a step hands back to a register: all of it, but of SNS_CTRL the EN bits of its own channels alone. -/
def State.restored (s : State) (d : DiagJob) (b o : Nat) (w : Word) : Word :=
  let own := w32 ((d.sensesOf d.channel).foldl (fun m c => m ||| 2 ^ c) 0)
  if b = bSPARGE then (s.reg b o &&& ~~~own) ||| (w &&& own) else w

/-- The settings that the step replaced are restored, channels that it had enabled go off, TO0 to TO2 are released, and GO falls,
so that it rises with the next step (DEDUCED from R529, log 71). -/
def State.restoreDiag (s : State) (d : DiagJob) : State :=
  let was := s.regN bSPARGE 0
  let s := d.saved.foldl (fun (s : State) x => s.setReg x.1 x.2.1 (s.restored d x.1 x.2.1 x.2.2)) s
  let settle (c : Nat) : SenseCh :=
    let h := s.sns.getD c SenseCh.reset
    if bit was c && !bit (s.regN bSPARGE 0) c then { SenseCh.reset with frame := h.frame, thr := h.thr } else h
  { s with
    sns := (List.range 8).map settle
    cop.xch := if s.cop.on then s.cop.xch.set 0 (nthW s.cop.xch 0 &&& ~~~0x100#32) else s.cop.xch
    tcl := s.tcl.map fun k => { k with overridden := none } }

/-- A job ends without a result. -/
def State.endDiag (s : State) (status : Nat) : State :=
  match s.fw.diag with
  | none => s
  | some d =>
    let s := { s.restoreDiag d with fw.diag := none }
    match s.jobOf 0x58 with
    | some j => s.complete j status (List.replicate 32 0)
    | none => s

end Sys2Proof.Machine
end

