-- ==== Sys2Proof/Machine/KilnOps.lean ====
section
/-! DEFINITION. A detector's message at the Kiln: log, capture, merge, actions, latch and safe state (chapter 09). -/
namespace Sys2Proof.Machine

/-! ### Messages (R319) -/

def msgLevel (m : BitVec 64) : Nat := bits m.toNat 61 3
def msgIndex (m : BitVec 64) : Nat := bits m.toNat 54 7
def msgKind (m : BitVec 64) : Nat := bits m.toNat 48 6
def msgClass (m : BitVec 64) : Nat := bits m.toNat 46 2
def msgDetail (m : BitVec 64) : Nat := bits m.toNat 32 14

def mkMsg (level index kind cls detail address : Nat) : BitVec 64 :=
  BitVec.ofNat 64 (level % 8 * 2 ^ 61 + index % 128 * 2 ^ 54 + kind % 64 * 2 ^ 48 + cls % 4 * 2 ^ 46
    + detail % 2 ^ 14 * 2 ^ 32 + address % 2 ^ 32)

/-- Fault kinds (R323). -/
def kVpeCheck : Nat := 0x01
def kMemCorrected : Nat := 0x02
def kMemUncorrectable : Nat := 0x03
def kStreamRing : Nat := 0x04
def kTwinCompare : Nat := 0x05
def kTwinUncompared : Nat := 0x06
def kCopyCompare : Nat := 0x07
def kCopperCore : Nat := 0x08
def kClusterMixer : Nat := 0x09
def kRegionMixer : Nat := 0x0A
def kSwitchHalf : Nat := 0x0B
def kDieLink : Nat := 0x0C
def kPinReadback : Nat := 0x0D
def kClusterLost : Nat := 0x0E
def kVoiceLost : Nat := 0x0F
def kRegionQuarantine : Nat := 0x10
def kLastCopy : Nat := 0x11
def kGristPage : Nat := 0x12
def kGristMirror : Nat := 0x13
def kBadpageFull : Nat := 0x14
def kGristPort : Nat := 0x15
def kChainCrc : Nat := 0x16
def kChainPartner : Nat := 0x17
def kChainBreak : Nat := 0x18
def kFwHeartbeat : Nat := 0x19
def kCpuCheck : Nat := 0x1A
def kPeriphCheck : Nat := 0x1B
def kSenseEvent : Nat := 0x1C
def kSupply : Nat := 0x1D
def kTemperature : Nat := 0x1E
def kClock : Nat := 0x1F
def kC0Rate : Nat := 0x20
def kAction : Nat := 0x21

/-- Actions (R332). -/
def actNone : Nat := 0
def actBlockReset : Nat := 1
def actCluster : Nat := 2
def actRegion : Nat := 3
def actSafe : Nat := 4

/-! ### Block resets and consequential messages (R338, R340, R341) -/

/-- A message comes from the block that a target of R444 names (R320). -/
def fromBlock (target : Nat) (m : BitVec 64) : Bool :=
  let lv := msgLevel m
  let ix := msgIndex m
  match target with
  | 0 => lv == 2 && ix == 3
  | 1 => lv == 2 && ix == 4
  | 2 => lv == 5 && ix == 12
  | 3 => lv == 5 && ix == 13
  | 4 => (lv == 0 && (msgKind m != kChainBreak || msgDetail m % 2 == 0)) || (lv == 2 && ix == 5 + bCHAIN)
  | 5 => (lv == 0 && msgKind m == kChainBreak && msgDetail m % 2 == 1) || (lv == 2 && ix == 5 + bCHAIN)
  | 6 => lv == 2 && ix == 5 + bUART0
  | 7 => lv == 2 && ix == 5 + bUART1
  | 8 => lv == 2 && ix == 5 + bSPARGE
  | 9 => lv == 2 && ix == 5 + bDAC
  | 10 => lv == 2 && ix == 5 + bTDMI
  | _ => false

/-- A message comes from a neighbour of that block (R338). -/
def fromNeighbour (target : Nat) (m : BitVec 64) : Bool :=
  let lv := msgLevel m
  let ix := msgIndex m
  let rings := lv == 2 && ix == 0 &&
    (msgKind m == kStreamRing ||
      ((msgKind m == kMemCorrected || msgKind m == kMemUncorrectable) && bits (msgDetail m) 8 6 == 3))
  match target with
  | 0 => fromBlock 1 m || rings
  | 1 => fromBlock 0 m || rings
  | 2 => fromBlock 3 m
  | 3 => fromBlock 2 m
  | 4 => fromBlock 5 m
  | 5 => fromBlock 4 m
  | 8 => lv == 5 && decide (16 ≤ ix) && decide (ix < 24)
  | _ => false

/-- A detector inside a block under reset (R340). -/
def State.masked (s : State) (m : BitVec 64) : Bool :=
  s.kiln.windows.any fun w => w.inReset && fromBlock w.target m

/-- A message inside a consequential window; never one of class C3 (R341). -/
def State.consequential (s : State) (m : BitVec 64) : Bool :=
  msgClass m != 3 && s.kiln.windows.any fun w => fromBlock w.target m || fromNeighbour w.target m

/-- A Copper core's reset lasts one sample frame at most (R338): it ends with the frame that follows the boundary's own. -/
def State.coresLeave (s : State) : State :=
  { s with kiln.windows := s.kiln.windows.map fun (w : BlockWindow) =>
    if w.inReset ∧ w.target / 2 = 1 ∧ 16 * w.until_ ≤ s.cop.frame + 15 then { w with inReset := false, until_ := s.lastBlock + 2 } else w }

/-! ### Lifetime counters (R445) -/

/-- A lifetime counter counts k more, saturating. -/
def State.life (s : State) (i k : Nat) : State :=
  { s with pwr.life := modAt s.pwr.life i fun x => satAdd 32 x k }

/-! ### Latch and safe state (R345, R347) -/

/-- The gravest-fault latch is set. -/
def State.latched (s : State) : Bool := s.pwr.latch.isSome

/-- A C3 message sets the latch; it stores the first one and the low 32 bits of its time. -/
def State.setLatch (s : State) (m : BitVec 64) : State :=
  if s.latched then s else { s with pwr.latch := some (m, s.time % 2 ^ 32) }

/-- Every DAC on its Cask code (R518): the fault code where the latch is set. -/
def State.dacsOnCask (s : State) (fault : Bool) : State :=
  { s with dacs := (List.range 4).map (DacState.onCask s.pwr.shadow fault) }

/-- The safe state is entered: pending actions discarded, a diagnostic job ended, interrupt, DACs at their fault codes.
The Mash, the Copper DSP and the fetches stop at the next boundary (R347). -/
def State.enterSafe (s : State) : State :=
  if s.kiln.safe then s else
  let s := s.endDiag stSafeState
  (({ s with
    kiln.safe := true
    kiln.acts := []
    kiln.ready := [] }).irq 10).life 7 1 |>.dacsOnCask true

/-! ### Log, capture, actions -/

/-- A record enters the log; a full log gives up its oldest C0 record, else its oldest (R330, R331). -/
def State.logRecord (s : State) (m : BitVec 64) (t master access flags : Nat) : State :=
  let rec' : LogRec := ⟨m, t, master, access, flags, 7, s.kiln.seq, false⟩
  let full := decide (1024 ≤ s.kiln.log.length)
  let log := if full then
      match s.kiln.log.find? (fun r => msgClass r.msg == 0) with
      | some r => s.kiln.log.erase r
      | none => s.kiln.log.drop 1
    else s.kiln.log
  let s := { s with kiln.log := log ++ [rec'], kiln.seq := (s.kiln.seq + 1) % 2 ^ 32 }
  if full then s.countReg bKILN 8 16 16 1 else s

/-- The capture set takes a message (R328). -/
def State.capture (s : State) (m : BitVec 64) (t master access : Nat) (fromLatch : Bool) : State :=
  ({ s with kiln.cap := ⟨true, msgClass m, fromLatch, false, 0, (s.kiln.cap.seq + 1) % 256, m, master, access, 0, t⟩ }).irq 5

/-- A message is merged into a held set (R329). -/
def State.merge (s : State) (m : BitVec 64) : State :=
  { s with
    kiln.cap.merged := satAdd 8 s.kiln.cap.merged 1
    kiln.cap.cls := max s.kiln.cap.cls (msgClass m) }

/-- Fields of KILN_KINDk (R349). -/
def State.kindAction (s : State) (k : Nat) : Nat := bits (s.regN bKILN (0x100 + 4 * k)) 0 3
def State.kindTimer (s : State) (k : Nat) : Nat := bits (s.regN bKILN (0x100 + 4 * k)) 4 7
def State.kindLimit (s : State) (k : Nat) : Nat := bits (s.regN bKILN (0x100 + 4 * k)) 16 8

/-- A message counts in KILN_COUNTk and in the lifetime counters. -/
def State.countMsg (s : State) (m : BitVec 64) : State :=
  let o := 0x200 + 4 * msgKind m
  let s := if msgClass m = 0 then s.countReg bKILN o 0 16 1 else s.countReg bKILN o 16 16 1
  s.life (3 + msgClass m) 1

/-- A message of class C1 or C2 starts the action configured for its kind; the ninth is taken without a timer (R333). -/
def State.startAction (s : State) (m : BitVec 64) (record : Nat) : State :=
  let a := s.kindAction (msgKind m)
  if a = 0 ∨ s.kiln.safe then s
  else if 8 ≤ s.kiln.acts.length + s.kiln.ready.length then
    { s with kiln.ready := s.kiln.ready ++ [⟨m, record, a, s.time⟩] }
  else { s with kiln.acts := s.kiln.acts ++ [⟨m, record, a, s.time + s.kindTimer (msgKind m) * 24576⟩] }

/-- A message of class C3 is taken: it is counted, captured or merged, logged, sets the latch and enters the safe state (R332, R345). -/
def State.takeC3 (s : State) (m : BitVec 64) (master access : Nat) : State :=
  let held := s.kiln.cap.valid
  let s := s.countMsg m
  let s := if held then s.merge m else s.capture m s.time master access false
  let s := s.logRecord m s.time master access (if held then 2 else 1)
  (s.setLatch m).enterSafe

/-- An action was taken: ACTED while the set is held, the record of its message, the ACTION message's detail (R323, R334). -/
def State.markActed (s : State) (a : PendAct) : State :=
  { s with
    kiln.cap.acted := s.kiln.cap.acted || s.kiln.cap.valid
    kiln.log := s.kiln.log.map fun (r : LogRec) => if r.seq = a.record then { r with action := a.action } else r }

/-- The ACTION message of an action (R323). -/
def actionMsg (a : PendAct) (n : Nat) : BitVec 64 :=
  let cls := match a.action with
    | 3 => 2
    | 4 => 3
    | _ => 1
  mkMsg (msgLevel a.msg) (msgIndex a.msg) kAction cls (a.action + msgKind a.msg * 256) n

/-- SAFE_STATE actions that wait without a timer are taken at once (R333). -/
def State.takeSafeActions (s : State) : State :=
  match s.kiln.ready.find? (fun a => a.action == actSafe) with
  | none => s
  | some a =>
    if s.kiln.safe then s
    else (s.markActed a).takeC3 (actionMsg a (blockOf s.time)) 0 0

/-- One message is taken: counted, logged, captured or merged, and judged (R328 to R333, R341). -/
def State.takeMsg (s : State) (m : BitVec 64) (master access : Nat) : State :=
  if s.masked m then s
  else if s.consequential m then
    let s := (s.countMsg m).logRecord m s.time master access 4
    { s with kiln.cap.conseq := if s.kiln.cap.valid then satAdd 8 s.kiln.cap.conseq 1 else s.kiln.cap.conseq }
  else if msgClass m = 0 then (s.countMsg m).logRecord m s.time master access 0
  else if msgClass m = 3 then s.takeC3 m master access
  else
    let held := s.kiln.cap.valid
    let record := s.kiln.seq
    let s := s.countMsg m
    let s := if held then s.merge m else s.capture m s.time master access false
    let s := s.logRecord m s.time master access (if held then 2 else 1)
    (s.startAction m record).takeSafeActions

/-- The C0 rate of a kind (R336): past C0_LIMIT of its window, one C0_RATE message. -/
def State.c0Rate (s : State) (m : BitVec 64) (master access : Nat) : State :=
  let k := msgKind m
  if msgClass m != 0 || s.kindLimit k == 0 || s.masked m || s.consequential m then s else
  let cnt := sget (fun _ => 0) s.kiln.c0Win k + 1
  let s := { s with kiln.c0Win := sput (fun _ => 0) s.kiln.c0Win k cnt }
  if cnt ≤ s.kindLimit k ∨ k ∈ s.kiln.c0Told then s
  else ({ s with kiln.c0Told := s.kiln.c0Told ++ [k] }).takeMsg
    (mkMsg (msgLevel m) (msgIndex m) kC0Rate 1 k cnt) master access

/-- A detector raises its message (R319): from READY on, one of a kind and level that exist; the Kiln takes it at the end of the
core cycle. Before READY the analog die's own C3 detectors still reach the latch (R345). -/
def State.report (s : State) (m : BitVec 64) (master access : Nat) : State :=
  if kindReserved (msgKind m) || decide (5 < msgLevel m) then s
  else if !s.isReady then
    if msgClass m = 3 ∧ msgLevel m = 2 ∧ msgIndex m = 1 then s.setLatch m else s
  else { s with kiln.raised := s.kiln.raised ++ [⟨m, master, access⟩] }

/-- The order of R321: class and level descending, index and kind ascending. -/
def Raised.key (r : Raised) : List Nat :=
  [3 - msgClass r.msg, 7 - msgLevel r.msg, msgIndex r.msg, msgKind r.msg]

/-- The Kiln takes the messages of a core cycle in the order of R321. -/
def State.hear (s : State) : State :=
  (sortBy (fun a b => decide (a.key ≤ b.key)) s.kiln.raised).foldl
    (fun (s : State) r => (s.takeMsg r.msg r.master r.access).c0Rate r.msg r.master r.access) { s with kiln.raised := [] }

/-- How a meaning ends whose units may raise messages: the Kiln has taken them. -/
def State.ends (s t : State) : Host.Outcome State Fault Refusal := s.done t.hear

/-- FAULT_N is driven low (R344). -/
def State.faultNLow (s : State) : Bool :=
  s.latched || (s.kiln.cap.valid && decide (bits (s.regN bKILN 0) 0 2 ≤ s.kiln.cap.cls))

end Sys2Proof.Machine
end

