-- ==== Sys2Proof/Machine/StoreOps.lean ====
section
/-! DEFINITION. The Grist store as every unit reads it: bytes, checked pages, anchors, the directory, sample headers, admission (chapter 07). -/
namespace Sys2Proof.Machine

/-! ### Bytes (R257); the flash devices read as erased where nothing is listed (log 7) -/

def flashErased (_ : Nat) : Byte := 0xFF

def State.flashByte (s : State) (a : Nat) : Byte := sget flashErased s.store.flash (a % 2 ^ 32)

def State.flashBytes (s : State) (a n : Nat) : List Byte := (List.range n).map fun i => s.flashByte (a + i)

/-- Bytes programmed from address `a` on. -/
def State.flashWrite (s : State) (a : Nat) (bs : List Byte) : State :=
  { s with store.flash := sputs flashErased s.store.flash a bs }

/-- Sectors erased: every listing in [a, a + n) goes (R253). -/
def State.flashErase (s : State) (a n : Nat) : State :=
  { s with store.flash := s.store.flash.filter fun e => decide (e.1 < a ∨ a + n ≤ e.1) }

/-! ### Ports (R254, R256) -/

/-- A port is in use: its device meets R252 and, for M1, GRIST_M1 is in force. -/
def State.portOn (s : State) (p : Nat) : Bool :=
  (s.store.ports.getD p PortState.off).present && (p == 0 || (s.part.variant != .qk1024n && s.unitOn 2))

/-- The port of an address. -/
def portOf (a : Nat) : Nat := a / 2 ^ 31 % 2

/-- A program or erase on port p is suspended: a read of tier 1 to 3 is queued there (R286). -/
def State.eraseSuspended (s : State) (p : Nat) : Bool := s.store.reads.any fun r => r.ports.contains p && decide (r.tier ≤ 3)

/-- A program or erase of M0's metadata and its mirror is suspended. -/
def State.metaSuspended (s : State) : Bool := s.eraseSuspended 0 || (!s.m0Only && s.eraseSuspended 1)

/-- A port answers reads (R327): in use, not failed, not under block reset. -/
def State.portServes (s : State) (p : Nat) : Bool :=
  s.portOn p && !(s.store.ports.getD p PortState.off).failed && !(s.kiln.windows.any fun w => w.target == p && w.inReset)

/-! ### Anchors (R259, R260) -/

def dirBase (copy : Nat) : Nat := 0x00400000 + 0x00200000 * copy
def checkBase (copy : Nat) : Nat := 0x00800000 + 0x00400000 * copy

/-- Where the mirror of M0's metadata lies (R258). -/
def mirrorBase (m1 : Bool) : Nat := if m1 then 0x80000000 else 0x01000000

/-- The anchor at an address, where its MAGIC, VERSION and CRC are correct. -/
def State.anchorAt (s : State) (a : Nat) : Option Anchor :=
  let b := s.flashBytes a 64
  if u32 b 0 = 0x41474B51 ∧ u16 b 4 = 0x0100 ∧ crc32 (b.take 0x3C) = u32 b 0x3C then
    some ⟨u8 b 6 % 2, u8 b 7 % 2, u32 b 8, u32 b 0xC, u8 b 0x10 == 1⟩
  else none

/-- The one with the higher GENERATION, the first on a tie. -/
def newerAnchor (a b : Option Anchor) : Option Anchor :=
  match a, b with
  | some x, some y => if x.generation < y.generation then some y else some x
  | some x, none => some x
  | none, y => y

/-- A mirror anchor that counts: it names the place where it was found. -/
def State.mirrorAnchor (s : State) (m1 : Bool) (o : Nat) : Option Anchor :=
  match s.anchorAt (mirrorBase m1 + o) with
  | some a => if a.mirrorM1 = m1 then some a else none
  | none => none

/-- The active anchor (R260). -/
def State.findAnchor (s : State) : Option Anchor :=
  match newerAnchor (s.anchorAt 0) (s.anchorAt 0x1000) with
  | some a => some a
  | none =>
    let onM1 := if s.part.variant = .qk1024n then none
      else newerAnchor (s.mirrorAnchor true 0) (s.mirrorAnchor true 0x1000)
    newerAnchor onM1 (newerAnchor (s.mirrorAnchor false 0) (s.mirrorAnchor false 0x1000))

/-- The bytes of an anchor (R259); the rest of its page is RSV and written as 0. -/
def Anchor.bytes (a : Anchor) : List Byte :=
  let b := leBytes 4 0x41474B51 ++ leBytes 2 0x0100 ++ leBytes 1 a.copy ++ leBytes 1 a.fwSlot
    ++ leBytes 4 a.generation ++ leBytes 4 a.entries ++ leBytes 1 (b2n a.mirrorM1) ++ List.replicate 43 0
  b ++ leBytes 4 (crc32 b)

/-- Where the mirror of M0's metadata lies now (R256, R258). -/
def State.mirrorNow (s : State) : Nat := mirrorBase (!s.m0Only)

/-- The anchor as the firmware writes it: it names the place where mirrors lie now (R256, R259). -/
def State.placed (s : State) (a : Anchor) : Anchor := { a with mirrorM1 := !s.m0Only }

/-- The firmware writes an anchor into the inactive place, then its mirror (R283 step 5): the inactive anchor is the one of
the two that is not the active one. -/
def State.writeAnchor (s : State) (a : Anchor) : State :=
  let place := if s.anchorAt 0 = some s.store.anchor then 0x1000 else 0
  let s := (s.flashErase place 4096).flashWrite place a.bytes
  let m := s.mirrorNow + place
  (s.flashErase m 4096).flashWrite m a.bytes

/-! ### Checked pages (R263, R279, R281) -/

/-- The commands that the device issues on a port (R253). -/
inductive FlashCmd where
  | read | readStatus | writeEnable | pageProgram | sectorErase | suspend | resume | readSfdp | resetEnable | reset
deriving DecidableEq, Repr

/-- The first byte of a command. -/
def FlashCmd.code (c : FlashCmd) : Byte :=
  match c with
  | .read => 0xEE
  | .readStatus => 0x05
  | .writeEnable => 0x06
  | .pageProgram => 0x12
  | .sectorErase => 0x21
  | .suspend => 0xB0
  | .resume => 0x30
  | .readSfdp => 0x5A
  | .resetEnable => 0x66
  | .reset => 0x99

/-- A command as it stands on the port: its second byte is the inverse of its first (R253). -/
def FlashCmd.bytes (c : FlashCmd) : List Byte := [c.code, ~~~c.code]

/-- Both the page's content and its page-check entry agree. -/
def State.pageSound (s : State) (page : Nat) : Bool :=
  crc32 (s.flashBytes (page * 4096) 4096) == u32 (s.flashBytes (checkBase s.store.anchor.copy + 4 * page) 4) 0

/-- How many checked reads of a page fail although its content is sound. -/
def failsOf (rd : List PageFault) (page : Nat) : Nat :=
  match rd.find? (fun f => f.page == page) with
  | some f => f.fails
  | none => 0

/-- The GRIST_PAGE message of a page for a reader (R323). -/
def pageMsg (page reader cls : Nat) : BitVec 64 :=
  mkMsg 2 (3 + portOf (page * 4096)) kGristPage cls (reader * 4096) (page * 4096)

/-- A page that failed twice is marked bad; a full list is BADPAGE_FULL (R281, R316). -/
def State.markBad (s : State) (page reader : Nat) : State :=
  if page ∈ s.store.bad then s
  else if 1024 ≤ s.store.bad.length then
    s.report (mkMsg 2 0 kBadpageFull 2 0 (page * 4096)) 4 1
  else
    (({ s with store.bad := s.store.bad ++ [page] }).report (pageMsg page reader 1) 4 1).event 0x86 0 [w32 (page * 4096)]

/-- A transient page failure: class C0, counted (R277, R279). -/
def State.pageTransient (s : State) (page reader : Nat) : State :=
  (s.countReg bGRIST 0x34 16 16 1).report (pageMsg page reader 0) 4 1

/-- A whole page is read and checked; a failing page once more (R279). A page on a port that does not serve cannot be read (R327). -/
def State.checkPage (s : State) (rd : List PageFault) (page reader : Nat) : Bool × State :=
  if page ∈ s.store.bad ∨ !s.portServes (portOf (page * 4096)) then (false, s)
  else if s.pageSound page then
    match failsOf rd page with
    | 0 => (true, s)
    | 1 => (true, s.pageTransient page reader)
    | _ => (false, s.markBad page reader)
  else (false, s.markBad page reader)

/-- The bytes [a, a + n) through checked pages, each from its mirror where it fails twice (R279). -/
def State.loadPages (s : State) (rd : List PageFault) (reader : Nat) (mirror : Option Nat) (a : Nat) :
    Nat → Nat → Option (List Byte) × State
  | 0, _ => (some [], s)
  | k + 1, i =>
    let page := a / 4096 + i
    let (ok, s1) := s.checkPage rd page reader
    if ok then
      let (rest, s2) := s1.loadPages rd reader mirror a k (i + 1)
      (rest.map fun bs => s.flashBytes (page * 4096) 4096 ++ bs, s2)
    else match mirror with
      | none => (none, s1)
      | some m =>
        let (ok, s2) := s1.checkPage rd (m / 4096 + i) reader
        if ok then
          let (rest, s3) := s2.loadPages rd reader mirror a k (i + 1)
          (rest.map fun bs => s.flashBytes ((m / 4096 + i) * 4096) 4096 ++ bs, s3)
        else (none, s2)

/-- `n` bytes from address `a`, checked; none where a page failed twice and has no mirror that passes. -/
def State.loadBytes (s : State) (rd : List PageFault) (reader : Nat) (mirror : Option Nat) (a n : Nat) :
    Option (List Byte) × State :=
  let pages := (a % 4096 + n + 4095) / 4096
  let (bs, s) := s.loadPages rd reader mirror a pages 0
  (bs.map fun bs => (bs.drop (a % 4096)).take n, s)

/-! ### The directory (R261) -/

structure DirEntry where
  addr   : Nat
  size   : Nat
  mirror : Nat
  type   : Nat
  safety : Bool
deriving DecidableEq, Repr

def noMirror : Nat := 0xFFFFFFFF

/-- A directory entry's bytes, where its CRC is correct. -/
def parseEntry (b : List Byte) : Option DirEntry :=
  if crc32 (b.take 0x1C) = u32 b 0x1C then
    some ⟨u32 b 0, u32 b 4, u32 b 8, u8 b 0xC, bit (u8 b 0xD) 0⟩
  else none

/-- Entry i of a directory copy. -/
def State.entryIn (s : State) (copy i : Nat) : Option DirEntry :=
  parseEntry (s.flashBytes (dirBase copy + 32 * i) 32)

/-- The object of index i in the active directory, not free; as the on-chip buffer holds it (R264). -/
def State.object (s : State) (i : Nat) : Option DirEntry :=
  if i < s.store.anchor.entries then
    match s.entryIn s.store.anchor.copy i with
    | some e => if e.type = 0 then none else some e
    | none => none
  else none

/-- What a checked read of a directory entry finds. -/
inductive EntryRead where
  /-- the page and its mirror failed -/
  | failed
  /-- free, out of range, or its CRC wrong -/
  | missing
  | found (e : DirEntry)
deriving DecidableEq, Repr

/-- The object of index i, its directory page checked, the mirror page where it fails (R279). -/
def State.loadEntry (s : State) (rd : List PageFault) (i : Nat) : EntryRead × State :=
  if i < s.store.anchor.entries then
    let a := dirBase s.store.anchor.copy + 32 * i
    let (bs, s) := s.loadBytes rd 2 (some (s.mirrorNow + a)) a 32
    match bs with
    | none => (.failed, s)
    | some b =>
      match parseEntry b with
      | some e => (if e.type = 0 then .missing else .found e, s)
      | none => (.missing, s)
  else (.missing, s)

def DirEntry.mirror? (e : DirEntry) : Option Nat := if e.mirror = noMirror then none else some e.mirror

/-- A whole object, through checked pages (R279). -/
def State.loadObject (s : State) (rd : List PageFault) (e : DirEntry) : Option (List Byte) × State :=
  s.loadBytes rd 2 e.mirror? e.addr e.size

/-! ### Samples (R77, R265) -/

structure SampleInfo where
  wide   : Bool
  rate   : Nat
  root   : Int
  length : Nat
  ls     : Nat
  le     : Nat
  band   : Nat
deriving DecidableEq, Repr

/-- Bytes of a frame. -/
def SampleInfo.width (i : SampleInfo) : Nat := if i.wide then 3 else 2

/-- Frames a ring holds (R85). -/
def ringCap (wide : Bool) : Nat := if wide then 170 else 256

def parseSample (b : List Byte) : SampleInfo :=
  ⟨u8 b 6 == 1, u32 b 8, s32 b 0xC, u32 b 0x10, u32 b 0x14, u32 b 0x18, u32 b 0x1C⟩

/-- The sample object of index i and its header. -/
def State.sample (s : State) (i : Nat) : Option (DirEntry × SampleInfo) :=
  match s.object i with
  | some e => if e.type = 1 then some (e, parseSample (s.flashBytes e.addr 0x40)) else none
  | none => none

/-- Frame f of a sample at an address, as signed PCM (R77). -/
def State.flashFrame (s : State) (addr : Nat) (wide : Bool) (f : Nat) : Int :=
  if wide then signed 24 (u16 (s.flashBytes (addr + 0x40 + f * 3) 3) 0 + 65536 * u8 (s.flashBytes (addr + 0x40 + f * 3) 3) 2)
  else s16 (s.flashBytes (addr + 0x40 + f * 2) 2) 0

/-! ### Admission (R274, R275) -/

/-- Three times a port's clock in Hz, by FREQ. -/
def freqHz3 (c : Nat) : Nat :=
  match c with
  | 0 => 600000000
  | 1 => 500000000
  | 2 => 400000000
  | 3 => 300000000
  | _ => 150000000

/-- Admission limit and safety share of a port under given GRIST_CTRL and FREQ. -/
def limitsOf (ctrl freq : Nat) : Nat × Nat :=
  let limit := 2 * freqHz3 freq * 4096 * bits ctrl 0 7 / (3 * 24576000 * 100)
  (limit, limit * bits ctrl 8 7 / 100)

/-- Limit and safety share of a port in use, 0 of one that is not. -/
def State.limits (s : State) (p : Nat) : Nat × Nat :=
  if s.portOn p then limitsOf (s.regN bGRIST 0) (bits (s.regN bGRIST (0x10 + 4 * p)) 0 3) else (0, 0)

/-- Bytes charged on a port: general share, safety share. -/
def State.charged (s : State) (p : Nat) : Nat × Nat :=
  s.store.streams.foldl (fun acc st => (acc.1 + nth st.general p, acc.2 + nth st.share p)) (0, 0)

/-- Open streams (R289): those that hold their ring, one to which a ring passes at the next boundary not yet. -/
def State.openStreams (s : State) : Nat :=
  (s.store.streams.filter fun st => !st.primed && st.closing.isNone
    && !(decide (s.lastBlock < st.opened) && s.store.streams.any fun x => x.ring == st.ring && x.id != st.id)).length

/-- The lowest ring that is neither held nor retired (R268, R300). -/
def State.freeRing (s : State) : Option Nat :=
  (List.range 4096).find? fun q => !(s.store.streams.any fun st => st.ring == q) && !(s.store.badRings.contains q)

/-- A page is used by an open stream, a primed ring or an entry of a directory copy (R284). -/
def pageInObject (page addr size : Nat) : Bool :=
  decide (addr / 4096 ≤ page) && decide (page * 4096 < addr + size)

def DirEntry.usesPage (e : DirEntry) (page : Nat) : Bool :=
  e.type != 0 && (pageInObject page e.addr e.size || (e.mirror != noMirror && pageInObject page e.mirror e.size))

def State.pageInUse (s : State) (page : Nat) : Bool :=
  (s.store.streams.any fun st =>
    let size := 0x40 + st.length * (if st.wide then 3 else 2)
    st.closing.isNone && (pageInObject page st.addr size || (st.mirror != noMirror && pageInObject page st.mirror size)))
  || (List.range s.store.anchor.entries).any fun i =>
    match s.entryIn s.store.anchor.copy i with
    | some e => e.usesPage page
    | none => false

end Sys2Proof.Machine
end

