-- ==== Sys2Proof/Machine/Recipe.lean ====
section
/-! DEFINITION. The recipe image (R109 to R132) as a voice reads it, and what one voice-block reads from outside its context. -/
namespace Sys2Proof.Machine

/-! ### Voice numbers (R51) -/

def vRegion (v : Nat) : Nat := v / 1024 % 2
def vCluster (v : Nat) : Nat := v / 512 % 2
def vVpe (v : Nat) : Nat := v / 256 % 2
def vPos (v : Nat) : Nat := v % 256

/-! ### What a voice-block reads besides its context (R39, R85) -/

structure VoiceView where
  n      : Nat
  tbs    : List TbSnap
  cur    : List Int
  pgPrev : Nat
  pg     : Nat
  table  : Nat → Option (Nat × Nat)
  wave   : Nat → Int
  stream : Nat → Option Stream
  frame  : Nat → Nat → Option Int
  svt    : Nat → Nat → Nat

def TbSnap.off : TbSnap := ⟨List.replicate 16 0, 0, 0, 0, 0, 0, List.replicate 16 0, 0, 0⟩

/-- The snapshot entry of a timebase. -/
def VoiceView.tb (w : VoiceView) (i : Nat) : TbSnap := w.tbs.getD i TbSnap.off

def TbSnap.angle (t : TbSnap) (j : Nat) : Int := nthI t.angles j

/-! ### Header (R111) -/

def Recipe.priority (r : Recipe) : Nat := u8 r 6
def Recipe.parallel (r : Recipe) : Bool := bit (u8 r 7) 0
def Recipe.equalPower (r : Recipe) : Bool := bit (u8 r 7) 1
def Recipe.amp (r : Recipe) : Nat := u32 r 8
def Recipe.svA (r : Recipe) : Nat := u8 r 0xC
def Recipe.svB (r : Recipe) : Nat := u8 r 0xD
def Recipe.pan (r : Recipe) : Nat := u16 r 0xE
def Recipe.aux (r : Recipe) (i : Nat) : Nat := u32 r (0x10 + 4 * i)
def Recipe.auxDest (r : Recipe) (i : Nat) : Nat := u8 r (0x20 + i)
def Recipe.auxPre (r : Recipe) (i : Nat) : Bool := bit (u8 r 0x24) i

/-! ### Oscillators (R58) -/

def Recipe.mode (r : Recipe) (i : Nat) : Nat := u8 r (0x40 + 32 * i)
def Recipe.oscFlags (r : Recipe) (i : Nat) : Nat := u8 r (0x41 + 32 * i)
def Recipe.sync (r : Recipe) (i : Nat) : Bool := bit (r.oscFlags i) 0
def Recipe.pink (r : Recipe) (i : Nat) : Bool := bit (r.oscFlags i) 1
def Recipe.hold (r : Recipe) (i : Nat) : Bool := bit (r.oscFlags i) 2
def Recipe.exitOnRelease (r : Recipe) (i : Nat) : Bool := bit (r.oscFlags i) 3
def Recipe.endReleases (r : Recipe) (i : Nat) : Bool := bit (r.oscFlags i) 4
def Recipe.object (r : Recipe) (i : Nat) : Nat := u16 r (0x42 + 32 * i)
def Recipe.pitch (r : Recipe) (i : Nat) : Int := s32 r (0x44 + 32 * i)
def Recipe.fine (r : Recipe) (i : Nat) : Int := s16 r (0x48 + 32 * i)
def Recipe.keytrack (r : Recipe) (i : Nat) : Int := s16 r (0x4A + 32 * i)
def Recipe.level (r : Recipe) (i : Nat) : Nat := u32 r (0x4C + 32 * i)
def Recipe.startAt (r : Recipe) (i : Nat) : Nat := u32 r (0x50 + 32 * i)
def Recipe.morph (r : Recipe) (i : Nat) : Nat := u16 r (0x54 + 32 * i)
def Recipe.pmDepth (r : Recipe) (i : Nat) : Int := s16 r (0x56 + 32 * i)
def Recipe.timebase (r : Recipe) (i : Nat) : Nat := u8 r (0x58 + 32 * i)
def Recipe.loop (r : Recipe) (i : Nat) : Nat := u8 r (0x59 + 32 * i)

def mOFF : Nat := 0
def mWT : Nat := 1
def mSMP : Nat := 2
def mPM : Nat := 3
def mNOISE : Nat := 4
def mORD : Nat := 5

/-- The oscillator reads a wavetable. -/
def Recipe.usesTable (r : Recipe) (i : Nat) : Bool := r.mode i == mWT || r.mode i == mPM || r.mode i == mORD

/-- The wavetables a recipe names. -/
def Recipe.tableObjects (r : Recipe) : List Nat :=
  (List.range 4).filterMap fun i => if r.usesTable i then some (r.object i) else none

/-- The SMP oscillators of a recipe. -/
def Recipe.smpOscs (r : Recipe) : List Nat := (List.range 4).filter fun i => r.mode i == mSMP

/-! ### Filters (R114) -/

def Recipe.fType (r : Recipe) (f : Nat) : Nat := u8 r (0xC0 + 16 * f)
def Recipe.fKeytrack (r : Recipe) (f : Nat) : Int := s16 r (0xC2 + 16 * f)
def Recipe.fCutoff (r : Recipe) (f : Nat) : Int := s32 r (0xC4 + 16 * f)
def Recipe.fRes (r : Recipe) (f : Nat) : Nat := u16 r (0xC8 + 16 * f)
def Recipe.fDrive (r : Recipe) (f : Nat) : Nat := u16 r (0xCA + 16 * f)

/-! ### Envelopes (R120, R121) -/

def envBase (e : Nat) : Nat := 0xE0 + 40 * e
def Recipe.envMode (r : Recipe) (e : Nat) : Nat := u8 r (envBase e)
def Recipe.sustain (r : Recipe) (e : Nat) : Nat := u8 r (envBase e + 2)
def Recipe.loopStart (r : Recipe) (e : Nat) : Nat := u8 r (envBase e + 3)
def Recipe.loopEnd (r : Recipe) (e : Nat) : Nat := u8 r (envBase e + 4)
def Recipe.expoSeg (r : Recipe) (e k : Nat) : Bool := bit (u8 r (envBase e + 5)) k
def Recipe.envTb (r : Recipe) (e : Nat) : Nat := u8 r (envBase e + 6)
def Recipe.nseg (r : Recipe) (e : Nat) : Nat := u8 r (envBase e + 7)
def Recipe.target (r : Recipe) (e k : Nat) : Int := (u16 r (envBase e + 10 + 4 * k) : Int) * 2 ^ 15

/-- The count N of a LEN (R121). -/
def segCount (len : Nat) : Nat := len % 4096 * 2 ^ (len / 4096)
def Recipe.segN (r : Recipe) (e k : Nat) : Nat := segCount (u16 r (envBase e + 8 + 4 * k))

/-! ### LFOs (R129) and routes (R132) -/

def Recipe.lfoWave (r : Recipe) (l : Nat) : Nat := u8 r (0x180 + 8 * l)
def Recipe.lfoOrder (r : Recipe) (l : Nat) : Bool := bit (u8 r (0x181 + 8 * l)) 0
def Recipe.lfoKeySync (r : Recipe) (l : Nat) : Bool := bit (u8 r (0x181 + 8 * l)) 1
def Recipe.lfoTb (r : Recipe) (l : Nat) : Nat := bits (u8 r (0x181 + 8 * l)) 2 2
def Recipe.lfoStart (r : Recipe) (l : Nat) : Nat := u16 r (0x182 + 8 * l) * 65536
def Recipe.lfoRate (r : Recipe) (l : Nat) : Nat := u32 r (0x184 + 8 * l)

structure Route where
  src   : Nat
  dst   : Nat
  curve : Nat
  depth : Int
deriving DecidableEq, Repr

def Recipe.route (r : Recipe) (k : Nat) : Route :=
  let b := 0x1A0 + 4 * k
  ⟨u8 r b, u8 r (b + 1) % 64, u8 r (b + 1) / 64, s16 r (b + 2)⟩

/-! ### Changes within a block (R143) -/

def ParamChange.apply (p : ParamChange) (r : Recipe) : Recipe := overlay r p.off (leBytes p.size p.value)

/-- The image in force at absolute sample N. -/
def Ctx.recipeAt (c : Ctx) (n : Nat) : Recipe :=
  c.params.foldl (fun r p => if p.sample ≤ n then p.apply r else r) c.recipe

/-- The image after every change of block n. -/
def Ctx.recipeNew (c : Ctx) (n : Nat) : Recipe := c.recipeAt (16 * n + 15)

/-- The changes that belong to later blocks (R304). -/
def Ctx.laterParams (c : Ctx) (n : Nat) : List ParamChange := c.params.filter fun p => decide (16 * n + 15 < p.sample)

/-- A value ramped over the block (R143). -/
def rampTo (old new : Int) (j : Nat) : Int := old + (new - old) * ((j : Int) + 1) / 16

end Sys2Proof.Machine
end

