-- ==== Sys2Proof/Machine/VoiceControl.lean ====
section
/-! DEFINITION. Envelopes, LFOs and the modulation matrix of one voice-sample (R120 to R137). -/
namespace Sys2Proof.Machine

/-! ### Gate (R125, R126) -/

/-- The sample of the gate-off, never before the first sounding sample. -/
def Ctx.offAt (c : Ctx) : Option Nat := c.gateOff.map (max c.start)

def Ctx.gateOn (c : Ctx) (n : Nat) : Bool :=
  match c.offAt with
  | some g => decide (n < g)
  | none => true

/-- The gate-off acts in this sample. -/
def Ctx.gateEdge (c : Ctx) (n : Nat) : Bool := c.offAt == some n

/-! ### Envelopes -/

/-- The state after segment k ended with level l0 (R125). -/
def envAfter (r : Recipe) (e k : Nat) (gate : Bool) (st : EnvState) : EnvState :=
  let ph : EnvPhase :=
    if k = r.sustain e ∧ gate then .sustain
    else if k = r.loopEnd e ∧ gate then .run (r.loopStart e)
    else if k + 1 = r.nseg e then .done
    else .run (k + 1)
  { st with ph := ph, e := 0, l0 := st.level }

/-- The level at progress q (0.32) from l0 to t (R122). -/
def segLevel (expo : Bool) (l0 t : Int) (q : Nat) : Int :=
  if expo then rndShift (l0 * 2 ^ 54 + (t - l0) * expoShape q) 54 else rndShift (l0 * 2 ^ 32 + (t - l0) * (q : Int)) 32

/-- One evaluation within a sample: the state if the sample stays here, and the state that a segment ending in this very
sample leads to (R122, R123). -/
def envSeg (r : Recipe) (e : Nat) (gate : Bool) (angle : Int) (st : EnvState) : EnvState × Option EnvState :=
  match st.ph with
  | .off => ({ st with level := 0 }, none)
  | .sustain => ({ st with level := r.target e (r.sustain e) }, none)
  | .done => ({ st with level := r.target e (r.nseg e - 1) }, none)
  | .run k =>
    let n := r.segN e k
    let t := r.target e k
    if n = 0 then
      let held := { st with l0 := t, level := t }
      (held, some (envAfter r e k gate held))
    else if r.envMode e = 2 then
      let d := s64i (angle - st.aStart)
      let span : Int := (n : Int) * 65536
      let q := (satI 0 (2 ^ 32) (d * 2 ^ 32 / span)).toNat
      let held := { st with level := segLevel (r.expoSeg e k) st.l0 t q }
      if span ≤ d then
        let done := { st with level := t }
        (done, some { envAfter r e k gate done with aStart := st.aStart + span })
      else (held, none)
    else
      let q := min ((st.e + 1) * 2 ^ 32 / n) (2 ^ 32)
      let held := { st with level := segLevel (r.expoSeg e k) st.l0 t q }
      if n ≤ st.e + 1 then (envAfter r e k gate { held with level := t }, none)
      else ({ held with e := st.e + 1 }, none)

/-- At most eight endings in one sample (R124). -/
def envLoop (r : Recipe) (e : Nat) (gate : Bool) (angle : Int) : Nat → EnvState → EnvState
  | 0, st => (envSeg r e gate angle st).1
  | k + 1, st =>
    match (envSeg r e gate angle st).2 with
    | none => (envSeg r e gate angle st).1
    | some next => envLoop r e gate angle k next

/-- The gate-off reaches the envelope (R126). -/
def envRelease (r : Recipe) (e : Nat) (angle : Int) (st : EnvState) : EnvState :=
  let s := r.sustain e
  let inside := match st.ph with
    | .sustain => true
    | .run k => decide (k ≤ s)
    | _ => false
  if s != 0xFF && inside then { st with ph := .run (s + 1), e := 0, l0 := st.level, aStart := angle } else st

/-- One sample of an envelope; `first` is the note's first sounding sample, `jump` the D of R180. -/
def envSample (r : Recipe) (e : Nat) (first gate edge : Bool) (angle jump : Int) (st : EnvState) : EnvState :=
  if r.envMode e = 0 then ⟨.off, 0, 0, 0, 0⟩ else
  let st := if first then ⟨.run 0, 0, 0, 0, angle⟩ else { st with aStart := st.aStart + jump }
  let st := if edge then envRelease r e angle st else st
  envLoop r e gate angle 8 st

/-! ### Order phases (R95, R130) -/

/-- The phase of an order at an angle. -/
def orderPhase (order angle : Int) : Nat := u32i (order * (angle % 2 ^ 48) / 65536)

/-- The previous phase of an order follower, moved to a_last + D where the block has a jump (R180). -/
def prevOrderPhase (order : Int) (t : TbSnap) (j prev : Nat) : Nat :=
  if j = 0 ∧ t.jump ≠ 0 then u32i ((prev : Int) - orderPhase order (t.lo - t.jump) + orderPhase order t.lo) else prev

/-- The step between two phases, signed. -/
def phaseStep (prev now : Nat) : Int := s32i ((now : Int) - (prev : Int))

/-- Phase 0 is crossed, in either direction (R74, R131). The spec does not say which of the two samples beside phase 0 the crossing
falls in when one of them stands on it: forward it is the landing on 0, backward the leaving of 0 (DESIGN CHOICE, log 75). -/
def crossesZero (prev now : Nat) : Bool :=
  let d := phaseStep prev now
  (decide (0 < d) && decide (now < prev)) || (decide (d < 0) && decide (prev < now))

/-! ### LFOs -/

/-- The waveform at a phase (R131). -/
def lfoOut (wave phase : Nat) (held : Int) : Int :=
  match wave with
  | 1 => lfoSine phase
  | 2 =>
    let u : Int := ((phase + 0x40000000) % 2 ^ 32 : Nat)
    if u < 0x80000000 then 2 * u - 0x80000000 else 0x7FFFFFFF - 2 * (u - 0x80000000)
  | 3 => signed 32 phase
  | 4 => if phase < 2 ^ 31 then 0x7FFFFFFF else -0x7FFFFFFF
  | 5 => held
  | _ => 0

/-- One sample of LFO l: absolute sample number n, `m` the previous sample's rate sum (R130). -/
def lfoSample (r : Recipe) (l : Nat) (t : TbSnap) (seed : Nat) (first : Bool) (n : Nat) (m : Int) (st : LfoState) : LfoState :=
  let rate := r.lfoRate l
  let draw := qrandI seed (n / 16) (n % 16) (4 + l)
  if r.lfoOrder l then
    let order := signed 32 rate
    let phase := u32i ((orderPhase order (t.angle (n % 16)) + r.lfoStart l : Nat) : Int)
    let crossed := crossesZero (prevOrderPhase order t (n % 16) st.phase) phase
    ⟨phase, if first || crossed then draw else st.held⟩
  else
    let phase :=
      if first then
        if r.lfoKeySync l then r.lfoStart l else (r.lfoStart l + lfoInc rate 0 * n) % 2 ^ 32
      else (st.phase + lfoInc rate m) % 2 ^ 32
    ⟨phase, if first || decide (phase < st.phase) then draw else st.held⟩

/-! ### The matrix (R133 to R136) -/

/-- CURVE (R135). For S the spec gives neither the grouping of 0.5 x³ nor a saturation: x · x and then · x are rounded to 1.31, the
half is rounded last, and c(0x7FFF_FFFF) = 2^31 is not saturated (DESIGN CHOICE, log 75). -/
def curve (kind : Nat) (x : Int) : Int :=
  match kind with
  | 1 => mul31 x x.natAbs
  | 2 => sat31 (2 ^ 31 - x)
  | 3 => rndShift (3 * x) 1 - rndShift (mul31 (mul31 x x) x) 1
  | _ => x

/-- The control values of one sample: envelope levels, LFO outputs, matrix sums of destinations 0 to 34. -/
structure Control where
  env  : List Int
  lfo  : List Int
  sums : List Int
deriving DecidableEq, Repr

/-- A source's value in sample j (R133, R134). -/
def sourceVal (c : Ctx) (w : VoiceView) (prev : List Int) (env lfo : List Int) (j src : Nat) : Int :=
  if src = 0 then 0
  else if src ≤ 4 then nthI env (src - 1)
  else if src ≤ 7 then nthI lfo (src - 5)
  else match src with
    | 0x08 => (c.velocity : Int) * 16909320
    | 0x09 => sat31 (c.pitch * 256)
    | 0x0A => c.rnd
    | 0x0B => 0x7FFFFFFF
    | _ =>
      if 0x10 ≤ src ∧ src < 0x28 then rampTo (nthI prev (src - 0x10)) (nthI w.cur (src - 0x10)) j else 0

/-- The sums of R136, destination by destination. -/
def matrixSums (r : Recipe) (val : Nat → Int) : List Int :=
  let add (acc : List Int) (k : Nat) : List Int :=
    let t := r.route k
    if t.src = 0 ∨ 35 ≤ t.dst then acc
    else modAt acc t.dst fun x => x + rndShift (curve t.curve (val t.src) * t.depth) 15
  ((List.range 24).foldl add (List.replicate 35 0)).map sat31

/-- fs[d] of R136. -/
def fullScale (d : Nat) : Int :=
  if d < 20 then
    match d % 5 with
    | 0 => 3145728
    | 1 => 0x40000000
    | 2 => 2 ^ 32
    | 3 => 65536
    | _ => 32768
  else match d with
    | 20 => 6291456
    | 21 => 65536
    | 22 => 32768
    | 23 => 6291456
    | 24 => 65536
    | 25 => 32768
    | 26 => 0x40000000
    | 27 => 0x8000
    | _ => 0x40000000

/-- mod_d of a sample. -/
def Control.mod (k : Control) (d : Nat) : Int := rndShift (nthI k.sums d * fullScale d) 31

def Control.silent : Control := ⟨[0, 0, 0, 0], [0, 0, 0], List.replicate 35 0⟩

/-- What one sample of the control part leaves: envelopes, LFOs, the three LFO rate sums. -/
structure ControlState where
  env  : List EnvState
  lfo  : List LfoState
  sums : List Int
deriving DecidableEq, Repr

def EnvState.off : EnvState := ⟨.off, 0, 0, 0, 0⟩

/-- Envelopes, LFOs and matrix of one sounding sample, in the order of R106. -/
def controlSample (c : Ctx) (w : VoiceView) (prev : List Int) (j : Nat) (st : ControlState) : Control × ControlState :=
  let n := 16 * w.n + j
  let r := c.recipeAt n
  let first := n == c.start
  let gate := c.gateOn n
  let edge := c.gateEdge n
  let env := (List.range 4).map fun e =>
    let t := w.tb (r.envTb e)
    envSample r e first gate edge (t.angle j) (if j = 0 then t.jump else 0) (st.env.getD e EnvState.off)
  let lfo := (List.range 3).map fun l =>
    lfoSample r l (w.tb (r.lfoTb l)) c.seed first n (if first then 0 else nthI st.sums l) (st.lfo.getD l ⟨0, 0⟩)
  let levels := env.map fun (e : EnvState) => e.level
  let outs := (List.range 3).map fun l => lfoOut (r.lfoWave l) (lfo.getD l ⟨0, 0⟩).phase (lfo.getD l ⟨0, 0⟩).held
  let sums := matrixSums r (sourceVal c w prev levels outs j)
  (⟨levels, outs, sums⟩, ⟨env, lfo, [nthI sums 32, nthI sums 33, nthI sums 34]⟩)

/-- The control part of a block from sample j on, `k` samples: silent before the first sounding one (R107). -/
def controlBlock (c : Ctx) (w : VoiceView) (prev : List Int) : Nat → Nat → ControlState → List Control × ControlState
  | 0, _, st => ([], st)
  | k + 1, j, st =>
    if 16 * w.n + j < c.start then
      let rest := controlBlock c w prev k (j + 1) st
      (Control.silent :: rest.1, rest.2)
    else
      let one := controlSample c w prev j st
      let rest := controlBlock c w prev k (j + 1) one.2
      (one.1 :: rest.1, rest.2)

end Sys2Proof.Machine
end

