-- ==== Sys2Proof/Machine/Oscillators.lean ====
section
/-! DEFINITION. The four oscillators of one voice-block (R61 to R99). -/
namespace Sys2Proof.Machine

/-! ### Levels and increments (R61, R63, R67, R79) -/

/-- L_k of R67. -/
def mipLimit (k : Nat) : Nat := 7689557 * 2 ^ k

/-- The mip level for a block's largest increment. -/
def mipLevel (a : Nat) : Nat := ((List.range 7).find? fun k => decide (a ≤ mipLimit k)).getD 7

/-- The pitch of R61. -/
def oscPitch (c : Ctx) (r : Recipe) (k : Control) (i : Nat) : Int :=
  max (-8388608) (c.pitch * r.keytrack i / 256 + r.pitch i + r.fine i + k.mod (5 * i))

/-- The increment in use (R62, R63). -/
def oscInc (c : Ctx) (r : Recipe) (k : Control) (i : Nat) : Nat :=
  min (if r.mode i = mNOISE then 2 ^ 31 else mipLimit 7) (pitchInc (oscPitch c r k i))

/-- r_max of R79 in 4.28; 44,000 / bandwidth is rounded down, where the spec names no rounding (DESIGN CHOICE, log 75). -/
def ratioMax (s : Stream) : Nat :=
  let m := if s.wide then 3 * 2 ^ 28 else 4 * 2 ^ 28
  if s.band = 0 then m else min m (44000 * 2 ^ 28 / s.band)

/-- The playback ratio of a sample (R79). -/
def oscRatio (c : Ctx) (r : Recipe) (k : Control) (i : Nat) (s : Stream) : Nat :=
  min (ratioMax s) (playRatio s.rate (oscPitch c r k i - s.root))

/-- The level in use (R71). -/
def oscLevel (r : Recipe) (k : Control) (i : Nat) : Int :=
  satI 0 0xFFFFFFFF ((r.level i : Int) + k.mod (5 * i + 1))

def modStart (k : Control) (i : Nat) : Int := k.mod (5 * i + 2)

/-- sat(w × level) of R71, R81, R94. -/
def scaled (x level : Int) : Int := sat31 (rndShift (x * level) 30)

/-! ### Wavetables (R66 to R70) -/

/-- The morph position (R69). The matrix drives MORPH of WT and ORD only (R58, R137): a PM oscillator's comes from its field. -/
def morphPos (r : Recipe) (k : Control) (i frames : Nat) : Nat :=
  (satI 0 (((frames : Int) - 1) * 1024) ((r.morph i : Int) + if r.mode i = mPM then 0 else k.mod (5 * i + 3))).toNat

/-- The Hermite value of four taps at t (R70). -/
def hermite (ym1 y0 y1 y2 t : Int) : Int :=
  let c1 := y1 - ym1
  let c2 := 2 * ym1 - 5 * y0 + 4 * y1 - y2
  let c3 := (y2 - ym1) + 3 * (y0 - y1)
  let h := rndShift (c3 * t) 31 + c2
  let h := rndShift (h * t) 31 + c1
  let h := rndShift (h * t) 31 + 2 * y0
  sat31 (rndShift h 1)

/-- The value of a table at a reading phase, mip level and morph position; `blend` is clear for PM (R68, R69, R72). -/
def wtValue (w : VoiceView) (first frames level pos phase : Nat) (blend : Bool) : Int :=
  let len := 1024 / 2 ^ level
  let x := phase / 2 ^ (22 + level)
  let t : Int := (phase * 2 ^ (10 - level) % 2 ^ 32 / 2 : Nat)
  let m := pos / 1024
  let f : Int := if blend && decide (m + 1 < frames) then (pos % 1024 : Nat) else 0
  let base (fr : Nat) : Nat := (first + fr) * 2048 + (2048 - 2048 / 2 ^ level)
  let tap (d : Nat) : Int :=
    let idx := (x + len + d - 1) % len
    let a := w.wave (base m + idx)
    if f = 0 then a else a + (w.wave (base (m + 1) + idx) - a) * f / 1024
  hermite (tap 0) (tap 1) (tap 2) (tap 3) t

/-- The value of the oscillator's table, 0 where it is not resident. -/
def tableValue (w : VoiceView) (r : Recipe) (k : Control) (i level phase : Nat) : Int :=
  match w.table (r.object i) with
  | some (first, frames) => wtValue w first frames level (morphPos r k i frames) phase (r.mode i != mPM)
  | none => 0

/-! ### Samples (R80 to R88) -/

/-- Loop jumps and turns are off: EXIT_ON_RELEASE from the boundary of the gate-off on (R83). -/
def exitActive (c : Ctx) (r : Recipe) (i n : Nat) : Bool :=
  r.exitOnRelease i && match c.gateOff with
    | some g => decide (g / 16 ≤ n)
    | none => false

/-- The position after a sample: moved by r, then the loop rules of R82 and R83. A ping-pong turn from beyond 2 le (a START far past
the loop), where 2 le - pos would be negative, ends at position 0: the spec does not say where (DESIGN CHOICE, log 75). -/
def smpAdvance (s : Stream) (loop : Nat) (exit : Bool) (r : Nat) (st : OscState) : OscState :=
  let step := r * 16
  let ls := s.ls * 2 ^ 32
  let le := s.le * 2 ^ 32
  let st := { st with jumped := false }
  if loop = 1 ∧ !exit then
    let p := st.pos + step
    if le ≤ p then { st with pos := p - (le - ls), looped := true, jumped := true } else { st with pos := p }
  else if loop = 2 ∧ st.back then
    if st.pos < ls + step then { st with pos := 2 * ls + step - st.pos, back := false, looped := true }
    else { st with pos := st.pos - step }
  else if loop = 2 ∧ !exit then
    let p := st.pos + step
    if le < p then { st with pos := 2 * le - p, back := true, looped := true } else { st with pos := p }
  else { st with pos := st.pos + step }

/-- fold(j) of R82; none where the tap reads 0. In the loop modes too a folded tap outside the object's frames (START below 3 before
LOOPED, START far past le) reads 0 and neither defers nor starves: the spec gives no frame for it (DESIGN CHOICE, log 75). -/
def foldTap (s : Stream) (loop : Nat) (exit looped : Bool) (j : Int) : Option Nat :=
  let ls : Int := s.ls
  let le : Int := s.le
  let g : Int :=
    if exit then j
    else match loop with
      | 1 => if le ≤ j then j - (le - ls) else if j < ls ∧ looped then j + (le - ls) else j
      | 2 => if le < j then 2 * le - j else if j < ls ∧ looped then 2 * ls - j else j
      | _ => j
  if 0 ≤ g ∧ g < s.length then some g.toNat else none

/-- The taps of a position (R81). -/
def smpTaps (s : Stream) (loop : Nat) (exit : Bool) (st : OscState) : List (Option Nat) :=
  (List.range 8).map fun (k : Nat) => foldTap s loop exit st.looped (((st.pos / 2 ^ 32 : Nat) : Int) + (k : Int) - 3)

/-- The sample has run out (R82 one-shot, R83). -/
def smpEnded (s : Stream) (loop : Nat) (exit : Bool) (st : OscState) : Bool :=
  (loop == 0 || (exit && !st.back)) && decide (s.length ≤ st.pos / 2 ^ 32)

/-- Every tap of the following samples, at the given ratios, lies inside the snapshot's ranges (R87). -/
def smpCovered (w : VoiceView) (s : Stream) (loop : Nat) (exit : Bool) : List Nat → OscState → Bool
  | [], _ => true
  | r :: rs, st =>
    smpEnded s loop exit st ||
    (((smpTaps s loop exit st).all fun t => match t with
      | some j => (w.frame s.ring j).isSome
      | none => true)
      && smpCovered w s loop exit rs (smpAdvance s loop exit r st))

/-- The windowed-sinc sum of a position, none where a tap lies outside the ranges (R81, R88). -/
def smpValue (w : VoiceView) (s : Stream) (loop : Nat) (exit : Bool) (st : OscState) : Option Int :=
  let taps := kernelTaps (st.pos % 2 ^ 32)
  let vals := (smpTaps s loop exit st).map fun (t : Option Nat) =>
    match t with
    | some j => w.frame s.ring j
    | none => some 0
  if vals.any Option.isNone then none
  else some (rndShift ((taps.zip vals).foldl (fun acc e => acc + e.1 * e.2.getD 0) 0) 54)

/-! ### What is fixed for a block before its samples -/

/-- Increments or ratios of the samples, ORD phases, mip level, ORD fade of R98, the sample at which SMP starts. -/
structure OscPlan where
  incs   : List Nat
  phases : List Nat
  level  : Nat
  ovf   : Bool
  fade   : Option (List Int)
  starts : Option Nat
  fails  : Bool
deriving DecidableEq, Repr

def OscPlan.none : OscPlan := ⟨[], [], 0, false, Option.none, Option.none, false⟩

def maxOf (l : List Nat) : Nat := l.foldl max 0

/-- The plan of a WT, PM or NOISE oscillator. -/
def planInc (c : Ctx) (w : VoiceView) (ks : List Control) (i s0 : Nat) : OscPlan :=
  let incs := (List.range 16).map fun j =>
    if j < s0 then 0 else oscInc c (c.recipeAt (16 * w.n + j)) (ks.getD j Control.silent) i
  { OscPlan.none with incs := incs, level := mipLevel (maxOf incs) }

/-- The ORD phase of sample j under the control values of sample `jk` (R95). -/
def ordPhase (c : Ctx) (w : VoiceView) (ks : List Control) (i j jk : Nat) : Nat :=
  let r := c.recipeAt (16 * w.n + jk)
  u32i ((orderPhase (r.pitch i) ((w.tb (r.timebase i)).angle j) + r.startAt i : Nat) + modStart (ks.getD jk Control.silent) i)

/-- The plan of an ORD oscillator (R97, R98). For a note that starts at sample 15, the phase of the silent sample 14 takes sample 15's
control values: the spec does not say which START modulation enters it (DESIGN CHOICE, log 75). -/
def planOrd (c : Ctx) (w : VoiceView) (ks : List Control) (i s0 : Nat) (st : OscState) : OscPlan :=
  let t := w.tb (c.recipe.timebase i)
  let phases := (List.range 16).map fun j => if j < s0 then 0 else ordPhase c w ks i j j
  let step (p q : Nat) : Nat := (phaseStep p q).natAbs
  let firstStep : Nat :=
    if 16 * w.n + s0 = c.start then
      if s0 < 15 then step (nth phases s0) (nth phases (s0 + 1))
      else step (ordPhase c w ks i 14 15) (nth phases 15)
    else step (prevOrderPhase (c.recipe.pitch i) t 0 st.phase) (nth phases 0)
  let steps := (List.range 16).map fun j =>
    if j < s0 then 0 else if j = s0 then firstStep else step (nth phases (j - 1)) (nth phases j)
  let a := maxOf steps
  let ovf := decide (mipLimit 7 < a)
  let fade : Option (List Int) :=
    if ovf then some (if st.muted then List.replicate 16 0 else (List.range 16).map (cosFall 16))
    else if st.muted then some ((List.range 16).map (cosRise 16))
    else Option.none
  { OscPlan.none with incs := steps, phases := phases, level := mipLevel a, ovf := ovf, fade := fade }

/-- The plan of an SMP oscillator: its ratios, and the deferral test while it has not started (R87). -/
def planSmp (c : Ctx) (w : VoiceView) (ks : List Control) (i s0 : Nat) (st : OscState) : OscPlan :=
  match st.stream.bind w.stream with
  | Option.none => OscPlan.none
  | some s =>
    let ratios := (List.range 16).map fun j =>
      if j < s0 then 0 else oscRatio c (c.recipeAt (16 * w.n + j)) (ks.getD j Control.silent) i s
    let r := c.recipe
    let exit := exitActive c r i w.n
    let fresh := { st with pos := r.startAt i * 2 ^ 32, back := false, looped := false, jumped := false }
    if st.started || st.ended then { OscPlan.none with incs := ratios }
    else if smpCovered w s (r.loop i) exit (ratios.drop s0) fresh then
      { OscPlan.none with incs := ratios, starts := some s0 }
    else { OscPlan.none with incs := ratios, fails := true }

def oscPlan (c : Ctx) (w : VoiceView) (ks : List Control) (i s0 : Nat) (st : OscState) : OscPlan :=
  match c.recipe.mode i with
  | 1 => planInc c w ks i s0
  | 2 => planSmp c w ks i s0 st
  | 3 => planInc c w ks i s0
  | 4 => if c.recipe.hold i then planInc c w ks i s0 else OscPlan.none
  | 5 => planOrd c w ks i s0 st
  | _ => OscPlan.none

/-! ### One sample -/

/-- The fraction f of R75 for a step of osc 0's phase. -/
def syncFrac (e a : Nat) : Nat := min (e * 2 ^ 32 / max 1 a) 0xFFFFFFFF

/-- The sync event of oscillator 0 in a sample (R74, R75); `first` is its first sounding sample. -/
def syncEvent (r : Recipe) (t : TbSnap) (first : Bool) (j : Nat) (prev now : OscState) : Option Nat :=
  if first then none else
  let wrap : Option Nat :=
    if now.phase < prev.phase then some (syncFrac now.phase (phaseStep prev.phase now.phase).natAbs) else none
  match r.mode 0 with
  | 1 => wrap
  | 3 => wrap
  | 4 => if r.hold 0 then wrap else none
  | 2 => if r.loop 0 = 1 ∧ prev.jumped ∧ prev.started ∧ !prev.ended then some 0 else none
  | 5 =>
    let p := prevOrderPhase (r.pitch 0) t j prev.phase
    if crossesZero p now.phase then
      let d := phaseStep p now.phase
      some (syncFrac (if 0 < d then now.phase else (2 ^ 32 - now.phase) % 2 ^ 32) d.natAbs)
    else none
  | _ => none

/-- The phase of an accumulator in this sample (R64, R65, R75). -/
def accPhase (r : Recipe) (p : OscPlan) (i j : Nat) (first : Bool) (sync : Option Nat) (st : OscState) : Nat :=
  if first then r.startAt i
  else match sync with
    | some f => if r.sync i then (r.startAt i + nth p.incs j * f / 2 ^ 32) % 2 ^ 32 else (st.phase + nth p.incs j) % 2 ^ 32
    | none => (st.phase + nth p.incs j) % 2 ^ 32

/-- WT and PM (R68 to R73). -/
def wtSample (w : VoiceView) (r : Recipe) (k : Control) (p : OscPlan) (i j : Nat) (first : Bool) (outs : List Int)
    (sync : Option Nat) (st : OscState) : OscState :=
  let phase := accPhase r p i j first sync st
  let off : Int :=
    if r.mode i = mPM then
      let src := if i = 0 then st.out else nthI outs (i - 1)
      src * satI (-32768) 32767 (r.pmDepth i + k.mod (5 * i + 4)) / 2048
    else 0
  let read := u32i ((phase : Int) + modStart k i + off)
  { st with phase := phase, out := scaled (tableValue w r k i p.level read) (oscLevel r k i) }

/-- The three pink sections and their sum (R94). Coefficients in 1.31. In the output sum the product 0.0230 w is rounded by itself; the
spec does not say whether it or the sum is (DESIGN CHOICE, log 75). -/
def pinkStep (x : Int) (st : OscState) : OscState × Int :=
  let stage (a b s : Int) : Int := rndShift (a * s + b * x) 31
  let p0 := stage 2146560230 4939212 st.p0
  let p1 := stage 2122852011 15247134 st.p1
  let p2 := stage 1988999355 49392124 st.p2
  ({ st with p0 := p0, p1 := p1, p2 := p2 }, sat31 (p0 + p1 + p2 + rndShift (49392124 * x) 31))

/-- NOISE (R93, R94). -/
def noiseSample (c : Ctx) (w : VoiceView) (r : Recipe) (k : Control) (p : OscPlan) (i j : Nat) (first : Bool) (st : OscState) :
    OscState :=
  let draw := qrandI c.seed w.n j i
  let st :=
    if r.hold i then
      if first then { st with phase := 0, held := draw }
      else
        let phase := (st.phase + nth p.incs j) % 2 ^ 32
        { st with phase := phase, held := if phase < st.phase then draw else st.held }
    else { st with held := draw }
  if r.pink i then
    let (st, y) := pinkStep st.held st
    { st with out := scaled y (oscLevel r k i) }
  else { st with out := scaled st.held (oscLevel r k i) }

/-- ORD (R95, R98, R179). -/
def ordSample (w : VoiceView) (r : Recipe) (k : Control) (p : OscPlan) (i j : Nat) (st : OscState) : OscState :=
  let phase := nth p.phases j
  let sg := nthI (w.tb (r.timebase i)).gain j
  let out := scaled (tableValue w r k i p.level phase) (rndShift (oscLevel r k i * sg) 31)
  { st with
    phase := phase
    out := match p.fade with
      | some g => mul31 out (nthI g j)
      | none => out }

/-- SMP (R80 to R88): deferred, sounding, starving or ended. -/
def smpSample (c : Ctx) (w : VoiceView) (r : Recipe) (k : Control) (p : OscPlan) (i j : Nat) (st : OscState) : OscState :=
  let st := if p.starts = some j then
      { st with started := true, pos := r.startAt i * 2 ^ 32, back := false, looped := false, jumped := false }
    else st
  match st.stream.bind w.stream with
  | none => { st with out := 0 }
  | some s =>
    if st.ended || !st.started then { st with out := 0 }
    else match st.starve with
      | some (last, m) =>
        { st with out := mul31 last (cosFall 32 m), starve := some (last, m + 1), ended := decide (31 ≤ m), jumped := false }
      | none =>
        let exit := exitActive c r i w.n
        if smpEnded s (r.loop i) exit st then { st with out := 0, ended := true }
        else match smpValue w s (r.loop i) exit st with
          | some y => { smpAdvance s (r.loop i) exit (nth p.incs j) st with out := scaled y (oscLevel r k i) }
          | none => { st with out := mul31 st.out (cosFall 32 0), starve := some (st.out, 1), jumped := false }

/-- Oscillator i in sample j; `outs` are the lower-numbered outputs of the sample. -/
def oscSample (c : Ctx) (w : VoiceView) (k : Control) (p : OscPlan) (i j : Nat) (outs : List Int) (sync : Option Nat)
    (st : OscState) : OscState :=
  let r := c.recipeAt (16 * w.n + j)
  let first := 16 * w.n + j == c.start
  match r.mode i with
  | 1 => wtSample w r k p i j first outs sync st
  | 2 => smpSample c w r k p i j st
  | 3 => wtSample w r k p i j first outs sync st
  | 4 => noiseSample c w r k p i j first st
  | 5 => ordSample w r k p i j st
  | _ => { st with out := 0 }

def OscState.reset : OscState := ⟨0, 0, 0, 0, 0, 0, 0, false, false, false, false, 0, none, false, false, none⟩

/-- The four oscillators of a sounding sample, in order (R55). -/
def oscsSample (c : Ctx) (w : VoiceView) (k : Control) (plans : List OscPlan) (j : Nat) (sts : List OscState) : List OscState :=
  let r := c.recipeAt (16 * w.n + j)
  let first := 16 * w.n + j == c.start
  (List.range 4).foldl (fun (acc : List OscState) i =>
    let sync := if i = 0 then none
      else syncEvent r (w.tb (r.timebase 0)) first j (sts.getD 0 OscState.reset) (acc.getD 0 OscState.reset)
    acc ++ [oscSample c w k (plans.getD i OscPlan.none) i j (acc.map fun (o : OscState) => o.out) sync
      (sts.getD i OscState.reset)]) []

/-- What the block leaves of the plans: ORD muting, failed deferral tests; the fifth failure ends the oscillator (R87, R98). -/
def oscAfter (c : Ctx) (p : OscPlan) (i : Nat) (st : OscState) : OscState :=
  match c.recipe.mode i with
  | 5 => { st with muted := p.ovf }
  | 2 => if p.fails then { st with tests := st.tests + 1, ended := st.ended || decide (4 ≤ st.tests) } else st
  | _ => st

end Sys2Proof.Machine
end

