-- ==== Sys2Proof/Machine/VoiceCalc.lean ====
section
/-! DEFINITION. Filters, amplitude, sends and the whole voice-block (R114 to R119, R138 to R142). -/
namespace Sys2Proof.Machine

/-! ### Filters (R115 to R118) -/

/-- Saturation to signed 8.32. -/
def sat832 (v : Int) : Int := satI (-(2 ^ 39)) (2 ^ 39 - 1) v

/-- A 4.28 coefficient times a 4.28 coefficient. -/
def mulCoef (a b : Int) : Int := rndShift (a * b) 28

/-- A 4.28 coefficient times an 8.32 value, in 8.32. -/
def mulState (a b : Int) : Int := sat832 (rndShift (a * b) 28)

def one28 : Int := 2 ^ 28
def one32 : Int := 2 ^ 32

/-- 1.98 and 3.92 in 4.28. -/
def k198 : Int := 531502203
def k392 : Int := 1052266988

/-- The limited cutoff, resonance and drive of a sample (R115). -/
def fltCutoff (c : Ctx) (r : Recipe) (k : Control) (f : Nat) : Int :=
  satI (-3735552) 5111808 (r.fCutoff f + c.pitch * r.fKeytrack f / 256 + k.mod (20 + 3 * f))
def fltRes (r : Recipe) (k : Control) (f : Nat) : Int := satI 0 0xFFFF ((r.fRes f : Int) + k.mod (21 + 3 * f))
def fltDrive (r : Recipe) (k : Control) (f : Nat) : Int := satI 0x1000 0xFFFF ((r.fDrive f : Int) + k.mod (22 + 3 * f))

/-- A state-variable filter (R117); `type` is F_TYPE 1 to 4. The sum 1 + g (g + k) reaches about 21, beyond signed 4.28, in which
R116 holds a coefficient; the spec does not say how it is held there, and the model keeps it unbounded (DESIGN CHOICE, log 75). -/
def svf (type : Nat) (g res x : Int) (st : FltState) : Int × FltState :=
  let k := 2 * one28 - rndShift (k198 * res) 16
  let a1 := recip28 (one28 + mulCoef g (g + k))
  let a2 := mulCoef g a1
  let a3 := mulCoef g a2
  let v3 := x - st.ic2
  let v1 := mulState a1 st.ic1 + mulState a2 v3
  let v2 := st.ic2 + mulState a2 st.ic1 + mulState a3 v3
  let kv := mulState k v1
  let y := match type with
    | 1 => v2
    | 2 => kv
    | 3 => x - kv - v2
    | _ => x - kv
  (y, { st with ic1 := sat832 (2 * v1 - st.ic1), ic2 := sat832 (2 * v2 - st.ic2) })

/-- The soft clip sc of R118, in 8.32: 0.5 * z * z * z from left to right, each product rounded. -/
def softClip (z : Int) : Int :=
  if one32 ≤ z then one32
  else if z ≤ -one32 then -one32
  else rndShift (3 * z) 1 - rndShift (rndShift (rndShift z 1 * z) 32 * z) 32

/-- One stage of the ladder: its output and its new state. -/
def ladderStage (gg inp s : Int) : Int × Int :=
  let v := mulState gg (inp - s)
  (v + s, sat832 (v + s + v))

/-- The ladder low-pass (R118). -/
def ladder (g res drv x : Int) (st : FltState) : Int × FltState :=
  let b := recip28 (one28 + g)
  let gg := mulCoef g b
  let k := rndShift (k392 * res) 16
  let gg2 := mulCoef gg gg
  let gg3 := mulCoef gg2 gg
  let gg4 := mulCoef gg3 gg
  let rd := recip28 (one28 + mulCoef k gg4)
  let xd := sat832 (rndShift (drv * x) 12)
  let s := mulState b (mulState gg3 st.s1 + mulState gg2 st.s2 + mulState gg st.s3 + st.s4)
  let u := softClip (mulState rd (xd - mulState k s))
  let r1 := ladderStage gg u st.s1
  let r2 := ladderStage gg r1.1 st.s2
  let r3 := ladderStage gg r2.1 st.s3
  let r4 := ladderStage gg r3.1 st.s4
  (r4.1, { st with s1 := r1.2, s2 := r2.2, s3 := r3.2, s4 := r4.2 })

def FltState.zero : FltState := ⟨0, 0, 0, 0, 0, 0⟩

/-- Filter f on a 1.31 value. -/
def fltSample (c : Ctx) (r : Recipe) (k : Control) (f : Nat) (x : Int) (st : FltState) : Int × FltState :=
  let type := r.fType f
  if type = 0 then (x, st) else
  let g := cutoffG (fltCutoff c r k f)
  let (y, st) :=
    if type = 5 then ladder g (fltRes r k f) (fltDrive r k f) (2 * x) st
    else svf type g (fltRes r k f) (2 * x) st
  (sat31 (rndShift y 1), st)

/-- The filter stage (R119). -/
def fltStage (c : Ctx) (r : Recipe) (k : Control) (x : Int) (sts : List FltState) : Int × List FltState :=
  let s0 := sts.getD 0 FltState.zero
  let s1 := sts.getD 1 FltState.zero
  let (y0, s0) := fltSample c r k 0 x s0
  let (y1, s1) := fltSample c r k 1 (if r.parallel then x else y0) s1
  (if r.parallel then rndShift (y0 + y1) 1 else y1, [s0, s1])

/-! ### Amplitude (R128, R138, R214) -/

/-- Envelope 0's factor: its level, or that of R128 where it is OFF. -/
def envFactor (c : Ctx) (r : Recipe) (k : Control) (n : Nat) : Int :=
  if r.envMode 0 ≠ 0 then nthI k.env 0
  else match c.offAt with
    | some g => if n < g then 0x7FFFFFFF else if n - g < 16 then cosFall 16 (n - g) else 0
    | none => 0x7FFFFFFF

/-- The gain of one fade in a sample, none before it starts. -/
def Fade.gain (f : Fade) (n : Nat) : Option Int :=
  if n < f.start then none
  else if n - f.start < f.len then some (cosFall f.len (n - f.start)) else some 0

/-- A value times `fade` of R138: the lowest gain of the running fades (R214), and 1.0 as held, 0x7FFF_FFFF, without one (R682). -/
def faded (c : Ctx) (n : Nat) (x : Int) : Int :=
  mul31 x ((minBy (fun a b => decide (a < b)) (c.fades.filterMap fun f => f.gain n)).getD 0x7FFFFFFF)

/-- The profile gain in sample j (R191). -/
def pgAt (w : VoiceView) (j : Nat) : Int := rampTo w.pgPrev w.pg j

/-- vpre and v of R138. -/
def ampStage (c : Ctx) (w : VoiceView) (r : Recipe) (k : Control) (j : Nat) (y : Int) : Int × Int :=
  let n := 16 * w.n + j
  let m := rndShift (faded c n (envFactor c r k n) * pgAt w j) 15
  let vpre := mul31 y m
  let a := satI 0 0xFFFFFFFF (rampTo c.recipe.amp (c.recipeNew w.n).amp j + k.mod 26)
  (vpre, sat31 (rndShift (vpre * a) 30))

/-! ### Sends (R141, R142) -/

/-- The 16 speaker gains for a pan modulation. -/
def speakerGains (w : VoiceView) (r : Recipe) (modPan : Int) : List Int :=
  let p := satI 0 0x8000 ((r.pan : Int) + modPan)
  let x := fpPi * p / 65536
  let wa := if r.equalPower then rndDiv (fpCos x * 32768) fpOne else 0x8000 - p
  let wb := if r.equalPower then rndDiv (fpSin x * 32768) fpOne else p
  (List.range 16).map fun k =>
    satI 0 0xFFFF (rndShift (wa * (w.svt r.svA k : Int) + wb * (w.svt r.svB k : Int)) 15)

/-- The 20 sends of one sample: 16 speakers, 4 aux. -/
def sendsOf (c : Ctx) (n : Nat) (r : Recipe) (k : Control) (go gn : List Int) (j : Nat) (vpre v : Int) : List Int :=
  let speakers := (List.range 16).map fun ch => sat31 (rndShift (v * rampTo (nthI go ch) (nthI gn ch) j) 15)
  let aux := (List.range 4).map fun i =>
    let lvl := satI 0 0xFFFFFFFF (rampTo (c.recipe.aux i) ((c.recipeNew n).aux i) j + k.mod (28 + i))
    sat31 (rndShift ((if r.auxPre i then vpre else v) * lvl) 30)
  speakers ++ aux

/-! ### The voice-block -/

/-- What a voice-block leaves: the context, 16 samples of 20 sends, the peak of R210, the oscillators that starved. -/
structure BlockOut where
  ctx     : Ctx
  sends   : List (List Int)
  peak    : Nat
  starved : List Nat
deriving DecidableEq, Repr

structure SampleState where
  osc : List OscState
  flt : List FltState
deriving DecidableEq, Repr

def silentSends : List Int := List.replicate 20 0

/-- The samples of a block from j on: the sends and |v| of each. -/
def sampleLoop (c : Ctx) (w : VoiceView) (ks : List Control) (plans : List OscPlan) (go gn : List Int) :
    Nat → Nat → SampleState → List (List Int × Nat) × SampleState
  | 0, _, st => ([], st)
  | k + 1, j, st =>
    if 16 * w.n + j < c.start then
      let rest := sampleLoop c w ks plans go gn k (j + 1) st
      ((silentSends, 0) :: rest.1, rest.2)
    else
      let r := c.recipeAt (16 * w.n + j)
      let ctl := ks.getD j Control.silent
      let osc := oscsSample c w ctl plans j st.osc
      let x := sat31 (osc.foldl (fun acc (o : OscState) => acc + o.out) 0)
      let f := fltStage c r ctl x st.flt
      let a := ampStage c w r ctl j f.1
      let sends := sendsOf c w.n r ctl go gn j a.1 a.2
      let rest := sampleLoop c w ks plans go gn k (j + 1) ⟨osc, f.2⟩
      ((sends, a.2.natAbs) :: rest.1, rest.2)

/-- The voice has come to its end by the end of block n (R127, R128, R214). -/
def ctxOver (c : Ctx) (env : List EnvState) (n : Nat) : Bool :=
  let last := 16 * n + 15
  let byEnv :=
    if c.recipe.envMode 0 ≠ 0 then (env.getD 0 EnvState.off).ph == .done
    else match c.offAt with
      | some g => decide (g + 15 ≤ last)
      | none => false
  byEnv || c.fades.any fun f => decide (f.start + f.len ≤ last + 1)

/-- An oscillator starved in this block (R87, R88). -/
def starvedIn (a b : OscState) : Bool :=
  (a.starve.isNone && b.starve.isSome) || (!a.started && !b.started && !a.ended && b.ended)

/-- One voice-block: the context at the block's start to the one at its end. -/
def voiceBlock (w : VoiceView) (c : Ctx) : BlockOut :=
  if 16 * w.n + 15 < c.start then
    ⟨{ c with recipe := c.recipeNew w.n, params := c.laterParams w.n, ovf := ctxOver c c.env w.n }, List.replicate 16 silentSends, 0, []⟩
  else
    let s0 := c.start - 16 * w.n
    let prev := if c.started then c.srcPrev else w.cur
    let (ks, ctl) := controlBlock c w prev 16 0 ⟨c.env, c.lfo, c.sums⟩
    let plans := (List.range 4).map fun i => oscPlan c w ks i s0 (c.osc.getD i OscState.reset)
    let gn := speakerGains w (c.recipeNew w.n) ((ks.getD s0 Control.silent).mod 27)
    let go := if c.started then c.go else gn
    let (rows, st) := sampleLoop c w ks plans go gn 16 0 ⟨c.osc, c.flt⟩
    let osc := (List.range 4).map fun i => oscAfter c (plans.getD i OscPlan.none) i (st.osc.getD i OscState.reset)
    let after : Ctx := { c with
      recipe := c.recipeNew w.n
      started := true
      osc := osc
      flt := st.flt
      env := ctl.env
      lfo := ctl.lfo
      srcPrev := w.cur
      sums := ctl.sums
      go := gn
      params := c.laterParams w.n
      ovf := ctxOver c ctl.env w.n }
    ⟨after, rows.map fun (e : List Int × Nat) => e.1,
      min 0xFFFF (maxOf (rows.map fun (e : List Int × Nat) => e.2) / 2 ^ 15),
      (List.range 4).filter fun i => starvedIn (c.osc.getD i OscState.reset) (osc.getD i OscState.reset)⟩

end Sys2Proof.Machine
end

