-- ==== Sys2Proof/Machine/Streams.lean ====
section
/-! DEFINITION. Stream rings, their reads and charges, and what a voice-block sees of them (chapter 07 R268 to R280, R85 to R89). -/
namespace Sys2Proof.Machine

/-! ### Users of a stream -/

/-- Every sounding or queued voice. -/
def State.allVoices (s : State) : List (Nat × Voice) := s.mash.voices ++ s.mash.queued

/-- An oscillator of the voice plays the stream and has not ended. -/
def Voice.plays (x : Voice) (id : Nat) : Bool :=
  x.ctx.osc.any fun o => o.stream == some id && !o.ended

/-- The stream belongs to voice v or to its twin (R89). -/
def Stream.of (st : Stream) (v : Nat) (twin : Option Nat) : Bool :=
  !st.primed && (st.voice == some v || (twin.isSome && st.voice == twin))

/-- The stream of an identity that a voice plays. -/
def State.streamOf (s : State) (v : Nat) (twin : Option Nat) (id : Nat) : Option Stream :=
  s.store.streams.find? fun st => st.id == id && st.of v twin

/-- The stream of an identity, open or primed. -/
def State.streamAt (s : State) (id : Nat) : Option Stream := s.store.streams.find? fun st => st.id == id

/-! ### Frames in the ring (R85, R269) -/

/-- Consecutive numbers as ranges, from a rising list. -/
def toRanges : List Nat → List (Nat × Nat)
  | [] => []
  | f :: fs =>
    match toRanges fs with
    | (a, b) :: rest => if f + 1 = a then (f, b) :: rest else (f, f) :: (a, b) :: rest
    | [] => [(f, f)]

/-- A number enters a rising list without repeats. -/
def insertNat (f : Nat) : List Nat → List Nat
  | [] => [f]
  | g :: gs => if f < g then f :: g :: gs else if f = g then g :: gs else g :: insertNat f gs

def mergeNats (a b : List Nat) : List Nat := a.foldl (fun acc f => insertNat f acc) b

def Stream.width (st : Stream) : Nat := if st.wide then 3 else 2
def Stream.cap (st : Stream) : Nat := ringCap st.wide

/-- Byte of frame f in ring memory. -/
def Stream.slot (st : Stream) (f : Nat) : Nat := 512 * st.ring + f % st.cap * st.width

/-- Frames that blocks not yet released can need: those of the targets posted after block lastBlock - 2 or later (R41, R301). -/
def State.heldFrames (s : State) (st : Stream) : List Nat :=
  (st.targets.filter fun t => decide (s.lastBlock ≤ t.1 + 2)).foldl (fun acc t => mergeNats t.2 acc) []

/-- A frame may enter the ring: its slot holds no other frame of the stream that an unreleased block can need (R41, R269). A stream
that has passed its ring on holds nothing back (R268, log 77). -/
def State.slotFree (s : State) (st : Stream) (f : Nat) : Bool :=
  st.frames.all fun g => g == f || g % st.cap != f % st.cap || !(s.heldFrames st).contains g

/-- Frames with their bytes enter a stream's ring; each displaces what its slot held (R85). -/
def State.putFrames (s : State) (id : Nat) (fs : List (Nat × List Byte)) : State :=
  match s.streamAt id with
  | none => s
  | some st =>
    let rings := fs.foldl (fun m f => sputs (fun _ => (0 : Byte)) m (st.slot f.1) f.2) s.store.rings
    let held := fs.foldl (fun (acc : List Nat) f => insertNat f.1 (acc.filter fun g => g % st.cap != f.1 % st.cap)) st.frames
    { s with
      store.rings := rings
      store.streams := s.store.streams.map fun (x : Stream) => if x.id = id then { x with frames := held } else x }

/-- Frame f of a ring as a 1.31 value. -/
def State.ringFrame (s : State) (st : Stream) (f : Nat) : Int :=
  let b (i : Nat) : Nat := (sget (fun _ => (0 : Byte)) s.store.rings (st.slot f + i)).toNat
  if st.wide then signed 24 (b 0 + 256 * b 1 + 65536 * b 2) * 256 else signed 16 (b 0 + 256 * b 1) * 65536

/-- Target frames that a range holds. -/
def inRange (fs : List Nat) (r : Nat × Nat) : Nat := (fs.filter fun f => decide (r.1 ≤ f) && decide (f ≤ r.2)).length

/-- The two ranges of R85: where a ring holds more, those with the most frames that unreleased blocks can need, in rising order
(DESIGN CHOICE, log 35). -/
def bestRanges (want : List Nat) (rs : List (Nat × Nat)) : List (Nat × Nat) :=
  match sortBy (fun a b => decide (inRange want b ≤ inRange want a)) rs with
  | a :: b :: _ :: _ => if a.1 < b.1 then [a, b] else [b, a]
  | _ => rs

/-- The ranges of every stream, frozen at a boundary. -/
def State.ringRanges (s : State) : List (Nat × List (Nat × Nat)) :=
  (s.store.streams.filter fun st => !st.primed).map fun (st : Stream) => (st.id, bestRanges (s.heldFrames st) (toRanges st.frames))

/-! ### What block n of voice v reads -/

def State.snapOf (s : State) (n : Nat) : Snapshot :=
  (s.mash.snaps.find? fun x => x.block == n).getD ⟨n, [], [], [], [], [], []⟩

/-- The table of an object that voices of block n may read (R101, R104). -/
def State.tableOf (s : State) (n obj : Nat) : Option (Nat × Nat) :=
  (s.fw.tables.find? fun t => t.object == obj && decide (t.usable ≤ n) &&
    (match t.gone with
      | some g => decide (n < g)
      | none => true)).map fun t => (t.first, t.frames)

/-- The speaker-vector tables in force for block n (R140). -/
def State.svtFor (s : State) (n : Nat) : List (List Nat) :=
  match s.mash.svtOld.find? fun e => decide (n < e.1) with
  | some e => e.2
  | none => s.mash.svt

def State.viewOf (s : State) (v : Nat) (twin : Option Nat) (prio n : Nat) : VoiceView :=
  let snap := s.snapOf n
  let speeds := snap.tbs.map fun (t : TbSnap) => t.srcSpeed
  let accels := snap.tbs.map fun (t : TbSnap) => t.srcAccel
  let pad (l : List Int) (k : Nat) : List Int := (l ++ List.replicate k 0).take k
  { n := n
    tbs := snap.tbs
    cur := pad snap.ctl 8 ++ pad speeds 4 ++ pad accels 4 ++ pad snap.fine 8
    pgPrev := snap.pgPrev.getD prio 0x8000
    pg := snap.pg.getD prio 0x8000
    table := s.tableOf n
    wave := fun a => (sget (fun _ => (0 : Word)) (s.mash.wave.getD (vRegion v) []) a).toInt
    stream := s.streamOf v twin
    frame := fun q f =>
      match s.streamOf v twin q with
      | some st =>
        let ranges := ((snap.ranges.find? fun e => e.1 == q).map fun e => e.2).getD []
        if ranges.any (fun r => decide (r.1 ≤ f) && decide (f ≤ r.2)) then some (s.ringFrame st f) else none
      | none => none
    svt := fun e k => nth ((s.svtFor n).getD (vRegion v) []) (e * 16 + k) }

/-! ### Targets (R86, R269, R270, R299) -/

/-- Folded frames of the source positions lo to hi. -/
def foldFrames (st : Stream) (loop : Nat) (exit looped : Bool) (lo hi : Int) : List Nat :=
  (List.range (hi + 1 - lo).toNat).foldl (fun (acc : List Nat) (k : Nat) =>
    match foldTap st loop exit looped (lo + (k : Int)) with
    | some f => insertNat f acc
    | none => acc) []

/-- The reach of m samples in frames: ⌈m r_max⌉. -/
def reachOf (st : Stream) (m : Nat) : Nat := (m * ratioMax st + 2 ^ 28 - 1) / 2 ^ 28

/-- The window of R270, START - 3 to START + ⌈32 r_max⌉ + 4, or R299's over m samples. -/
def openWindow (st : Stream) (m : Nat) : List Nat :=
  foldFrames st st.mode false false ((st.start : Int) - 3) ((st.start + reachOf st m + 4 : Nat) : Int)

/-- Every frame that samples at up to `m` samples from an oscillator's position can need, folded. A loop that the reach passes is
walked to its end and once around at most: no position lies past it. -/
def reachFrames (c : Ctx) (i n m : Nat) (st : Stream) (o : OscState) : List Nat :=
  let reach : Int := reachOf st m
  let at0 : Int := (o.pos / 2 ^ 32 : Nat)
  let exit := exitActive c c.recipe i n
  let ls : Int := st.ls
  let le : Int := st.le
  let plain (lo hi : Int) (looped : Bool) : List Nat := foldFrames st st.mode exit looped lo hi
  if st.mode = 1 ∧ !exit then
    if at0 + reach < le then plain (at0 - 3) (at0 + reach + 4) o.looped
    else mergeNats (plain (at0 - 3) (max at0 le + 4) o.looped) (plain (ls - 3) (min (at0 + reach - (le - ls)) le + 4) true)
  else if st.mode = 2 ∧ o.back then
    if ls ≤ at0 - reach - 4 then plain (at0 - reach - 4) (at0 + 4) o.looped
    else mergeNats (plain (ls - 4) (at0 + 4) true) (plain (ls - 3) (min (2 * ls - (at0 - reach)) le + 4) true)
  else if st.mode = 2 ∧ !exit then
    if at0 + reach < le then plain (at0 - 3) (at0 + reach + 4) o.looped
    else mergeNats (plain (at0 - 3) (max at0 le + 4) o.looped) (plain (max (2 * le - (at0 + reach)) ls - 4) (le + 4) true)
  else plain (at0 - 3) (at0 + reach + 4) o.looped

/-- The frames past the loop that a gate-off may call for (R83), where their ring slots are free of the loop's own. -/
def withExit (m : Nat) (st : Stream) (o : OscState) (base : List Nat) : List Nat :=
  let at0 : Int := (o.pos / 2 ^ 32 : Nat)
  let more := foldFrames st st.mode true false (at0 - 3) (at0 + reachOf st m + 4)
  mergeNats (more.filter fun f => !base.any fun g => g % st.cap == f % st.cap) base

/-! ### Reads (R269 to R273) -/

/-- The ports that a stream's reads use: a mirrored sample is read from both copies (R277), and where a port does not serve, a
mirror on the other one is (R280, R327). -/
def State.readPorts (s : State) (st : Stream) : List Nat :=
  let a := portOf st.addr
  if st.mirror = noMirror then [a]
  else if st.safety ∨ !s.portServes a then (if portOf st.mirror = a then [a] else [a, portOf st.mirror])
  else [a]

/-- The order of R272: tier, deadline, higher priority, lower stream number (the ring's, log 60). -/
def State.readKey (s : State) (r : GristRead) : List Nat :=
  match s.streamAt r.stream with
  | some st => [r.tier, r.deadline, 7 - min 7 st.prio, st.ring, r.id]
  | none => [r.tier, r.deadline, 7, 4096, r.id]

def State.readBefore (s : State) (a b : GristRead) : Bool := decide (s.readKey a < s.readKey b)

/-- A frame of the read can be placed now. -/
def State.canPlace (s : State) (r : GristRead) : Bool :=
  match s.streamAt r.stream with
  | some st => r.refetch || r.frames.any (s.slotFree st)
  | none => true

/-- A port that serves none takes up its first read in the order of R272, among those that can place a frame. -/
def State.takeUp (s : State) (p : Nat) : Option Nat :=
  let now := (s.store.serving.getD p none).bind fun id => s.store.reads.find? fun r => r.id == id
  match now with
  | some r => some r.id
  | none =>
    if s.portServes p then
      (minBy s.readBefore (s.store.reads.filter fun r => r.ports.contains p && s.canPlace r)).map fun (r : GristRead) => r.id
    else none

def State.serve (s : State) : State := { s with store.serving := [s.takeUp 0, s.takeUp 1] }

/-- A read joins the queue. -/
def State.addRead (s : State) (st : Stream) (tier deadline : Nat) (fs : List Nat) (again : Bool) : State :=
  if fs.isEmpty || s.kiln.halted then s else
  { s with
    store.reads := s.store.reads ++ [GristRead.mk s.store.nextId (s.readPorts st) tier deadline st.id fs again]
    store.nextId := s.store.nextId + 1 }.serve

/-- A read is queued for the frames of a stream that are neither present nor asked for. -/
def State.queueRead (s : State) (st : Stream) (tier deadline : Nat) (fs : List Nat) : State :=
  let asked := (s.store.reads.filter fun r => r.stream == st.id && decide (deadline ≤ r.deadline)).flatMap fun (r : GristRead) => r.frames
  s.addRead st tier deadline (fs.filter fun f => !st.frames.contains f && !asked.contains f) false

/-- The tier of a stream's fills (R272). -/
def Stream.tier (st : Stream) : Nat := if st.safety then 1 else 2

/-- The post of a stream after voice-block n (R86, R269): the target of block n + 1 and the one after, missing frames due at B(n+2).
A stream that opened by a steal fetches from the boundary after it (R219). -/
def State.postStream (s : State) (c : Ctx) (i n m : Nat) (st : Stream) (o : OscState) : State :=
  if o.ended || decide (n < st.opened) then s else
  let base := if o.started then reachFrames c i n m st o else openWindow st m
  let target := if o.started && c.recipe.exitOnRelease i && !exitActive c c.recipe i n then withExit m st o base else base
  let s1 := { s with store.streams := s.store.streams.map fun (x : Stream) =>
    if x.id = st.id then { x with targets := (x.targets.filter fun (t : Nat × List Nat) => t.1 != n) ++ [(n, target)] } else x }
  s1.queueRead st st.tier ((n + 2) * 4096) target

/-- The posts of a voice after its block n: over the samples of two blocks. -/
def State.postVoice (s : State) (v : Nat) (twin : Option Nat) (c : Ctx) (n m : Nat) : State :=
  (List.range 4).foldl (fun s i =>
    let o := c.osc.getD i OscState.reset
    match o.stream with
    | some q =>
      match s.streamOf v twin q with
      | some st => s.postStream c i n m st o
      | none => s
    | none => s) s

/-! ### Charges (R275) -/

/-- Bytes per block of a stream at a note's pitch, without modulation. -/
def streamCharge (margin : Nat) (c : Ctx) (r : Recipe) (i : Nat) (st : Stream) : Nat :=
  let r0 := oscRatio c r Control.silent i st
  (16 * r0 * margin + 2 ^ 34 - 1) / 2 ^ 34 * st.width

/-- Bytes a stream needs on each port. -/
def State.portNeeds (s : State) (st : Stream) (charge : Nat) : List Nat :=
  if st.safety then if s.m0Only then [2 * charge, 0] else [charge, charge]
  else if portOf st.addr = 0 then [charge, 0] else [0, charge]

/-- General and safety bytes that a need takes on each port, none where it does not fit; `freed` general bytes count as unused. -/
def State.admission (s : State) (safety : Bool) (needs freed : List Nat) : Option (List Nat × List Nat) :=
  let one (p : Nat) : Option (Nat × Nat) :=
    let (limit, share) := s.limits p
    let (g, h) := s.charged p
    let need := nth needs p
    let k := if safety then min need (share - h) else 0
    if need - k ≤ (limit - share) + nth freed p - g then some (need - k, k) else none
  match one 0, one 1 with
  | some a, some b => some ([a.1, b.1], [a.2, b.2])
  | _, _ => none

end Sys2Proof.Machine
end

