-- ==== Sys2Proof/Machine/Grist.lean ====
section
/-! DEFINITION. Port reads of the stream rings, mirror resolution, port failure, scrubbing (07 R269 to R281, 09 R327). -/
namespace Sys2Proof.Machine

/-- Pages of frame f in a copy at `base`. -/
def framePages (st : Stream) (base f : Nat) : List Nat :=
  let a := base + 0x40 + f * st.width
  let z := a + st.width - 1
  if a / 4096 = z / 4096 then [a / 4096] else [a / 4096, z / 4096]

def framePagesOf (st : Stream) (base : Nat) (fs : List Nat) : List Nat :=
  fs.foldl (fun acc f => mergeNats (framePages st base f) acc) []

/-- The bytes of a frame in a copy. -/
def State.frameBytes (s : State) (st : Stream) (base f : Nat) : List Byte := s.flashBytes (base + 0x40 + f * st.width) st.width

/-- No page of the frame in that copy is marked bad. -/
def State.frameClean (s : State) (st : Stream) (base f : Nat) : Bool := (framePages st base f).all fun p => !(s.store.bad.contains p)

/-- Frames of one copy enter the ring. -/
def State.accept (s : State) (st : Stream) (base : Nat) (fs : List Nat) : State :=
  s.putFrames st.id (fs.map fun f => (f, s.frameBytes st base f))

/-! ### Whole-page reads (R277, R278, R280) -/

/-- Every page is read whole and checked, failing ones once more: the pages that pass. -/
def State.checkPages (s : State) (rd : List PageFault) (reader : Nat) : List Nat → List Nat × State
  | [] => ([], s)
  | p :: ps =>
    let r := s.checkPage rd p reader
    let t := r.2.checkPages rd reader ps
    (if r.1 then p :: t.1 else t.1, t.2)

/-- Frames through whole-page reads of the one copy that can be read (R278, R327). -/
def State.readWhole (s : State) (st : Stream) (rd : List PageFault) (reader base : Nat) (fs : List Nat) : State :=
  let r := s.checkPages rd reader (framePagesOf st base fs)
  r.2.accept st base (fs.filter fun f => (framePages st base f).all fun p => r.1.contains p)

/-! ### General streams (R280) -/

/-- A page's place in the mirror copy, counted from the object's first page. -/
def Stream.mirrorPage (st : Stream) (p : Nat) : Nat := st.mirror / 4096 + (p - st.addr / 4096)

/-- Partial reads, unchecked; a frame on a bad page comes from the mirror, whose pages are then read whole and checked (R278), or not
at all. -/
def State.readGeneral (s : State) (st : Stream) (rd : List PageFault) (fs : List Nat) : State :=
  let a := s.portServes (portOf st.addr)
  let mirrored := st.mirror != noMirror && s.portServes (portOf st.mirror)
  let clean := fs.filter fun f => a && s.frameClean st st.addr f
  let plain := clean.filter fun f => st.mirror == noMirror || s.frameClean st st.mirror f
  let whole := clean.filter fun f => !plain.contains f
  let rest := if mirrored then fs.filter fun f => !clean.contains f && s.frameClean st st.mirror f else []
  (((s.accept st st.addr plain).readWhole st rd 0 st.addr whole)).readWhole st rd 0 st.mirror rest

/-! ### Safety streams (R277, R278, R327) -/

def mirrorMsg (st : Stream) (page : Nat) : BitVec 64 :=
  mkMsg 2 (3 + portOf st.addr) kGristMirror 2 (1 * 4096) (page * 4096)

/-- The bytes of a frame that lie in a page of ADDR, in the copy at `base`. -/
def State.bytesIn (s : State) (st : Stream) (base page f : Nat) : List Byte :=
  (List.range st.width).filterMap fun i =>
    let o := 0x40 + f * st.width + i
    if (st.addr + o) / 4096 = page then some (s.flashByte (base + o)) else none

/-- The copies differ over the frames in a page of ADDR, or a partial read made it seem so. -/
def State.pageDiffers (s : State) (st : Stream) (noise fs : List Nat) (p : Nat) : Bool :=
  noise.contains p || fs.any fun f => s.bytesIn st st.addr p f != s.bytesIn st st.mirror p f

/-- What the resolution of a mismatched pair of pages comes to. -/
inductive PairVerdict where
  /-- the frames are taken from the copy at ADDR, from the mirror, or never -/
  | fromAddr | fromMirror | never
deriving DecidableEq, Repr

/-- Steps 2 to 6 of R277 for one mismatched pair of pages. -/
def State.resolvePair (s : State) (st : Stream) (rd : List PageFault) (fs : List Nat) (p : Nat) : PairVerdict × State :=
  let m := st.mirrorPage p
  let a := s.checkPage rd p 1
  let b := a.2.checkPage rd m 1
  match a.1, b.1 with
  | true, false => (.fromAddr, b.2)
  | false, true => (.fromMirror, b.2)
  | false, false => (.never, b.2.report (mirrorMsg st p) 4 1)
  | true, true =>
    if s.pageDiffers st [] fs p then (.never, ((b.2.markBad p 1).markBad m 1).report (mirrorMsg st p) 4 1)
    else if failsOf rd p = 0 ∧ failsOf rd m = 0 then (.fromAddr, b.2.report (pageMsg p 1 0) 4 1)
    else (.fromAddr, b.2)

/-- Every mismatched pair in turn. -/
def State.resolvePairs (s : State) (st : Stream) (rd : List PageFault) (fs : List Nat) : List Nat → List (Nat × PairVerdict) × State
  | [] => ([], s)
  | p :: ps =>
    let r := s.resolvePair st rd fs p
    let t := r.2.resolvePairs st rd fs ps
    ((p, r.1) :: t.1, t.2)

/-- A frame's bytes after resolution, page by page; none where a page of it is never accepted. -/
def State.resolvedBytes (s : State) (st : Stream) (vs : List (Nat × PairVerdict)) (f : Nat) : Option (List Byte) :=
  let verdict (p : Nat) : PairVerdict := ((vs.find? fun x => x.1 == p).map fun x => x.2).getD .fromAddr
  let ps := framePages st st.addr f
  if ps.any fun p => verdict p == .never then none
  else some (ps.flatMap fun p => s.bytesIn st (if verdict p = .fromMirror then st.mirror else st.addr) p f)

/-- Frames that both copies hold on pages not marked bad (R277): taken where the copies agree, else after resolution. -/
def State.readPair (s : State) (st : Stream) (out : ReadOutcome) (fs : List Nat) : State :=
  let ps := (framePagesOf st st.addr fs).filter (s.pageDiffers st out.mismatch fs)
  if ps.isEmpty then s.accept st st.addr fs
  else
    let r := (s.countReg bGRIST 0x38 16 16 1).resolvePairs st out.faults fs ps
    r.2.putFrames st.id (fs.filterMap fun f => (r.2.resolvedBytes st r.1 f).map fun bs => (f, bs))

/-- A read of a safety-class sample. -/
def State.readSafety (s : State) (st : Stream) (out : ReadOutcome) (fs : List Nat) : State :=
  match s.portServes (portOf st.addr), s.portServes (portOf st.mirror) with
  | false, false => s
  | true, false => s.readWhole st out.faults 1 st.addr fs
  | false, true => s.readWhole st out.faults 1 st.mirror fs
  | true, true =>
    let both := fs.filter fun f => s.frameClean st st.addr f && s.frameClean st st.mirror f
    let onlyA := fs.filter fun f => s.frameClean st st.addr f && !s.frameClean st st.mirror f
    let onlyB := fs.filter fun f => !s.frameClean st st.addr f && s.frameClean st st.mirror f
    let s := if both.isEmpty then s else s.readPair st out both
    (s.readWhole st out.faults 1 st.addr onlyA).readWhole st out.faults 1 st.mirror onlyB

/-! ### The rows -/

def State.readOf (s : State) (id : Nat) : Option GristRead := s.store.reads.find? fun r => r.id == id

def State.dropRead (s : State) (id : Nat) : State :=
  ({ s with store.reads := s.store.reads.filter fun r => r.id != id }).serve

/-- Only the frames whose slots are free are taken; the read goes on for the rest (R41, R269). -/
def State.keepRead (s : State) (id : Nat) (rest : List Nat) : State :=
  ({ s with
    store.reads := s.store.reads.map fun (r : GristRead) => if r.id = id then { r with frames := rest } else r
    store.serving := s.store.serving.map fun x => if x = some id then none else x }).serve

/-- A read's deadline ends it; a priming read goes on until its task is applied (R271, R273). -/
def GristRead.expired (r : GristRead) (now : Nat) : Bool := r.tier != 3 && decide (r.deadline < now)

/-- The frames of a read enter its stream's ring after the checks of its class. -/
def State.takeFrames (s : State) (st : Stream) (out : ReadOutcome) (fs : List Nat) : State :=
  if st.safety && st.mirror != noMirror then s.readSafety st out fs else s.readGeneral st out.faults fs

/-- GRIST_READ_COMPLETE: the read that a port has taken up ends (R269, R272); past its deadline it is abandoned (R273). -/
def State.gristReadComplete (s : State) (id : Nat) (out : ReadOutcome) : State :=
  match s.readOf id with
  | none => s
  | some r =>
    if r.expired s.time || s.kiln.halted then s.dropRead id
    else if !s.store.serving.contains (some id) then s
    else match s.streamAt r.stream with
      | none => s.dropRead id
      | some st =>
        if !r.ports.any s.portServes then s
        else
          let now := r.frames.filter fun f => r.refetch || s.slotFree st f
          let s1 := if now.length = r.frames.length then s.dropRead id else s.keepRead id (r.frames.filter fun f => !now.contains f)
          (s1.takeFrames st out now).serve

def execGristReadComplete (id : Nat) (out : ReadOutcome) (s : State) : Host.Outcome State Fault Refusal :=
  s.ends (s.gristReadComplete id out)

/-- READ_DEADLINE (R273). -/
def execReadDeadline (id : Nat) (s : State) : Host.Outcome State Fault Refusal :=
  s.done (match s.readOf id with
    | some r => if r.tier != 3 && decide (r.deadline ≤ s.time) then s.dropRead id else s
    | none => s)

/-- A read keeps a copy to go to when port p fails (R327). -/
def State.survives (s : State) (p : Nat) (r : GristRead) : Bool :=
  !r.ports.contains p || r.ports.any fun q => q != p && s.portServes q

/-- GRIST_PORT (R327): reads queued on the port alone are abandoned. -/
def State.gristPort (s : State) (p : Nat) : State :=
  if !s.isReady || !s.portServes p then s
  else
    let s := { s with
      store.ports := modAt s.store.ports p fun x => { x with failed := true }
      store.reads := s.store.reads.filter (s.survives p)
      store.serving := s.store.serving.set p none }
    s.serve.report (mkMsg 2 (3 + p) kGristPort 1 0 0) 4 1

def execGristPort (p : Nat) (s : State) : Host.Outcome State Fault Refusal :=
  s.ends (s.gristPort p)

/-! ### Scrubbing (R280) -/

/-- Pages of an object that the scrubber reads: its own, then its mirror's. -/
def DirEntry.scrubPages (e : DirEntry) : List Nat :=
  let n := (e.addr % 4096 + e.size + 4095) / 4096
  let run (a : Nat) : List Nat := (List.range n).map fun i => a / 4096 + i
  run e.addr ++ (if e.mirror = noMirror then [] else run e.mirror)

/-- The next page in turn from a cursor (object index and page of it), within the directory. -/
def State.scrubNext (s : State) : Option (Nat × Nat) :=
  let n := s.store.anchor.entries
  let obj := s.store.scrubAt / 2 ^ 21
  let k := s.store.scrubAt % 2 ^ 21
  let pagesAt (i : Nat) : List Nat := match s.object i with
    | some e => e.scrubPages
    | none => []
  match (pagesAt obj)[k]? with
  | some p => some (p, obj * 2 ^ 21 + k + 1)
  | none =>
    match ((List.range n).map fun i => (obj + 1 + i) % max 1 n).find? fun i => !(pagesAt i).isEmpty with
    | some i => ((pagesAt i)[0]?).map fun p => (p, i * 2 ^ 21 + 1)
    | none => none

/-- Pages scrubbed by B(n) at the rate of GRIST_SCRUB. -/
def State.scrubCount (s : State) (n : Nat) : Nat := n * bits (s.regN bGRIST 4) 0 16 * 1000 / (6000 * 4096)

/-- The scrub reads of block n - 1, checked; `rd` holds the reads that fail on sound content (R279, R280). -/
def State.scrubBlock (s : State) (n : Nat) (rd : List PageFault) : State :=
  if !bit (s.regN bGRIST 0) 25 || s.kiln.halted then s
  else (List.range (s.scrubCount n - s.scrubCount (n - 1))).foldl (fun (s : State) _ =>
    match s.scrubNext with
    | none => s
    | some (p, at') =>
      let s := { s with store.scrubAt := at' }
      if s.portServes (portOf (p * 4096)) then (s.checkPage rd p 3).2 else s) s

end Sys2Proof.Machine
end

