-- ==== Sys2Proof/Machine/CopperCode.lean ====
section
/-! DEFINITION. The Copper's program words: decoding, encoding, the codes each instruction accepts, and the loader's checks
(13 R465, 14 R482 to R486). -/
namespace Sys2Proof.Machine

/-! ### Fields (R482, R483) -/

/-- Field [lo + n - 1 : lo] of a program word. -/
def pfield (w : ProgWord) (lo n : Nat) : BitVec n := w.extractLsb' lo n

/-- A parallel move field: its ten low bits are RSV. -/
def decodeMv (w : ProgWord) (lo : Nat) : Mv :=
  ⟨pfield w (lo + 18) 2, pfield w (lo + 16) 2, pfield w (lo + 14) 2, pfield w (lo + 10) 4⟩

def decodeFmtA (w : ProgWord) : FmtA :=
  ⟨pfield w 54 4, pfield w 50 4, pfield w 46 4, pfield w 40 6, decodeMv w 20, decodeMv w 0⟩

/-- The word's RSV bits of format A are zero. -/
def rsvA (w : ProgWord) : Bool := pfield w 20 10 == 0 && pfield w 0 10 == 0
/-- Those of format M: [51:48], and [47:44] or [31:6] where the instruction says so. -/
def rsvM (w : ProgWord) : Bool := pfield w 48 4 == 0
/-- Those of format B. -/
def rsvB (w : ProgWord) : Bool := pfield w 50 4 == 0 && pfield w 32 4 == 0 && pfield w 0 16 == 0

/-- Opcodes 0x00 to 0x1B (R493). -/
def decodeA (op : Nat) (a : FmtA) : Option Instr :=
  match op with
  | 0x00 => some (.cNop a)
  | 0x01 => some (.cMpy a)
  | 0x02 => some (.cMac a)
  | 0x03 => some (.cMsu a)
  | 0x04 => some (.cCmpy a)
  | 0x05 => some (.cCmac a)
  | 0x06 => some (.cCmsu a)
  | 0x07 => some (.cCmacj a)
  | 0x08 => some (.cAdd a)
  | 0x09 => some (.cSub a)
  | 0x0A => some (.cAdds a)
  | 0x0B => some (.cSubs a)
  | 0x0C => some (.cAnd a)
  | 0x0D => some (.cOr a)
  | 0x0E => some (.cXor a)
  | 0x0F => some (.cAbs a)
  | 0x10 => some (.cSha a)
  | 0x11 => some (.cShl a)
  | 0x12 => some (.cAadd a)
  | 0x13 => some (.cAsub a)
  | 0x14 => some (.cAsh a)
  | 0x15 => some (.cRnd a)
  | 0x16 => some (.cClr a)
  | 0x17 => some (.cCmp a)
  | 0x18 => some (.cTsta a)
  | 0x19 => some (.cMaxi a)
  | 0x1A => some (.cMini a)
  | 0x1B => some (.cMvc a)
  | _ => none

/-- Opcodes 0x20 to 0x29. -/
def decodeM (op : Nat) (w : ProgWord) : Option Instr :=
  let reg := pfield w 52 6
  let addr := pfield w 32 16
  let io := pfield w 32 12
  let ioOk := pfield w 44 4 == 0
  match op with
  | 0x20 => some (.cLdi reg (pfield w 0 32))
  | 0x21 => if pfield w 6 26 == 0 then some (.cMv reg (pfield w 0 6)) else none
  | 0x22 => some (.cLdx reg addr)
  | 0x23 => some (.cStx reg addr)
  | 0x24 => some (.cLdy reg addr)
  | 0x25 => some (.cSty reg addr)
  | 0x26 => if ioOk then some (.cLdio reg io) else none
  | 0x27 => if ioOk then some (.cStio reg io) else none
  | 0x28 => some (.cPush reg)
  | 0x29 => some (.cPop reg)
  | _ => none

/-- Opcodes 0x30 to 0x36; the COND of `call` is 0. -/
def decodeB (op : Nat) (w : ProgWord) : Option Instr :=
  let cond := pfield w 54 4
  let target := pfield w 36 14
  let count := pfield w 16 16
  match op with
  | 0x30 => some (.cBr cond target)
  | 0x31 => if cond == 0 then some (.cCall target) else none
  | 0x32 => some .cRet
  | 0x33 => some .cReti
  | 0x34 => some (.cLoop target count)
  | 0x35 => some (.cRep count)
  | 0x36 => some .cWfr
  | _ => none

/-! ### Accepted codes (R484 to R486, R495) -/

/-- A single d register. -/
def isD (c : BitVec 4) : Bool := c < 8
/-- A single a register. -/
def isA (c : BitVec 4) : Bool := 8 ≤ c && c < 12
/-- The even register of a d pair. -/
def isDp (c : BitVec 4) : Bool := c < 8 && !c.getLsbD 0
/-- The even register of an a pair. -/
def isAp (c : BitVec 4) : Bool := c == 8 || c == 10

/-- A move field without a reserved code. -/
def mvOk (m : Mv) : Bool := m.k != 3 && m.r < 12

/-- A register code of R485. -/
def regOk (r : BitVec 6) : Bool := r < 62

/-- A condition code of R492. -/
def condOk (c : BitVec 4) : Bool := c < 14

/-- The move field that `maxi` and `mini` read. -/
def memField (a : FmtA) : Mv := if a.aux.getLsbD 0 then a.y else a.x

/-- The operand codes a Copper instruction accepts; false for a command that is none. -/
def copperOk (i : Instr) : Bool :=
  let moves (a : FmtA) : Bool := mvOk a.x && mvOk a.y
  let ddd (a : FmtA) : Bool := moves a && isD a.dst && isD a.s1 && isD a.s2
  let add2 (a : FmtA) : Bool := moves a && isA a.dst && isD a.s1 && isD a.s2
  let cplx (a : FmtA) : Bool := moves a && isAp a.dst && isDp a.s1 && isDp a.s2
  let dd (a : FmtA) : Bool := moves a && isD a.dst && isD a.s1
  let scan (a : FmtA) : Bool := moves a && isDp a.dst && (memField a).k == 1 && (memField a).r == a.dst
  match i with
  | .cNop a => moves a
  | .cMpy a => add2 a
  | .cMac a => add2 a
  | .cMsu a => add2 a
  | .cCmpy a => cplx a
  | .cCmac a => cplx a
  | .cCmsu a => cplx a
  | .cCmacj a => cplx a
  | .cAdd a => ddd a
  | .cSub a => ddd a
  | .cAdds a => ddd a
  | .cSubs a => ddd a
  | .cAnd a => ddd a
  | .cOr a => ddd a
  | .cXor a => ddd a
  | .cAbs a => dd a
  | .cSha a => dd a
  | .cShl a => dd a
  | .cAadd a => moves a && isA a.dst && isA a.s1 && isA a.s2
  | .cAsub a => moves a && isA a.dst && isA a.s1 && isA a.s2
  | .cAsh a => moves a && isA a.dst && isA a.s1
  | .cRnd a => moves a && isD a.dst && isA a.s1
  | .cClr a => moves a && isA a.dst
  | .cCmp a => moves a && isD a.s1 && isD a.s2
  | .cTsta a => moves a && isA a.s1
  | .cMaxi a => scan a
  | .cMini a => scan a
  | .cMvc a => dd a && condOk (a.aux.extractLsb' 0 4)
  | .cLdi r _ => regOk r
  | .cMv r q => regOk r && regOk q
  | .cLdx r _ => regOk r
  | .cLdy r _ => regOk r
  | .cStx r _ => regOk r
  | .cSty r _ => regOk r
  | .cLdio r _ => regOk r
  | .cStio r _ => regOk r
  | .cPush r => regOk r
  | .cPop r => regOk r && r != 27
  | .cBr c _ => condOk c
  | .cCall _ => true
  | .cRet => true
  | .cReti => true
  | .cLoop _ _ => true
  | .cRep _ => true
  | .cWfr => true
  | _ => false

/-- The instruction a word spells, its codes not yet judged. -/
def decodeRaw (w : ProgWord) : Option Instr :=
  let op := (pfield w 58 6).toNat
  if op < 0x20 then (if rsvA w then decodeA op (decodeFmtA w) else none)
  else if op < 0x30 then (if rsvM w then decodeM op w else none)
  else if rsvB w then decodeB op w
  else none

/-- The instruction of a program word; none for a reserved encoding (R486). -/
def decodeCopper (w : ProgWord) : Option Instr :=
  match decodeRaw w with
  | some i => if copperOk i then some i else none
  | none => none

/-! ### Encoding; a field that an instruction does not use is 0 -/

def encodeMv (m : Mv) : BitVec 20 := m.k ++ m.p ++ m.m ++ m.r ++ 0#10

def encodeA (op : BitVec 6) (a : FmtA) : ProgWord :=
  op ++ a.dst ++ a.s1 ++ a.s2 ++ a.aux ++ encodeMv a.x ++ encodeMv a.y

def encodeM (op reg : BitVec 6) (addr : BitVec 16) (imm : Word) : ProgWord := op ++ reg ++ 0#4 ++ addr ++ imm

def encodeB (op : BitVec 6) (cond : BitVec 4) (target : BitVec 14) (count : BitVec 16) : ProgWord :=
  op ++ cond ++ 0#4 ++ target ++ 0#4 ++ count ++ 0#16

/-- The word with which R466 fills a bank above PWORDS. -/
def fillWord : ProgWord := 0xFFFFFFFFFFFFFFFF#64

/-- The program word of a Copper instruction; the fill word for a command that is none. -/
def encodeCopper (i : Instr) : ProgWord :=
  match i with
  | .cNop a => encodeA 0x00 a
  | .cMpy a => encodeA 0x01 a
  | .cMac a => encodeA 0x02 a
  | .cMsu a => encodeA 0x03 a
  | .cCmpy a => encodeA 0x04 a
  | .cCmac a => encodeA 0x05 a
  | .cCmsu a => encodeA 0x06 a
  | .cCmacj a => encodeA 0x07 a
  | .cAdd a => encodeA 0x08 a
  | .cSub a => encodeA 0x09 a
  | .cAdds a => encodeA 0x0A a
  | .cSubs a => encodeA 0x0B a
  | .cAnd a => encodeA 0x0C a
  | .cOr a => encodeA 0x0D a
  | .cXor a => encodeA 0x0E a
  | .cAbs a => encodeA 0x0F a
  | .cSha a => encodeA 0x10 a
  | .cShl a => encodeA 0x11 a
  | .cAadd a => encodeA 0x12 a
  | .cAsub a => encodeA 0x13 a
  | .cAsh a => encodeA 0x14 a
  | .cRnd a => encodeA 0x15 a
  | .cClr a => encodeA 0x16 a
  | .cCmp a => encodeA 0x17 a
  | .cTsta a => encodeA 0x18 a
  | .cMaxi a => encodeA 0x19 a
  | .cMini a => encodeA 0x1A a
  | .cMvc a => encodeA 0x1B a
  | .cLdi r imm => encodeM 0x20 r 0 imm
  | .cMv r q => encodeM 0x21 r 0 (0#26 ++ q)
  | .cLdx r ad => encodeM 0x22 r ad 0
  | .cStx r ad => encodeM 0x23 r ad 0
  | .cLdy r ad => encodeM 0x24 r ad 0
  | .cSty r ad => encodeM 0x25 r ad 0
  | .cLdio r ad => encodeM 0x26 r (0#4 ++ ad) 0
  | .cStio r ad => encodeM 0x27 r (0#4 ++ ad) 0
  | .cPush r => encodeM 0x28 r 0 0
  | .cPop r => encodeM 0x29 r 0 0
  | .cBr c t => encodeB 0x30 c t 0
  | .cCall t => encodeB 0x31 0 t 0
  | .cRet => encodeB 0x32 0 0 0
  | .cReti => encodeB 0x33 0 0 0
  | .cLoop t n => encodeB 0x34 0 t n
  | .cRep n => encodeB 0x35 0 0 n
  | .cWfr => encodeB 0x36 0 0 0
  | _ => fillWord

/-! ### The loader's checks (R465, R493) -/

/-- The pointer registers a move field post-modifies, from code `base` on. -/
def mvPointers (base : Nat) (m : Mv) : List Nat := if m.k != 0 && m.m != 0 then [base + m.p.toNat] else []

/-- The register a move field loads. -/
def mvLoads (m : Mv) : List Nat := if m.k = 1 then [m.r.toNat] else []

/-- Register codes that the arithmetic of a format A instruction writes. -/
def arithWrites (i : Instr) : List Nat :=
  match i with
  | .cNop _ => []
  | .cCmp _ => []
  | .cTsta _ => []
  | .cCmpy a => [a.dst.toNat, a.dst.toNat + 1]
  | .cCmac a => [a.dst.toNat, a.dst.toNat + 1]
  | .cCmsu a => [a.dst.toNat, a.dst.toNat + 1]
  | .cCmacj a => [a.dst.toNat, a.dst.toNat + 1]
  | .cMaxi a => [a.dst.toNat, a.dst.toNat + 1]
  | .cMini a => [a.dst.toNat, a.dst.toNat + 1]
  | .cMpy a => [a.dst.toNat]
  | .cMac a => [a.dst.toNat]
  | .cMsu a => [a.dst.toNat]
  | .cAdd a => [a.dst.toNat]
  | .cSub a => [a.dst.toNat]
  | .cAdds a => [a.dst.toNat]
  | .cSubs a => [a.dst.toNat]
  | .cAnd a => [a.dst.toNat]
  | .cOr a => [a.dst.toNat]
  | .cXor a => [a.dst.toNat]
  | .cAbs a => [a.dst.toNat]
  | .cSha a => [a.dst.toNat]
  | .cShl a => [a.dst.toNat]
  | .cAadd a => [a.dst.toNat]
  | .cAsub a => [a.dst.toNat]
  | .cAsh a => [a.dst.toNat]
  | .cRnd a => [a.dst.toNat]
  | .cClr a => [a.dst.toNat]
  | .cMvc a => [a.dst.toNat]
  | _ => []

/-- The fields of a format A instruction. -/
def fmtAOf (w : ProgWord) : Option FmtA := if pfield w 58 6 < 0x20 then some (decodeFmtA w) else none

/-- Register codes an instruction writes, each as often as it writes it; formats M and B write no register twice. -/
def regWrites (i : Instr) : List Nat :=
  match fmtAOf (encodeCopper i) with
  | none => []
  | some a =>
    let scan := match i with
      | .cMaxi _ => true
      | .cMini _ => true
      | _ => false
    let xLoad := if scan && !a.aux.getLsbD 0 then [] else mvLoads a.x
    let yLoad := if scan && a.aux.getLsbD 0 then [] else mvLoads a.y
    arithWrites i ++ xLoad ++ yLoad ++ mvPointers 24 a.x ++ mvPointers 28 a.y

/-- No register is written twice. -/
def writesOnce (i : Instr) : Bool := (regWrites i).eraseDups.length == (regWrites i).length

/-- A branch with delay slots: `br`, `call`, `ret` or `reti` (R464, R493). -/
def isBranch (i : Instr) : Bool :=
  match i with
  | .cBr _ _ => true
  | .cCall _ => true
  | .cRet => true
  | .cReti => true
  | _ => false

def isLoop (i : Instr) : Bool := match i with
  | .cLoop _ _ => true
  | _ => false

def isRep (i : Instr) : Bool := match i with
  | .cRep _ => true
  | _ => false

/-- A `loop` with COUNT 0 or an end below its own address + 2. -/
def loopBad (addr : Nat) (i : Instr) : Bool :=
  match i with
  | .cLoop t n => n == 0 || decide (t.toNat < addr + 2)
  | _ => false

/-- Delay slots hold no branch, loop setup or `rep`: `slots` says how many slots of earlier branches are still open. -/
def slotsOk : Nat → List Instr → Bool
  | _, [] => true
  | slots, i :: rest =>
    let barred := isBranch i || isLoop i || isRep i
    (slots == 0 || !barred) && slotsOk (if isBranch i then 2 else slots - 1) rest

/-- No branch or `rep` stands at an address from le - 2 to le of a loop (R465). -/
def loopEndsOk (is : List Instr) : Bool :=
  is.all fun i => match i with
    | .cLoop t _ => ((is.drop (t.toNat - 2)).take (t.toNat + 1 - (t.toNat - 2))).all fun j => !(isBranch j || isRep j)
    | _ => true

/-- Every word decodes: the instructions of a program. -/
def decodeProgram : List ProgWord → Option (List Instr)
  | [] => some []
  | w :: ws => match decodeCopper w, decodeProgram ws with
    | some i, some is => some (i :: is)
    | _, _ => none

/-- The program passes R465. -/
def programOk (ws : List ProgWord) : Bool :=
  match decodeProgram ws with
  | none => false
  | some is => is.all writesOnce && slotsOk 0 is && loopEndsOk is
      && (List.range is.length).all fun k => !loopBad k (is.getD k .cWfr)

/-- The program words of an object's body. -/
def programWords : Nat → List Byte → List ProgWord
  | 0, _ => []
  | n + 1, l => BitVec.ofNat 64 (u32 l 0 + u32 l 4 * 2 ^ 32) :: programWords n (l.drop 8)

end Sys2Proof.Machine
end

