-- ==== Sys2Proof/Machine/Flags.lean ====
section
/-! DEFINITION. Every flag computation of the Copper, and the arithmetic it comes from (14 R487 to R492, R494). -/
namespace Sys2Proof.Machine

/-! ### The status register (R457, R458) -/

/-- What an instruction does to `sr`: new values of Z, N, C and V where it sets them, and the sticky bits it sets. -/
structure FlagOut where
  z  : Option Bool := none
  n  : Option Bool := none
  c  : Option Bool := none
  v  : Option Bool := none
  gv : Bool := false
  ss : Bool := false
  cp : Bool := false
deriving DecidableEq, Repr

/-- Bit i of `sr` given a value. -/
def srPut (sr : BitVec 16) (i : Nat) (b : Bool) : BitVec 16 :=
  if b then sr ||| (1#16 <<< i) else sr &&& ~~~(1#16 <<< i)

/-- A flag that an instruction may leave unchanged. -/
def srFlag (sr : BitVec 16) (i : Nat) : Option Bool → BitVec 16
  | none => sr
  | some b => srPut sr i b

/-- A sticky bit is set or kept. -/
def srStick (sr : BitVec 16) (i : Nat) (b : Bool) : BitVec 16 := if b then srPut sr i true else sr

def FlagOut.apply (f : FlagOut) (sr : BitVec 16) : BitVec 16 :=
  let sr := srFlag (srFlag (srFlag (srFlag sr 0 f.z) 1 f.n) 2 f.c) 3 f.v
  srStick (srStick (srStick sr 4 f.gv) 5 f.ss) 6 f.cp

/-- A move into `sr`: IH and the RSV bits keep (R485). -/
def srMove (sr : BitVec 16) (w : Word) : BitVec 16 := (sr &&& 0xFC00#16) ||| (w.setWidth 16 &&& 0x03FF#16)

/-! Conditions (R492) -/

/-- A condition code as `sr` stands; a reserved code never holds. -/
def condHolds (sr : BitVec 16) (c : BitVec 4) : Bool :=
  let z := sr.getLsbD 0
  let n := sr.getLsbD 1
  let cy := sr.getLsbD 2
  let v := sr.getLsbD 3
  match c.toNat with
  | 0 => true
  | 1 => z
  | 2 => !z
  | 3 => n
  | 4 => !n
  | 5 => cy
  | 6 => !cy
  | 7 => v
  | 8 => !v
  | 9 => n != v
  | 10 => n == v
  | 11 => z || n != v
  | 12 => !z && n == v
  | 13 => sr.getLsbD 4
  | _ => false

/-! ### d-register operations (R491) -/

/-- A 32-bit result and its flags. -/
abbrev DOut := Word × FlagOut

/-- Z and N of a word. -/
def zn (w : Word) : FlagOut := { z := some (w == 0), n := some (w.getLsbD 31) }

/-- The exact value fits in 32 bits. -/
def fits32 (x : Int) : Bool := decide (-0x80000000 ≤ x) && decide (x ≤ 0x7FFFFFFF)

/-- The nearest 1.31 value. -/
def clamp32 (x : Int) : Word := if x < -0x80000000 then 0x80000000 else if 0x7FFFFFFF < x then 0x7FFFFFFF else w32i x

def addOut (a b : Word) : DOut :=
  let r := a + b
  (r, { zn r with c := some (decide (2 ^ 32 ≤ a.toNat + b.toNat)), v := some (!fits32 (a.toInt + b.toInt)) })

def subOut (a b : Word) : DOut :=
  let r := a - b
  (r, { zn r with c := some (decide (b.toNat ≤ a.toNat)), v := some (!fits32 (a.toInt - b.toInt)) })

/-- Saturating forms: V and SS when they saturate, C of the unsaturated result. -/
def addsOut (a b : Word) : DOut :=
  let x := a.toInt + b.toInt
  let r := clamp32 x
  (r, { zn r with c := some (decide (2 ^ 32 ≤ a.toNat + b.toNat)), v := some (!fits32 x), ss := !fits32 x })

def subsOut (a b : Word) : DOut :=
  let x := a.toInt - b.toInt
  let r := clamp32 x
  (r, { zn r with c := some (decide (b.toNat ≤ a.toNat)), v := some (!fits32 x), ss := !fits32 x })

/-- `and`, `or`, `xor`: C and V cleared. -/
def logicOut (r : Word) : DOut := (r, { zn r with c := some false, v := some false })

def absOut (a : Word) : DOut :=
  let ovf := a == 0x80000000
  let r := if ovf then 0x7FFFFFFF else if a.getLsbD 31 then -a else a
  (r, { zn r with c := some false, v := some ovf, ss := ovf })

/-- The last bit shifted out by k places, positive k to the left; 0 for k = 0. -/
def shiftedOut (a : Word) (k : Int) : Bool :=
  if 0 < k then a.getLsbD (32 - k.toNat) else if k < 0 then a.getLsbD ((-k).toNat - 1) else false

/-- x × 2^k, truncated toward minus infinity for k < 0. -/
def scale (x k : Int) : Int := if 0 ≤ k then x * 2 ^ k.toNat else x / 2 ^ (-k).toNat

def shaOut (a : Word) (k : Int) : DOut :=
  let x := scale a.toInt k
  let r := w32i x
  (r, { zn r with c := some (shiftedOut a k), v := some (!fits32 x) })

def shlOut (a : Word) (k : Int) : DOut :=
  let r := w32i (scale (a.toNat : Int) k)
  (r, { zn r with c := some (shiftedOut a k), v := some false })

/-! ### Accumulators (R487, R488, R489, R494) -/

/-- An accumulator result and its flags. -/
abbrev AOut := Acc × FlagOut

/-- The value lies outside the 1.63 range of the product field: bits [71:63] are not all equal. -/
def outside63 (a : Acc) : Bool := let t := a.extractLsb' 63 9; !(t == 0 || t == 0x1FF)

/-- An exact result reduced modulo 2^72, with GV where it wraps. -/
def accWrap (x : Int) : Acc × Bool :=
  let a : Acc := BitVec.ofInt 72 x
  (a, a.toInt != x)

/-- Z, N and V of an accumulator. -/
def accFlags (a : Acc) : FlagOut := { z := some (a == 0), n := some (a.getLsbD 71), v := some (outside63 a) }

/-- An exact accumulator result. -/
def accOut (x : Int) : AOut :=
  let (a, g) := accWrap x
  (a, { accFlags a with gv := g })

/-- The fractional product (R487). -/
def fracProd (a b : Word) : Int := 2 * (a.toInt * b.toInt)

/-- Two parts of a complex result, each exact, and their flags (R494). -/
def cplxOut (re im : Int) : Acc × Acc × FlagOut :=
  let (r, g1) := accWrap re
  let (i, g2) := accWrap im
  (r, i, { z := some (r == 0 && i == 0), n := some (r.getLsbD 71), v := some (outside63 r || outside63 i), gv := g1 || g2 })

/-- The conversion of R489: the word, and whether the value was out of range. -/
def accWord (sat : Bool) (a : Acc) (k : Nat) : Word × Bool :=
  let s := a.toInt * 2 ^ k
  let q := s / 2 ^ 32
  let r := s % 2 ^ 32
  let q := if r > 0x80000000 ∨ (r = 0x80000000 ∧ q % 2 = 1) then q + 1 else q
  if fits32 q then (w32i q, false) else (if sat then clamp32 q else w32i q, true)

/-- `rnd` (R489). -/
def rndOut (sat : Bool) (a : Acc) (k : Nat) : DOut :=
  let (w, ovf) := accWord sat a k
  (w, { zn w with v := some ovf, ss := ovf && sat })

end Sys2Proof.Machine
end

