-- ==== Sys2Proof/Machine/Operands.lean ====
section
/-! DEFINITION. Every operand form of the Copper: register codes, accumulators, memories, the I/O space, address generation and
parallel moves (13 R459 to R463, R473, 14 R483, R485, R489, R490, R496, R498). -/
namespace Sys2Proof.Machine

/-! ### Registers by code (R485) -/

def Copper.dReg (c : Copper) (k : Nat) : Word := nthW c.d k

/-- Accumulator k as a multiply-accumulate sees it. -/
def Copper.acc (c : Copper) (k : Nat) : Acc := c.a.getD k 0

/-- Accumulator k as a store, move or shift sees it: without the effect of the instruction just before (R462). -/
def Copper.accOld (c : Copper) (k : Nat) : Acc := c.aOld.getD k 0

def h16 (l : List (BitVec 16)) (k : Nat) : BitVec 16 := l.getD k 0

/-- SAT as the rules of R462 leave it. -/
def Copper.sat (c : Copper) : Bool := c.sr.getLsbD 8

/-- What a register code reads as, and whether the read sets SS. -/
def Copper.readCode (c : Copper) (r : Nat) : Word × Bool :=
  let plain (w : Word) : Word × Bool := (w, false)
  if r < 8 then plain (c.dReg r)
  else if r < 12 then
    let (w, ovf) := accWord c.sat (c.accOld (r - 8)) 0
    (w, ovf && c.sat)
  else if r < 16 then plain (((c.accOld (r - 12)).extractLsb' 64 8).signExtend 32)
  else if r < 20 then plain ((c.accOld (r - 16)).extractLsb' 32 32)
  else if r < 24 then plain ((c.accOld (r - 20)).extractLsb' 0 32)
  else if r < 32 then plain ((h16 c.ptr (r - 24)).setWidth 32)
  else if r < 40 then plain ((h16 c.md (r - 32)).signExtend 32)
  else if r < 48 then plain ((h16 c.base (r - 40)).setWidth 32)
  else if r < 56 then plain ((h16 c.len (r - 48)).setWidth 32)
  else match r with
    | 56 => plain (c.lc.setWidth 32)
    | 57 => plain (c.ls.setWidth 32)
    | 58 => plain (c.le.setWidth 32)
    | 59 => plain (c.sr.setWidth 32)
    | 60 => plain (c.isr.setWidth 32)
    | 61 => plain (c.ipc.setWidth 32)
    | _ => plain 0

/-- A 1.31 word loaded into an accumulator (R490). -/
def loadAcc (w : Word) : Acc := w.signExtend 40 ++ 0#32

/-- An accumulator after a write of one of its codes. -/
def putAccPart (a : Acc) (r : Nat) (w : Word) : Acc :=
  if r < 12 then loadAcc w
  else if r < 16 then w.extractLsb' 0 8 ++ a.extractLsb' 0 64
  else if r < 20 then a.extractLsb' 64 8 ++ w ++ a.extractLsb' 0 32
  else a.extractLsb' 32 40 ++ w

/-- The accumulator that a code writes. -/
def accOfCode (r : Nat) : Option Nat := if 8 ≤ r ∧ r < 24 then some (r % 4) else none

/-- A register written by its code; `sr` keeps IH and its RSV bits, `isr` its RSV bits. -/
def Copper.writeCode (c : Copper) (r : Nat) (w : Word) : Copper :=
  let h : BitVec 16 := w.setWidth 16
  if r < 8 then { c with d := c.d.set r w }
  else if r < 24 then { c with a := c.a.set (r % 4) (putAccPart (c.acc (r % 4)) r w) }
  else if r < 32 then { c with ptr := c.ptr.set (r - 24) h }
  else if r < 40 then { c with md := c.md.set (r - 32) h }
  else if r < 48 then { c with base := c.base.set (r - 40) h }
  else if r < 56 then { c with len := c.len.set (r - 48) h }
  else match r with
    | 56 => { c with lc := h }
    | 57 => { c with ls := w.setWidth 14 }
    | 58 => { c with le := w.setWidth 14 }
    | 59 => { c with sr := srMove c.sr w }
    | 60 => { c with isr := h &&& 0x07FF#16 }
    | 61 => { c with ipc := w.setWidth 14 }
    | _ => c

/-! ### Memories and the I/O space (R454, R473) -/

def Copper.xAt (c : Copper) (a : Nat) : Word := sget (fun _ => 0) c.x a
def Copper.yAt (c : Copper) (a : Nat) : Word := sget (fun _ => 0) c.y a
def Copper.xPut (c : Copper) (a : Nat) (w : Word) : Copper := { c with x := sput (fun _ => 0) c.x a w }
def Copper.yPut (c : Copper) (a : Nat) (w : Word) : Copper := { c with y := sput (fun _ => 0) c.y a w }

/-- A read of the I/O space; RSV addresses read 0. -/
def Copper.ioRead (c : Copper) (a : Nat) : Word :=
  if 0x40 ≤ a ∧ a < 0x80 then nthW c.slots (a - 0x40)
  else if a = 0x80 ∨ a = 0x81 then nthW c.fast (a - 0x80)
  else if a = 0xA5 then c.irqPend.setWidth 32
  else if a = 0xA6 then c.irqEn.setWidth 32
  else if 0x100 ≤ a ∧ a < 0x140 then nthW c.xch (a - 0x100)
  else sget (fun _ => 0) c.inputs a

/-- A write of the I/O space lands; RO and RSV addresses ignore it. -/
def Copper.ioWrite (c : Copper) (a : Nat) (w : Word) : Copper :=
  if 0x40 ≤ a ∧ a < 0x80 then { c with slots := c.slots.set (a - 0x40) w }
  else if a = 0x80 ∨ a = 0x81 then { c with fast := c.fast.set (a - 0x80) w }
  else if a = 0xA5 then { c with irqPend := c.irqPend &&& ~~~(w.setWidth 4) }
  else if a = 0xA6 then { c with irqEn := w.setWidth 4 }
  else if 0x100 ≤ a ∧ a < 0x140 then { c with xch := c.xch.set (a - 0x100) w }
  else c

/-- A write in flight lands. -/
def Copper.land (c : Copper) (f : Flight) : Copper :=
  match f.target with
  | .reg r => c.writeCode r f.value
  | .x a => c.xPut a f.value
  | .y a => c.yPut a f.value
  | .io a => c.ioWrite a f.value

/-- Every write in flight lands, in the order of issue. -/
def Copper.landAll (c : Copper) : Copper := { c.flights.foldl Copper.land c with flights := [] }

/-! ### Address generation (R459, R460) -/

/-- The pointer after a post-modify by m, and whether it folded. -/
def postModify (p b l : BitVec 16) (m : Int) : BitVec 16 × Bool :=
  if l = 0 then (p + BitVec.ofInt 16 m, false)
  else
    let d := (p - b).toNat
    if l.toNat ≤ d then (b, true)
    else (b + BitVec.ofInt 16 (((d : Int) + m) % (l.toNat : Int)), false)

/-- Pointer k (0 to 3 the ax, 4 to 7 the ay) post-modified by m. -/
def Copper.stepPtr (c : Copper) (k : Nat) (m : Int) : BitVec 16 × Bool :=
  postModify (h16 c.ptr k) (h16 c.base k) (h16 c.len k) m

/-- The amount of a post-modify code, none for code 0. -/
def Copper.modAmount (c : Copper) (k : Nat) (m : BitVec 2) : Option Int :=
  match m.toNat with
  | 0 => none
  | 1 => some 1
  | 2 => some (-1)
  | _ => some (h16 c.md k).toInt

/-! ### What one instruction does, before it is carried out -/

/-- Where an instruction leads besides the next address. -/
inductive Flow where
  | next
  /-- a taken branch: the target after two delay slots (R464) -/
  | branch (target : BitVec 14)
  /-- `rep n` (R467) -/
  | repeatNext (n : Nat)
  /-- `wfr` (R450) -/
  | waitFrame
deriving DecidableEq, Repr

/-- The effects of one instruction: register codes written at its end, whole accumulators, pointers, writes that land one
instruction later, flags, `sr` restored, the loop registers. -/
structure Effect where
  codes   : List (Nat × Word) := []
  accs    : List (Nat × Acc) := []
  ptrs    : List (Nat × BitVec 16) := []
  flights : List Flight := []
  flags   : FlagOut := {}
  restore : Option (BitVec 16) := none
  loop    : Option (BitVec 16 × BitVec 14 × BitVec 14) := none
  flow    : Flow := .next
deriving DecidableEq, Repr

/-- Two effects of one instruction: sticky bits of either, flags of the first. -/
def Effect.also (e f : Effect) : Effect :=
  { e with
    codes := e.codes ++ f.codes
    accs := e.accs ++ f.accs
    ptrs := e.ptrs ++ f.ptrs
    flights := e.flights ++ f.flights
    flags := { e.flags with gv := e.flags.gv || f.flags.gv, ss := e.flags.ss || f.flags.ss, cp := e.flags.cp || f.flags.cp } }

/-- Pointer k updated by an amount. -/
def Copper.ptrEffect (c : Copper) (k : Nat) (m : Option Int) : Effect :=
  match m with
  | none => {}
  | some m =>
    let (p, fold) := c.stepPtr k m
    { ptrs := [(k, p)], flags := { cp := fold } }

/-- One parallel move: `yMem` says whether it is the YMV field. -/
def Copper.moveEffect (c : Copper) (yMem : Bool) (m : Mv) : Effect :=
  let k := m.p.toNat + if yMem then 4 else 0
  let a := (h16 c.ptr k).toNat
  let upd := c.ptrEffect k (c.modAmount k m.m)
  match m.k.toNat with
  | 1 =>
    let w := if yMem then c.yAt a else c.xAt a
    Effect.also { flights := [⟨.reg m.r.toNat, w⟩] } upd
  | 2 =>
    let (w, ss) := c.readCode m.r.toNat
    Effect.also { flights := [⟨if yMem then .y a else .x a, w⟩], flags := { ss := ss } } upd
  | _ => {}

/-- Both parallel moves of a format A word. -/
def Copper.movesEffect (c : Copper) (a : FmtA) : Effect := (c.moveEffect false a.x).also (c.moveEffect true a.y)

/-- A shift count of AUX, from -32 to 31. -/
def auxShift (a : FmtA) : Int := a.aux.toInt

/-- A d operand. -/
def Copper.opD (c : Copper) (k : BitVec 4) : Word := c.dReg k.toNat

/-- An a operand as a multiply-accumulate reads it. -/
def Copper.opA (c : Copper) (k : BitVec 4) : Acc := c.acc (k.toNat - 8)

/-- An a operand as a store, move or shift reads it. -/
def Copper.opAOld (c : Copper) (k : BitVec 4) : Acc := c.accOld (k.toNat - 8)

end Sys2Proof.Machine
end

