-- ==== Sys2Proof/Machine/CopperOps.lean ====
section
/-! DEFINITION. One instruction of the Copper on its way through the exposed pipeline (13 R450, R462 to R472, 14 R496, R497). -/
namespace Sys2Proof.Machine

/-! ### Fetch -/

/-- The word at the program counter; a bank reads as the fill where nothing was loaded (R466). -/
def Copper.fetch (c : Copper) : ProgWord := sget (fun _ => fillWord) (c.prog.getD c.active []) c.pc.toNat

/-- The core runs instructions: a program, no wait, no trap, and cycles left in the frame. -/
def Copper.runs (c : Copper) : Bool := c.on && c.hasProg && !c.wait && !c.trapped && decide (c.cycles < 4608)

/-- The instruction at the program counter; none at or beyond PWORDS and at a reserved encoding (R466). -/
def Copper.current (c : Copper) : Option Instr :=
  if c.pc.toNat < nth c.pwords c.active then decodeCopper c.fetch else none

/-! ### The end of an instruction -/

/-- Whole accumulators and register codes written at the end of an instruction, over what landed. -/
def Copper.store (c : Copper) (e : Effect) : Copper :=
  let c := e.codes.foldl (fun (c : Copper) x => c.writeCode x.1 x.2) c
  { c with
    a := e.accs.foldl (fun (l : List Acc) x => l.set x.1 x.2) c.a
    ptr := e.ptrs.foldl (fun (l : List (BitVec 16)) x => l.set x.1 x.2) c.ptr }

/-- The accumulator as the next instruction's stores, moves and shifts see it: a load that this instruction overwrote is
lost (R463). -/
def oldAccs (before landed : List Acc) (e : Effect) : List Acc :=
  (List.range 4).map fun k =>
    if e.accs.any (fun x => x.1 == k) || e.codes.any (fun x => decide (8 ≤ x.1) && decide (x.1 < 12) && x.1 - 8 == k) then
      before.getD k 0
    else landed.getD k 0

/-- `sr` at the end of an instruction: a move that lands gives way to its flags and its sticky bits (R497); `reti` restores. -/
def endSr (landed : BitVec 16) (e : Effect) : BitVec 16 :=
  match e.restore with
  | some r => r
  | none => e.flags.apply landed

/-- Values and memories at the end of an instruction. What lands comes first, what the instruction itself writes prevails
(R463). -/
def Copper.settle (c : Copper) (e : Effect) : Copper :=
  let l := c.landAll
  let t := l.store e
  { t with aOld := oldAccs c.a l.a e, sr := endSr l.sr e, flights := e.flights }

/-- The loop registers after the instruction at the present address, and whether it loops back (R468). The loop control sees
the values from before the instruction (R462). -/
def Copper.loopStep (c : Copper) : Option (BitVec 16) × Bool :=
  if c.lc != 0 && c.pc == c.le then (some (c.lc - 1), c.lc != 1) else (none, false)

/-- The next address, the branch in progress and the repeat, once an instruction has been carried out (R464, R467, R468). -/
def Copper.advance (c : Copper) (before : Copper) (e : Effect) : Copper :=
  match before.rep with
  | some (n + 2) => { c with rep := some (n + 1) }
  | _ =>
    let (lc, back) := before.loopStep
    let c := match lc with
      | some n => { c with lc := n }
      | none => c
    let c := match e.loop with
      | some (n, ls, le) => { c with lc := n, ls := ls, le := le }
      | none => c
    let seq : BitVec 14 := if back then before.ls else before.pc + 1
    let c := { c with rep := none, afterLoop := e.loop.isSome }
    match e.flow with
    | .repeatNext 0 => { c with pc := seq + 1 }
    | .repeatNext n => { c with pc := seq, rep := some n }
    | .branch t => { c with pc := seq, branch := some (t, 2) }
    | _ =>
      match before.branch with
      | some (t, n + 2) => { c with pc := seq, branch := some (t, n + 1) }
      | some (t, _) => { c with pc := t, branch := none }
      | none => { c with pc := seq }

/-- An instruction ends with its effect. -/
def Copper.finish (c : Copper) (e : Effect) : Copper := (c.settle e).advance c e

/-- One instruction: a `wfr` whose boundary has passed returns at once, else the core stalls in it (R452). -/
def Copper.carryOut (c : Copper) (e : Effect) : Copper :=
  match e.flow with
  | .waitFrame =>
    if c.missed = 0 then { c.settle {} with wait := true }
    else { (c.finish e) with missed := c.missed - 1, cycles := c.cycles + 1 }
  | _ => { (c.finish e) with cycles := c.cycles + 1 }

/-- The row of an instruction: it runs where the program counter stands on it. -/
def State.copperRow (s : State) (i : Instr) (eff : Copper → Effect) : Host.Outcome State Fault Refusal :=
  s.done (if s.isReady && !s.kiln.halted && s.cop.runs && s.cop.current == some i then
    { s with cop := s.cop.carryOut (eff s.cop) } else s)

/-! ### Registers at their reset values (R457, R466, R479) -/

/-- Every register of R457 at its reset value, nothing in flight, at word 0. -/
def Copper.restart (c : Copper) : Copper :=
  let r := Copper.reset true
  { c with
    d := r.d, a := r.a, aOld := r.aOld, ptr := r.ptr, md := r.md, base := r.base, len := r.len
    lc := 0, ls := 0, le := 0, pc := 0, ipc := 0, sr := r.sr, isr := 0
    flights := [], branch := none, rep := none, afterLoop := false, wait := false, trapped := false, missed := 0 }

/-! ### Interrupts and traps (R466, R470, R471) -/

/-- The lowest pending source that is enabled. -/
def Copper.source (c : Copper) : Option Nat := (List.range 4).find? fun k => c.irqPend.getLsbD k && c.irqEn.getLsbD k

/-- An interrupt may be accepted here. -/
def Copper.accepts (c : Copper) : Bool :=
  c.on && c.hasProg && !c.trapped && c.rep.isNone && c.branch.isNone && !c.afterLoop && c.sr.getLsbD 9 && !c.sr.getLsbD 10

/-- Entry to the handler of source k: three cycles, in which every write in flight lands. -/
def Copper.enter (c : Copper) (k : Nat) : Copper :=
  let l := c.landAll
  { l with
    aOld := l.a
    ipc := c.pc
    isr := l.sr
    sr := srPut (srPut l.sr 9 false) 10 true
    pc := BitVec.ofNat 14 (4 + 4 * k)
    wait := false
    cycles := c.cycles + 3 }

/-- The trap: it counts, and the core waits for the next boundary. Stores in flight land. -/
def Copper.trap (c : Copper) : Copper := { c.landAll with trapped := true, traps := satAdd 8 c.traps 1 }

end Sys2Proof.Machine
end

