-- ==== Sys2Proof/Machine/CopperArith.lean ====
section
/-! DEFINITION. The Copper's format A instructions (14 R487 to R495). -/
namespace Sys2Proof.Machine

/-! ### Results with the parallel moves -/

/-- A d result. -/
def Copper.dResult (c : Copper) (a : FmtA) (r : DOut) : Effect :=
  Effect.also { codes := [(a.dst.toNat, r.1)], flags := r.2 } (c.movesEffect a)

/-- An accumulator result. -/
def Copper.aResult (c : Copper) (a : FmtA) (r : AOut) : Effect :=
  Effect.also { accs := [(a.dst.toNat - 8, r.1)], flags := r.2 } (c.movesEffect a)

/-- `mpy` sets no sticky bit: its product always fits. -/
def Copper.product (c : Copper) (a : FmtA) : Int := fracProd (c.opD a.s1) (c.opD a.s2)

/-- The second part of a complex operand. -/
def Copper.opD1 (c : Copper) (k : BitVec 4) : Word := c.dReg (k.toNat + 1)

/-- The complex product, its second operand conjugated or not. -/
def Copper.cplxProd (c : Copper) (a : FmtA) (conj : Bool) : Int × Int :=
  let xr := c.opD a.s1
  let xi := c.opD1 a.s1
  let yr := c.opD a.s2
  let yi := c.opD1 a.s2
  if conj then (fracProd xr yr + fracProd xi yi, fracProd xi yr - fracProd xr yi)
  else (fracProd xr yr - fracProd xi yi, fracProd xr yi + fracProd xi yr)

/-- A complex result in an accumulator pair: `keep` times the pair plus `sign` times the product. -/
def Copper.cplxResult (c : Copper) (a : FmtA) (conj : Bool) (keep sign : Int) : Effect :=
  let (pr, pi) := c.cplxProd a conj
  let k := a.dst.toNat - 8
  let (re, im, f) := cplxOut (keep * (c.acc k).toInt + sign * pr) (keep * (c.acc (k + 1)).toInt + sign * pi)
  Effect.also { accs := [(k, re), (k + 1, im)], flags := f } (c.movesEffect a)

/-- `maxi` and `mini`: the operand comes straight from memory, the other field may move. -/
def Copper.scanEffect (c : Copper) (a : FmtA) (better : Word → Word → Bool) : Effect :=
  let y := a.aux.getLsbD 0
  let m := memField a
  let k := m.p.toNat + if y then 4 else 0
  let addr := h16 c.ptr k
  let v := if y then c.yAt addr.toNat else c.xAt addr.toNat
  let upd := c.ptrEffect k (c.modAmount k m.m)
  let other := if y then c.moveEffect false a.x else c.moveEffect true a.y
  let found : Effect := if better v (c.opD a.dst) then
    { codes := [(a.dst.toNat, v), (a.dst.toNat + 1, addr.setWidth 32)] } else {}
  (found.also upd).also other

/-! ### The rows -/

/-- `nop`: does nothing but its moves (R493). -/
def execCNop (a : FmtA) (s : State) : Host.Outcome State Fault Refusal :=
  s.copperRow (.cNop a) fun c => c.movesEffect a

/-- `mpy`: the exact fractional product (R487). -/
def execCMpy (a : FmtA) (s : State) : Host.Outcome State Fault Refusal :=
  s.copperRow (.cMpy a) fun c => c.aResult a (accOut (c.product a))

/-- `mac`: adds the product (R488). -/
def execCMac (a : FmtA) (s : State) : Host.Outcome State Fault Refusal :=
  s.copperRow (.cMac a) fun c => c.aResult a (accOut ((c.opA a.dst).toInt + c.product a))

/-- `msu`: subtracts the product (R488). -/
def execCMsu (a : FmtA) (s : State) : Host.Outcome State Fault Refusal :=
  s.copperRow (.cMsu a) fun c => c.aResult a (accOut ((c.opA a.dst).toInt - c.product a))

/-- `cmpy`: sets a complex product (R494). -/
def execCCmpy (a : FmtA) (s : State) : Host.Outcome State Fault Refusal :=
  s.copperRow (.cCmpy a) fun c => c.cplxResult a false 0 1

/-- `cmac`: adds a complex product (R494). -/
def execCCmac (a : FmtA) (s : State) : Host.Outcome State Fault Refusal :=
  s.copperRow (.cCmac a) fun c => c.cplxResult a false 1 1

/-- `cmsu`: subtracts a complex product (R494). -/
def execCCmsu (a : FmtA) (s : State) : Host.Outcome State Fault Refusal :=
  s.copperRow (.cCmsu a) fun c => c.cplxResult a false 1 (-1)

/-- `cmacj`: adds the product with the conjugate (R494). -/
def execCCmacj (a : FmtA) (s : State) : Host.Outcome State Fault Refusal :=
  s.copperRow (.cCmacj a) fun c => c.cplxResult a true 1 1

/-- `add`: wrapping add (R491). -/
def execCAdd (a : FmtA) (s : State) : Host.Outcome State Fault Refusal :=
  s.copperRow (.cAdd a) fun c => c.dResult a (addOut (c.opD a.s1) (c.opD a.s2))

/-- `sub`: wrapping subtract (R491). -/
def execCSub (a : FmtA) (s : State) : Host.Outcome State Fault Refusal :=
  s.copperRow (.cSub a) fun c => c.dResult a (subOut (c.opD a.s1) (c.opD a.s2))

/-- `adds`: saturating add (R491). -/
def execCAdds (a : FmtA) (s : State) : Host.Outcome State Fault Refusal :=
  s.copperRow (.cAdds a) fun c => c.dResult a (addsOut (c.opD a.s1) (c.opD a.s2))

/-- `subs`: saturating subtract (R491). -/
def execCSubs (a : FmtA) (s : State) : Host.Outcome State Fault Refusal :=
  s.copperRow (.cSubs a) fun c => c.dResult a (subsOut (c.opD a.s1) (c.opD a.s2))

/-- `and`: bitwise AND (R493). -/
def execCAnd (a : FmtA) (s : State) : Host.Outcome State Fault Refusal :=
  s.copperRow (.cAnd a) fun c => c.dResult a (logicOut (c.opD a.s1 &&& c.opD a.s2))

/-- `or`: bitwise OR (R493). -/
def execCOr (a : FmtA) (s : State) : Host.Outcome State Fault Refusal :=
  s.copperRow (.cOr a) fun c => c.dResult a (logicOut (c.opD a.s1 ||| c.opD a.s2))

/-- `xor`: bitwise XOR (R493). -/
def execCXor (a : FmtA) (s : State) : Host.Outcome State Fault Refusal :=
  s.copperRow (.cXor a) fun c => c.dResult a (logicOut (c.opD a.s1 ^^^ c.opD a.s2))

/-- `abs`: absolute value (R491). -/
def execCAbs (a : FmtA) (s : State) : Host.Outcome State Fault Refusal :=
  s.copperRow (.cAbs a) fun c => c.dResult a (absOut (c.opD a.s1))

/-- `sha`: arithmetic shift (R491). -/
def execCSha (a : FmtA) (s : State) : Host.Outcome State Fault Refusal :=
  s.copperRow (.cSha a) fun c => c.dResult a (shaOut (c.opD a.s1) (auxShift a))

/-- `shl`: logical shift (R491). -/
def execCShl (a : FmtA) (s : State) : Host.Outcome State Fault Refusal :=
  s.copperRow (.cShl a) fun c => c.dResult a (shlOut (c.opD a.s1) (auxShift a))

/-- `aadd`: adds two accumulators (R493). -/
def execCAadd (a : FmtA) (s : State) : Host.Outcome State Fault Refusal :=
  s.copperRow (.cAadd a) fun c => c.aResult a (accOut ((c.opA a.s1).toInt + (c.opA a.s2).toInt))

/-- `asub`: subtracts two accumulators (R493). -/
def execCAsub (a : FmtA) (s : State) : Host.Outcome State Fault Refusal :=
  s.copperRow (.cAsub a) fun c => c.aResult a (accOut ((c.opA a.s1).toInt - (c.opA a.s2).toInt))

/-- `ash`: shifts an accumulator (R493). -/
def execCAsh (a : FmtA) (s : State) : Host.Outcome State Fault Refusal :=
  s.copperRow (.cAsh a) fun c => c.aResult a (accOut (scale (c.opAOld a.s1).toInt (auxShift a)))

/-- `rnd`: rounds an accumulator to 32 bits (R489). -/
def execCRnd (a : FmtA) (s : State) : Host.Outcome State Fault Refusal :=
  s.copperRow (.cRnd a) fun c => c.dResult a (rndOut c.sat (c.opAOld a.s1) (a.aux.toNat % 8))

/-- `clr`: clears an accumulator (R493). -/
def execCClr (a : FmtA) (s : State) : Host.Outcome State Fault Refusal :=
  s.copperRow (.cClr a) fun c => c.aResult a (0, { z := some true, n := some false, v := some false })

/-- `cmp`: flags of a subtraction (R493). -/
def execCCmp (a : FmtA) (s : State) : Host.Outcome State Fault Refusal :=
  s.copperRow (.cCmp a) fun c => Effect.also { flags := (subOut (c.opD a.s1) (c.opD a.s2)).2 } (c.movesEffect a)

/-- `tsta`: flags of an accumulator (R493). -/
def execCTsta (a : FmtA) (s : State) : Host.Outcome State Fault Refusal :=
  s.copperRow (.cTsta a) fun c => Effect.also { flags := accFlags (c.opA a.s1) } (c.movesEffect a)

/-- `maxi`: keeps the largest memory value and its address (R495). -/
def execCMaxi (a : FmtA) (s : State) : Host.Outcome State Fault Refusal :=
  s.copperRow (.cMaxi a) fun c => c.scanEffect a (fun v d => decide (d.toInt < v.toInt))

/-- `mini`: keeps the smallest memory value and its address (R495). -/
def execCMini (a : FmtA) (s : State) : Host.Outcome State Fault Refusal :=
  s.copperRow (.cMini a) fun c => c.scanEffect a (fun v d => decide (v.toInt < d.toInt))

/-- `mvc`: conditional move (R493). -/
def execCMvc (a : FmtA) (s : State) : Host.Outcome State Fault Refusal :=
  s.copperRow (.cMvc a) fun c => Effect.also (if condHolds c.sr (a.aux.extractLsb' 0 4) then { codes := [(a.dst.toNat, c.opD a.s1)] } else {}) (c.movesEffect a)

end Sys2Proof.Machine
end

