-- ==== Sys2Proof/Machine/CopperMove.lean ====
section
/-! DEFINITION. The Copper's format M instructions (14 R485, R493, R496). -/
namespace Sys2Proof.Machine

/-- A word moved into a register by code: at once into d and a registers, one instruction later into the others (R496). -/
def moveInto (r : BitVec 6) (w : Word) : Effect :=
  if r < 24 then { codes := [(r.toNat, w)] } else { flights := [⟨.reg r.toNat, w⟩] }

/-- A word loaded into a register by code lands one instruction later (R496). -/
def loadInto (r : BitVec 6) (w : Word) : Effect := { flights := [⟨.reg r.toNat, w⟩] }

/-- A register stored. -/
def Copper.storeReg (c : Copper) (t : CopTarget) (r : BitVec 6) : Effect :=
  let (w, ss) := c.readCode r.toNat
  { flights := [⟨t, w⟩], flags := { ss := ss } }

/-- The stack pointer ax3 moved by one word (R493). -/
def Copper.stackStep (c : Copper) (m : Int) : Effect := c.ptrEffect 3 (some m)

/-- The top of the stack: where ax3 points after its +1. -/
def Copper.stackTop (c : Copper) : Word := c.xAt (c.stepPtr 3 1).1.toNat

/-- `ldi`: an immediate. -/
def execCLdi (reg : BitVec 6) (imm : Word) (s : State) : Host.Outcome State Fault Refusal :=
  s.copperRow (.cLdi reg imm) fun _ => moveInto reg imm

/-- `mv`: register to register, an accumulator rounded (R489). -/
def execCMv (reg src : BitVec 6) (s : State) : Host.Outcome State Fault Refusal :=
  s.copperRow (.cMv reg src) fun c =>
    let (w, ss) := c.readCode src.toNat
    Effect.also (moveInto reg w) { flags := { ss := ss } }

/-- `ldx`: from X at an absolute address. -/
def execCLdx (reg : BitVec 6) (addr : BitVec 16) (s : State) : Host.Outcome State Fault Refusal :=
  s.copperRow (.cLdx reg addr) fun c => loadInto reg (c.xAt addr.toNat)

/-- `ldy`: from Y. -/
def execCLdy (reg : BitVec 6) (addr : BitVec 16) (s : State) : Host.Outcome State Fault Refusal :=
  s.copperRow (.cLdy reg addr) fun c => loadInto reg (c.yAt addr.toNat)

/-- `stx`: to X. -/
def execCStx (reg : BitVec 6) (addr : BitVec 16) (s : State) : Host.Outcome State Fault Refusal :=
  s.copperRow (.cStx reg addr) fun c => c.storeReg (.x addr.toNat) reg

/-- `sty`: to Y. -/
def execCSty (reg : BitVec 6) (addr : BitVec 16) (s : State) : Host.Outcome State Fault Refusal :=
  s.copperRow (.cSty reg addr) fun c => c.storeReg (.y addr.toNat) reg

/-- `ldio`: from the I/O space. -/
def execCLdio (reg : BitVec 6) (addr : BitVec 12) (s : State) : Host.Outcome State Fault Refusal :=
  s.copperRow (.cLdio reg addr) fun c => loadInto reg (c.ioRead addr.toNat)

/-- `stio`: to the I/O space. -/
def execCStio (reg : BitVec 6) (addr : BitVec 12) (s : State) : Host.Outcome State Fault Refusal :=
  s.copperRow (.cStio reg addr) fun c => c.storeReg (.io addr.toNat) reg

/-- `push`: X[ax3] = REG, then ax3 by -1. -/
def execCPush (reg : BitVec 6) (s : State) : Host.Outcome State Fault Refusal :=
  s.copperRow (.cPush reg) fun c => (c.storeReg (.x (h16 c.ptr 3).toNat) reg).also (c.stackStep (-1))

/-- `pop`: ax3 by +1, then REG = X[ax3]. -/
def execCPop (reg : BitVec 6) (s : State) : Host.Outcome State Fault Refusal :=
  s.copperRow (.cPop reg) fun c => (loadInto reg c.stackTop).also (c.stackStep 1)

end Sys2Proof.Machine
end

