-- ==== Sys2Proof/Machine/CopperControl.lean ====
section
/-! DEFINITION. The Copper's format B instructions (13 R450, R464, R467, R468, R471, 14 R493). -/
namespace Sys2Proof.Machine

/-- `br`: a taken branch leads to its target after two delay slots. -/
def execCBr (cond : BitVec 4) (target : BitVec 14) (s : State) : Host.Outcome State Fault Refusal :=
  s.copperRow (.cBr cond target) fun c => { flow := if condHolds c.sr cond then .branch target else .next }

/-- `call`: own address + 3 goes to the X stack, then a branch. -/
def execCCall (target : BitVec 14) (s : State) : Host.Outcome State Fault Refusal :=
  s.copperRow (.cCall target) fun c =>
    Effect.also { flights := [⟨.x (h16 c.ptr 3).toNat, (c.pc + 3).setWidth 32⟩], flow := .branch target } (c.stackStep (-1))

/-- `ret`: ax3 by +1, then a branch to the popped address. -/
def execCRet (s : State) : Host.Outcome State Fault Refusal :=
  s.copperRow .cRet fun c => Effect.also { flow := .branch (c.stackTop.setWidth 14) } (c.stackStep 1)

/-- `reti`: `sr` from `isr`, IH clear, then on at `ipc` (R471). -/
def execCReti (s : State) : Host.Outcome State Fault Refusal :=
  s.copperRow .cReti fun c => { restore := some (srPut c.isr 10 false), flow := .branch c.ipc }

/-- `loop`: ls is its own address + 2 (R468). -/
def execCLoop (target : BitVec 14) (count : BitVec 16) (s : State) : Host.Outcome State Fault Refusal :=
  s.copperRow (.cLoop target count) fun c => { loop := some (count, c.pc + 2, target) }

/-- `rep n` (R467). -/
def execCRep (count : BitVec 16) (s : State) : Host.Outcome State Fault Refusal :=
  s.copperRow (.cRep count) fun _ => { flow := .repeatNext count.toNat }

/-- `wfr`: the core stalls until the next sample-frame boundary (R450, R452). -/
def execCWfr (s : State) : Host.Outcome State Fault Refusal :=
  s.copperRow .cWfr fun _ => { flow := .waitFrame }

end Sys2Proof.Machine
end

