-- ==== Sys2Proof/Machine/Maltster.lean ====
section
/-! DEFINITION. The Maltster: contexts, steals, note-ons and stream admission (R189 to R223, R268 to R271). -/
namespace Sys2Proof.Machine

/-! ### Counts (R206) -/

def State.hopCount (s : State) (r : Nat) (f : RegionCounts → RegionCounts) : State :=
  { s with hop.counts := modAt s.hop.counts r f }

def sat32 (n : Nat) : Nat := min (n + 1) 0xFFFFFFFF

/-! ### Regions and contexts (R207 to R209) -/

/-- A region in service, not quarantined. -/
def State.regionUp (s : State) (r : Nat) : Bool :=
  match s.mash.regions[r]? with
  | some g => decide (r < s.part.variant.regionCount) && g.inService && !g.quarantined
  | none => false

def State.regionsUp (s : State) : List Nat := (List.range 2).filter s.regionUp

/-- A context position is held by a voice, or is retired. -/
def State.occupied (s : State) (v : Nat) : Bool :=
  (sfind s.mash.voices v).isSome || s.mash.retired.contains v

/-- The reserve contexts of a logical cluster (R209). -/
def State.reserveList (s : State) (r cl : Nat) : List Nat := s.mash.reserve.getD (2 * r + cl) []

def State.reserveOf (s : State) (r cl : Nat) : Nat := (s.reserveList r cl).length

/-- A context of the free list: neither held nor retired nor in reserve. -/
def State.onFreeList (s : State) (v : Nat) : Bool := !s.occupied v && !(s.reserveList (vRegion v) (vCluster v)).contains v

/-- A list of numbers lies within one VPE: region, cluster, VPE. -/
def inVpe (r cl p v : Nat) : Bool := v / 256 == r * 4 + cl * 2 + p

/-- Free-list contexts of a VPE. -/
def State.vpeFree (s : State) (r cl p : Nat) : Nat :=
  let held := (s.mash.voices.filter fun e => inVpe r cl p e.1).length
  let gone := (s.mash.retired.filter fun v => inVpe r cl p v && (sfind s.mash.voices v).isNone).length
  256 - (held + gone + ((s.reserveList r cl).filter (inVpe r cl p)).length)

/-- Free-list contexts of a logical cluster. -/
def State.clusterFree (s : State) (r cl : Nat) : Nat := s.vpeFree r cl 0 + s.vpeFree r cl 1

/-- The context R208 takes from a cluster's free list: the VPE with more of them, then the lowest position. -/
def State.pickFree (s : State) (r cl : Nat) : Option Nat :=
  let p := if s.vpeFree r cl 0 < s.vpeFree r cl 1 then 1 else 0
  ((List.range 256).map ((r * 4 + cl * 2 + p) * 256 + ·)).find? s.onFreeList

/-- The context R208 takes from a cluster's reserve, by the same order. -/
def State.pickReserve (s : State) (r cl : Nat) : Option Nat :=
  let l := s.reserveList r cl
  let on (p : Nat) : List Nat := l.filter (inVpe r cl p)
  minBy (fun a b => decide (a < b)) (on (if (on 0).length < (on 1).length then 1 else 0))

/-- A freed context returns to its cluster's reserve while that holds fewer than 16, else to the free list (R209); a retired one
to neither. -/
def State.freeContext (s : State) (v : Nat) : State :=
  let s := { s with mash.voices := serase s.mash.voices v }
  if s.mash.retired.contains v ∨ 16 ≤ s.reserveOf (vRegion v) (vCluster v) then s
  else { s with mash.reserve := modAt s.mash.reserve (2 * vRegion v + vCluster v) (· ++ [v]) }

/-! ### Voices of a note -/

def Voice.isNote (x : Voice) (session note : Nat) : Bool := !x.left && x.session == session && x.note == some note

/-- The voices that a note holds, sounding or queued. -/
def State.noteVoices (s : State) (session note : Nat) : List (Nat × Voice) :=
  s.allVoices.filter fun e => e.2.isNote session note

/-- A change to every voice of a note. -/
def State.onNote (s : State) (session note : Nat) (f : Voice → Voice) : State :=
  let g (e : Nat × Voice) : Nat × Voice := if e.2.isNote session note then (e.1, f e.2) else e
  { s with mash.voices := s.mash.voices.map g, mash.queued := s.mash.queued.map g }

/-- An order of a boundary takes effect in a context: the first gate-off prevails, fades run beside each other, an earlier change
of a field in the same block is void (R214, R423). -/
def VoiceOp.run (c : Ctx) : VoiceOp → Ctx
  | .gateOff at0 => { c with gateOff := some (match c.gateOff with
      | some g => min g at0
      | none => at0) }
  | .fade f => { c with fades := c.fades ++ [f] }
  | .change p => { c with params := (c.params.filter fun q => !(q.off == p.off && q.sample / 16 == p.sample / 16)) ++ [p] }

/-- An order given at B(n): at once where block n is the voice's next, else recorded for it (R304). -/
def Voice.op (n : Nat) (o : VoiceOp) (x : Voice) : Voice :=
  if x.next < n then { x with later := x.later ++ [(n, o)] } else { x with ctx := o.run x.ctx }

/-- A voice with END_RELEASES on an oscillator that has ended receives its gate-off at the boundary before its next block (R84). -/
def Voice.endReleased (x : Voice) : Voice :=
  if (List.range 4).any fun i => x.ctx.recipe.endReleases i && (x.ctx.osc.getD i OscState.reset).ended then
    { x with ctx := (VoiceOp.gateOff (16 * x.next)).run x.ctx }
  else x

/-- The voice as it starts its next block: the orders recorded for it have taken effect (R304). -/
def Voice.ripe (x : Voice) : Voice :=
  { x.endReleased with
    ctx := (x.later.filter fun e => decide (e.1 ≤ x.next)).foldl (fun c e => e.2.run c) x.endReleased.ctx
    later := x.later.filter fun e => decide (x.next < e.1) }

/-- A gate-off of B(n) at an absolute sample. -/
def Voice.gateOffAt (n at0 : Nat) (x : Voice) : Voice := x.op n (.gateOff at0)

/-- Fades in progress or ordered. -/
def Voice.allFades (x : Voice) : List Fade :=
  x.ctx.fades ++ x.later.filterMap fun e => match e.2 with
    | .fade f => some f
    | _ => none

/-- The voice is fading (R210). -/
def Voice.fading (x : Voice) : Bool := !x.allFades.isEmpty

/-- The gate is on: no gate-off has come or is ordered. -/
def Voice.gateOn (x : Voice) : Bool :=
  x.ctx.gateOff.isNone && !x.later.any fun e => match e.2 with
    | .gateOff _ => true
    | _ => false

/-- The instances a session holds, those fading after a steal apart (R222). -/
def State.holding (s : State) (session : Nat) : Nat :=
  (s.allVoices.filter fun e => e.2.session == session && !e.2.stolen && !e.2.left).length

/-! ### Steals (R210, R214) -/

/-- The ranking of R210. -/
def rankBelow (a b : Nat × Voice) : Bool :=
  let key (e : Nat × Voice) : List Nat :=
    [e.2.prio, b2n e.2.gateOn, e.2.peak, e.2.born, e.1]
  decide (key a < key b)

/-- A steal candidate at B(n) for a note-on of priority p within a scope. -/
def stealable (n p : Nat) (scope : Nat → Bool) (e : Nat × Voice) : Bool :=
  scope e.1 && decide (e.2.prio ≤ p) && decide (e.2.prio < 6) && !e.2.fading && !e.2.stolen
    && decide (e.2.ctx.start < 16 * n)

def State.lowest (s : State) (n p : Nat) (scope : Nat → Bool) : Option (Nat × Voice) :=
  minBy rankBelow (s.mash.voices.filter (stealable n p scope))

/-- The candidates of a ranking at B(n); each whose block n - 1 is not finished ranks by an older peak, and counts for the C1
message of its cluster's catch-up (R305). -/
def State.countRankings (s : State) (n : Nat) (cands : List (Nat × Voice)) : State :=
  { s with mash.catchups := s.mash.catchups.map fun (c : Catchup) =>
    let late := (cands.filter fun e => vRegion e.1 * 2 + vCluster e.1 == c.cluster && decide (e.2.next < n)).length
    { c with rankings := c.rankings + late } }

/-- The candidates of R210. -/
def State.candidates (s : State) (n p : Nat) (scope : Nat → Bool) : List (Nat × Voice) := s.mash.voices.filter (stealable n p scope)

/-- The charges of a voice's stream are given up. -/
def Stream.release (v : Nat) (st : Stream) : Stream :=
  if st.of v none then { st with general := [0, 0], share := [0, 0] } else st

/-- A voice is stolen at B(n): it loses its note and fades over `len` samples; a hard steal frees its charges at once (R214, R220). -/
def State.steal (s : State) (n v len : Nat) (hard : Bool) : State :=
  match sfind s.mash.voices v with
  | none => s
  | some x =>
    let x1 := { x with note := none, stolen := true }.op n (.fade (Fade.mk len (16 * n) false))
    { s.life 12 1 with
      mash.voices := sinsert s.mash.voices v x1
      store.streams := if hard then s.store.streams.map (Stream.release v) else s.store.streams }

/-! ### Allocation (R207, R211, R216) -/

/-- Where an instance goes. -/
inductive Plan where
  | free (r cl : Nat)
  | reserve (r cl : Nat)
  | hard (v : Nat)
  | refuse
deriving DecidableEq, Repr

def Plan.region : Plan → Option Nat
  | .free r _ => some r
  | .reserve r _ => some r
  | .hard v => some (vRegion v)
  | .refuse => none

/-- The first of the largest values. -/
def argMax (f : Nat → Nat) : List Nat → Option Nat
  | [] => none
  | a :: l => match argMax f l with
    | none => some a
    | some b => if f a < f b then some b else some a

/-- The scope of a context: regions and clusters allowed. -/
def inScope (rs cls : List Nat) (v : Nat) : Bool := rs.contains (vRegion v) && cls.contains (vCluster v)

/-- A region's non-safety holding (23 R674). -/
def State.nonSafety (s : State) (r : Nat) : Nat :=
  (s.mash.voices.filter fun e => vRegion e.1 == r && decide (e.2.prio < 6) && !e.2.stolen).length

/-- The region stands at its shedding ceiling: a note-on of priority 0 to 5 finds its free list empty (23 R675). -/
def State.atCeiling (s : State) (r : Nat) : Bool :=
  match (s.mash.regions.getD r (Region.reset false)).ceiling with
  | some c => decide (c ≤ s.nonSafety r)
  | none => false

/-- The order of R207 and R208 within a scope. -/
def State.planIn (s : State) (n prio : Nat) (rs cls : List Nat) : Plan :=
  let p := min prio 5
  let free (r cl : Nat) : Nat := if prio < 6 ∧ s.atCeiling r then 0 else s.clusterFree r cl
  let sum (f : Nat → Nat → Nat) (r : Nat) : Nat := (cls.map (f r)).foldl (· + ·) 0
  let pick (f : Nat → Nat → Nat) : Option (Nat × Nat) :=
    match argMax (sum f) rs with
    | some r => if sum f r = 0 then none else (argMax (f r) cls).map fun cl => (r, cl)
    | none => none
  match pick free with
  | some (r, cl) => .free r cl
  | none =>
    match pick s.reserveOf with
    | some (r, cl) => .reserve r cl
    | none =>
      match s.lowest n p (inScope rs cls) with
      | some e => .hard e.1
      | none => .refuse

/-- The scopes of a note-on's instances: (regions, clusters) each (R207, R216, R217). -/
def State.scopes (s : State) (prio : Nat) : List (List Nat × List Nat) :=
  let up := s.regionsUp
  if prio < 6 then [(up, [0, 1])]
  else if s.part.variant.regionCount = 1 then
    if up.isEmpty then [([], [])] else [([0], [0]), ([0], [1])]
  else if up.isEmpty then [([], [])] else up.map fun r => ([r], [0, 1])

/-- The priority up to which a note-on may steal. -/
def stealTop (prio : Nat) : Nat := min prio 5

def State.plans (s : State) (n prio : Nat) : List (List Nat × List Nat × Plan) :=
  (s.scopes prio).map fun sc => (sc.1, sc.2, s.planIn n prio sc.1 sc.2)

/-! ### Streams of a note-on (R219, R268, R271) -/

/-- The stream an SMP oscillator asks for; the sample has to be one the store can serve (R77, R78). -/
def State.streamFor (s : State) (r : Recipe) (i v n prio : Nat) : Option Stream :=
  match s.sample (r.object i) with
  | none => none
  | some (e, h) =>
    if (h.wide && !s.unitOn 13) || decide (h.length < 25) then none
    else some
      { id := 0, ring := 0, voice := some v, osc := i, object := r.object i, addr := e.addr, mirror := e.mirror, wide := h.wide
        rate := h.rate, root := h.root, length := h.length, ls := h.ls, le := h.le, band := h.band, mode := r.loop i
        start := r.startAt i, safety := decide (6 ≤ prio), prio := prio, general := [0, 0], share := [0, 0], frames := []
        targets := [], opened := n, closing := none, primed := false }

/-- The stream holders that may be stolen for a request of priority p, lowest first (R219 step 2). -/
def State.streamVictims (s : State) (n p : Nat) : List (Nat × Voice) :=
  if p = 0 then []
  else sortBy (fun a b => !rankBelow b a) ((s.mash.voices.filter (stealable n (p - 1) fun _ => true)).filter fun e =>
    s.store.streams.any fun st => st.of e.1 none && st.closing.isNone)

def addBytes (a b : List Nat) : List Nat := [nth a 0 + nth b 0, nth a 1 + nth b 1]

/-- The general bytes a victim gives up. -/
def State.freedBy (s : State) (v : Nat) : List Nat :=
  (s.store.streams.filter fun st => st.of v none).foldl (fun acc st => addBytes acc st.general) [0, 0]

/-- The ring a victim gives up: one that is not passed on already. -/
def State.ringBy (s : State) (v n : Nat) : Option Nat :=
  (s.store.streams.find? fun st => st.of v none && st.closing.isNone
    && !(s.store.streams.any fun x => x.ring == st.ring && x.opened == n + 1 && x.id != st.id)).map fun st => st.ring

/-- The shortest run of victims that covers ring and charge: the victims, the ring, what is taken. -/
def State.coverBy (s : State) (n : Nat) (safety : Bool) (needs : List Nat) (ring : Option Nat) :
    List (Nat × Voice) → List Nat → List Nat → Option (List Nat × Nat × List Nat × List Nat)
  | [], _, _ => none
  | e :: rest, freed, taken =>
    let freed := addBytes freed (s.freedBy e.1)
    let ring := match ring with
      | some q => some q
      | none => s.ringBy e.1 n
    match ring, s.admission safety needs freed with
    | some q, some (g, h) => some (taken ++ [e.1], q, g, h)
    | _, _ => s.coverBy n safety needs ring rest freed (taken ++ [e.1])

/-- Every oscillator i of the voices vs gets its stream, or is ended. -/
def State.bindStream (s : State) (vs : List Nat) (i : Nat) (q : Option Nat) : State :=
  let f (e : Nat × Voice) : Nat × Voice :=
    if vs.contains e.1 ∧ e.2.ctx.started = false ∧ e.2.stolen = false then
      (e.1, { e.2 with ctx.osc := modAt e.2.ctx.osc i fun o => { o with stream := q, ended := q.isNone } })
    else e
  { s with mash.voices := s.mash.voices.map f, mash.queued := s.mash.queued.map f }

/-- A primed stream and its read are let go. -/
def State.unprimeStream (s : State) (id : Nat) : State :=
  { s with
    store.streams := s.store.streams.filter fun st => !(st.primed && st.id == id)
    store.reads := s.store.reads.filter fun (r : GristRead) => r.stream != id }

/-- A stream enters the list under an identity of its own. -/
def State.addStream (s : State) (st : Stream) : State :=
  { s with
    store.streams := s.store.streams ++ [{ st with id := s.store.nextStream }]
    store.nextStream := s.store.nextStream + 1 }

/-- An admitted stream of step 1 is open from block n on: a primed one goes on with its ring, its frames and its read, which
becomes the open read (R271); the window's frames that are missing are asked for (R270). -/
def State.openNow (s : State) (n : Nat) (st : Stream) (primed : Option Stream) : State × Nat :=
  match primed with
  | some x =>
    let st := { st with id := x.id, ring := x.ring, frames := x.frames, targets := [(n - 1, openWindow st 32)] }
    let asOpen (r : GristRead) : GristRead := if r.stream = x.id then { r with tier := st.tier, deadline := (n + 1) * 4096 } else r
    let s := { s with
      store.streams := s.store.streams.map fun (y : Stream) => if y.id = x.id then st else y
      store.reads := s.store.reads.map asOpen }
    (s.queueRead st st.tier ((n + 1) * 4096) (openWindow st 32), x.id)
  | none =>
    let st := { st with id := s.store.nextStream, targets := [(n - 1, openWindow st 32)] }
    ((s.addStream st).queueRead st st.tier ((n + 1) * 4096) (openWindow st 32), st.id)

/-- The request of one SMP oscillator (R219): `primed` is the stream primed for it. What is not used of it is released; where the
request ends in stream steals, the new stream keeps a primed ring and the frames in it, and fetches from B(n+1) on. -/
def State.requestStream (s : State) (n prio : Nat) (vs : List Nat) (c : Ctx) (i : Nat) (primed : Option Nat) : State :=
  let own := primed.bind fun q => s.store.streams.find? fun x => x.primed && x.id == q
  let drop (s : State) : State := match own with
    | some x => s.unprimeStream x.id
    | none => s
  let refuse (s : State) : State :=
    let r := vRegion (vs.headD 0)
    ((drop s).hopCount r fun c => { c with refusedStream := sat32 c.refusedStream }).bindStream vs i none
  match s.streamFor c.recipe i (vs.headD 0) n prio with
  | none => refuse s
  | some st =>
    let charge := streamCharge (bits (s.regN bGRIST 0) 16 8) c c.recipe i st
    let needs := s.portNeeds st charge
    let ring := match own with
      | some x => some x.ring
      | none => s.freeRing
    match ring, s.admission st.safety needs [0, 0] with
    | some q, some (g, h) =>
      let r := s.openNow n { st with ring := q, general := g, share := h } own
      r.1.bindStream vs i (some r.2)
    | _, _ =>
      let cands := s.streamVictims n prio
      match s.coverBy n st.safety needs ring cands [0, 0] [] with
      | some (victims, q, g, h) =>
        let s1 := victims.foldl (fun (s : State) v =>
          (s.steal n v 16 true).hopCount (vRegion v) fun c => { c with streamSteals := sat32 c.streamSteals }) (s.countRankings n cands)
        let frames := match own with
          | some x => x.frames
          | none => []
        let id := s1.store.nextStream
        ((drop s1).addStream { st with ring := q, general := g, share := h, frames := frames, opened := n + 1 }).bindStream vs i (some id)
      | none => refuse s

/-! ### NOTE_ON -/

/-- Payload words of a task (R417, R419). -/
def Task.w (t : Task) (i : Nat) : Nat := (nthW t.words i).toNat

def Task.pitch (t : Task) : Int := signed 32 (t.w 5)
def Task.velocity (t : Task) : Nat := bits (t.w 4) 16 7
def Task.bank (t : Task) : Nat := bits (t.w 4) 0 2
def Task.recipeIndex (t : Task) : Nat := bits (t.w 4) 8 8

/-- The seed: given, or from the ready stamp (R420). -/
def Task.seed (t : Task) : Nat :=
  if bit (t.w 4) 23 then t.w 6 else t.stamp * 0x9E3779B1 % 2 ^ 32

/-- The recipe a task names in the bank now resident. -/
def State.recipeOf (s : State) (t : Task) : Option Recipe :=
  match s.fw.banks.getD t.bank none with
  | some b => b.recipes[t.recipeIndex]?
  | none => none

/-- Every table a recipe names is resident for block n (R103). -/
def State.tablesReady (s : State) (r : Recipe) (n : Nat) : Bool := r.tableObjects.all fun o => (s.tableOf n o).isSome

/-- Every SMP object is mirrored (R282). -/
def State.objectsSafe (s : State) (r : Recipe) : Bool :=
  r.smpOscs.all fun i => match s.object (r.object i) with
    | some e => e.safety
    | none => false

/-- The context of a new instance: note-on applied at B(n) with offset `off`, first sounding at absolute sample `start`. -/
def newCtx (t : Task) (r : Recipe) (n off start : Nat) : Ctx where
  recipe := r
  pitch := t.pitch
  velocity := t.velocity
  seed := t.seed
  rnd := qrandI t.seed n off 7
  gateOff := none
  start := start
  started := false
  osc := List.replicate 4 OscState.reset
  flt := [FltState.zero, FltState.zero]
  env := List.replicate 4 EnvState.off
  lfo := [⟨0, 0⟩, ⟨0, 0⟩, ⟨0, 0⟩]
  srcPrev := []
  sums := [0, 0, 0]
  go := []
  params := []
  fades := []
  ovf := false

def newVoice (t : Task) (r : Recipe) (n off start : Nat) (twin : Option Nat) : Voice :=
  let c := newCtx t r n off start
  { ctx := c, ckpt := c, ckptAt := none, next := start / 16, failed := none, session := t.session, note := some t.note
    prio := t.prio, twin := twin, stolen := false, born := n, peak := 0, ckptBad := false, later := [], left := false }

/-- A note-on is refused (R212, R222): its count, its event, its primed rings. -/
def State.refuseNote (s : State) (t : Task) (r reason : Nat) : State :=
  let s := s.hopCount r fun c =>
    if reason = 1 then { c with refusedQuota := sat32 c.refusedQuota } else { c with refusedVoice := sat32 c.refusedVoice }
  (t.primed.foldl State.unprimeStream s).event 0x83 t.session [w32 (t.note % 65536 + reason * 65536)]

/-- One instance takes its context; a reserve context is made good by a steal with a fade (R211). Answers the context. -/
def State.place (s : State) (t : Task) (r : Recipe) (n off start : Nat) (rs cls : List Nat) (p : Plan) : State × Option Nat :=
  let put (s : State) (v : Nat) : State := { s with mash.voices := sinsert s.mash.voices v (newVoice t r n off start none) }
  match p with
  | .free rg cl =>
    match s.pickFree rg cl with
    | some v => (put s v, some v)
    | none => (s, none)
  | .reserve rg cl =>
    match s.pickReserve rg cl with
    | some v =>
      let s := put { s with mash.reserve := modAt s.mash.reserve (2 * rg + cl) (List.filter (· != v)) } v
      let scope := if rs.length = 1 then inScope rs cls else inScope [rg] cls
      match s.lowest n (stealTop t.prio) scope with
      | some e =>
        let len := 16 * nth s.hop.fade (vRegion e.1)
        (((s.countRankings n (s.candidates n (stealTop t.prio) scope)).steal n e.1 len false).hopCount (vRegion e.1) fun c => { c with steals := sat32 c.steals }, some v)
      | none => (s, some v)
    | none => (s, none)
  | .hard v =>
    let s := ((s.countRankings n (s.candidates n (stealTop t.prio) (inScope rs cls))).steal n v 16 true).hopCount (vRegion v) fun c => { c with hardSteals := sat32 c.hardSteals }
    ({ s with mash.queued := sinsert s.mash.queued v (newVoice t r n off start none) }, some v)
  | .refuse => (s, none)

/-- The two instances of a safety note name each other. -/
def State.pairTwins (s : State) (vs : List Nat) : State :=
  match vs with
  | [a, b] =>
    let f (e : Nat × Voice) : Nat × Voice :=
      if e.2.stolen ∨ e.2.ctx.started then e
      else if e.1 = a then (e.1, { e.2 with twin := some b }) else if e.1 = b then (e.1, { e.2 with twin := some a }) else e
    { s with mash.voices := s.mash.voices.map f, mash.queued := s.mash.queued.map f }
  | _ => s

/-- Steals of the session's own voices until `need` more instances fit its quota (R222); none where no candidate is left. -/
def State.quotaSteals (s : State) (n : Nat) (t : Task) (need quota : Nat) : Nat → Option State × State
  | 0 => (if s.holding t.session + need ≤ quota then some s else none, s)
  | k + 1 =>
    if s.holding t.session + need ≤ quota then (some s, s)
    else
      let own := (s.candidates n (stealTop t.prio) fun _ => true).filter fun e => e.2.session == t.session && !e.2.left
      match minBy rankBelow own with
      | none => (none, s)
      | some e =>
        let len := 16 * nth s.hop.fade (vRegion e.1)
        (((s.countRankings n own).steal n e.1 len false).hopCount (vRegion e.1) fun c => { c with quotaSteals := sat32 c.quotaSteals }).quotaSteals
          n t need quota k

/-- Safety instances of a region (R218). -/
def State.safetyCount (s : State) (r : Nat) : Nat :=
  (s.allVoices.filter fun e => decide (6 ≤ e.2.prio) && vRegion e.1 == r).length

/-- Instances that plans add to a region. -/
def plansIn (ps : List (List Nat × List Nat × Plan)) (r : Nat) : Nat :=
  (ps.filter fun p => p.2.2.region == some r).length

/-- The instances are placed and their streams asked for. -/
def State.placeNote (s : State) (t : Task) (r : Recipe) (n off : Nat) : State :=
  let ps := s.plans n t.prio
  if ps.any (fun p => p.2.2 == Plan.refuse) then s.refuseNote t ((ps.findSome? fun p => p.1.head?).getD 0) 0
  else
    let late := ps.any fun p => match p.2.2 with
      | .hard _ => true
      | _ => false
    let start := if late then 16 * (n + 1) else 16 * n + off
    let r1 := ps.foldl (fun (acc : State × List Nat) p =>
      match acc.1.place t r n off start p.1 p.2.1 p.2.2 with
      | (s, some v) => (s, acc.2 ++ [v])
      | (s, none) => (s, acc.2)) (s, [])
    let s := r1.1.pairTwins r1.2
    let c := newCtx t r n off start
    let rings := r.smpOscs.zipIdx.map fun (e : Nat × Nat) => (e.1, t.primed[e.2]?)
    rings.foldl (fun (s : State) e => s.requestStream n t.prio r1.2 c e.1 e.2) s

/-- What comes before an instance is placed: the note ID's holder is detached (R194), the cases of R212 and R218 are judged, and
the session's quota makes room by steals (R222). Answers the recipe, or the region and reason of a refusal. -/
def State.prepareNote (s : State) (t : Task) (n off : Nat) : Except (Nat × Nat) Recipe × State :=
  let s := s.onNote t.session t.note fun x => { x.gateOffAt n (16 * n + off) with note := none }
  let r0 := s.regionsUp.headD 0
  match s.recipeOf t with
  | none => (.error (r0, 2), s)
  | some r =>
    if !s.tablesReady r n || (decide (6 ≤ t.prio) && !s.objectsSafe r) then (.error (r0, 2), s)
    else
      let ps := s.plans n t.prio
      if decide (6 ≤ t.prio) && (List.range 2).any (fun g => decide (0 < plansIn ps g) && decide (256 < s.safetyCount g + plansIn ps g))
      then (.error (r0, 0), s)
      else
        match t.quota with
        | none => (.ok r, s)
        | some q =>
          match s.quotaSteals n t ps.length q 2048 with
          | (some s, _) => (.ok r, s)
          | (none, s) => (.error (r0, 1), s)

/-- NOTE_ON applied at B(n) with offset `off` (R190, R194, R207 to R219). -/
def State.applyNoteOn (s : State) (t : Task) (n off : Nat) : State :=
  match s.prepareNote t n off with
  | (.ok r, s) => s.placeNote t r n off
  | (.error (r0, why), s) => s.refuseNote t r0 why

end Sys2Proof.Machine
end

