-- ==== Sys2Proof/Machine/TimebaseOps.lean ====
section
/-! DEFINITION. The shaft trackers: edges, estimates, states and the angle table of a block (chapter 04). -/
namespace Sys2Proof.Machine

/-! ### Configuration (R188) -/

structure TbCfg where
  source   : Nat
  pin      : Nat
  refEn    : Bool
  refPin   : Nat
  dirMode  : Bool
  quadInv  : Bool
  teeth    : Nat
  gap      : Nat
  toothLo  : Nat
  toothHi  : Nat
  gapLo    : Nat
  gapHi    : Nat
  offset   : Nat
  cycle    : Nat
  sShift   : Nat
  aShift   : Nat
  corr     : Nat
  accMax   : Nat
  fallback : Int
  ramp     : Nat
  stallMs  : Nat
  hostMs   : Nat
  dirPw    : Nat
deriving DecidableEq, Repr

/-- Register r of tracker set n. -/
def tbReg (n r : Nat) : Nat := 0x40 + 0x40 * n + r

/-- The configuration of a tracker from its registers. -/
def State.tbCfg (s : State) (n : Nat) : TbCfg :=
  let g (r : Nat) : Nat := s.regN bTIMEBASE (tbReg n r)
  { source := bits (g 0) 0 3, pin := bits (g 0) 4 2, refEn := bit (g 0) 6, refPin := bits (g 0) 8 2
    dirMode := bit (g 0) 10, quadInv := bit (g 0) 11
    teeth := bits (g 4) 0 16, gap := bits (g 4) 16 3
    toothLo := bits (g 8) 0 8, toothHi := bits (g 8) 8 8, gapLo := bits (g 8) 16 8, gapHi := bits (g 8) 24 8
    offset := g 0xC, cycle := bits (g 0x10) 0 4
    sShift := bits (g 0x14) 0 4, aShift := bits (g 0x14) 4 4, corr := bits (g 0x14) 8 7, accMax := bits (g 0x14) 16 16
    fallback := signed 32 (g 0x18), ramp := bits (g 0x1C) 0 8
    stallMs := bits (g 0x20) 0 16, hostMs := bits (g 0x20) 16 16, dirPw := bits (g 0x24) 0 16 }

/-! ### Units (R169): F fraction bits of a speed, 2 F of an acceleration, 2 F + 1 of an angle -/

def tbF : Nat := 32 + Config.speedFracExtra

def coreHz : Int := 442368000

/-- An angle in units, in the fine format. -/
def fineAngle (a : Int) : Int := a * 2 ^ (2 * tbF + 1)

def unfineAngle (a : Int) : Int := rndDiv a (2 ^ (2 * tbF + 1))

/-- A speed in 16.16 rev/s as units per core cycle. -/
def speedUnits (x : Int) : Int := rndDiv (x * 2 ^ (16 + tbF)) coreHz

/-- An acceleration in 16.16 rev/s² as units per core cycle². -/
def accUnits (x : Int) : Int := rndDiv (x * 2 ^ (16 + 2 * tbF)) (coreHz * coreHz)

/-- ACCEL_MAX in units per core cycle². -/
def TbCfg.accLimit (c : TbCfg) : Int := accUnits ((c.accMax : Int) * 65536)

/-- Positions per revolution: teeth, or quadrature counts. -/
def TbCfg.positions (c : TbCfg) : Nat := max 1 (if c.source = 2 then 4 * c.teeth else c.teeth)

/-- Teeth of the wheel that are there. -/
def TbCfg.present (c : TbCfg) : Nat := max 1 (c.teeth - c.gap)

/-- The angle of position i in turn g (R155, R160). -/
def TbCfg.angleOf (c : TbCfg) (g : Int) (i : Nat) : Int :=
  g * 2 ^ 32 + (c.offset : Int) + ((i * 2 ^ 32 / c.positions % 2 ^ 32 : Nat) : Int)

/-! ### The trajectory (R170) -/

/-- The time of the reference plus dt is limited by the sign rule: the speed has come to 0. -/
def TbRef.stopped (r : TbRef) (dt : Int) : Bool :=
  decide (r.alpha * r.w < 0) && decide (r.w.natAbs * 2 ^ tbF < dt.toNat * r.alpha.natAbs)

/-- dt of a time, limited by the hold. -/
def TbRef.dt (r : TbRef) (t : Int) : Int :=
  match r.hold with
  | some h => min (t - r.t) (h : Int)
  | none => t - r.t

/-- A time beyond the hold. -/
def TbRef.beyond (r : TbRef) (t : Int) : Bool :=
  match r.hold with
  | some h => r.w != 0 && decide ((h : Int) < t - r.t)
  | none => false

/-- The fine angle at a core-cycle time; with speed 0 the angle holds (R172). -/
def TbRef.traj (r : TbRef) (t : Int) : Int :=
  if r.w = 0 then r.a
  else
    let dt := r.dt t
    if r.stopped dt then
      let m := rndDiv (r.w * r.w * 2 ^ (2 * tbF)) r.alpha.natAbs
      if r.alpha < 0 then r.a + m else r.a - m
    else r.a + r.w * dt * 2 ^ (tbF + 1) + r.alpha * dt * dt

/-- Speed and acceleration of the snapshot at a time (R174), in rev/s and rev/s² with 32 + 2 F fraction bits. With w = 0 no hold
applies (R172), and the speed is alpha * dt. -/
def TbRef.snapSpeed (r : TbRef) (t : Int) : Int × Int :=
  if r.w = 0 then (r.alpha * (t - r.t) * coreHz, r.alpha * coreHz * coreHz)
  else
    let dt := r.dt t
    if r.beyond t || r.stopped dt then (0, 0)
    else ((r.w * 2 ^ tbF + r.alpha * dt) * coreHz, r.alpha * coreHz * coreHz)

/-- A value with 32 + 2 F fraction bits rounded once to a format with k fraction bits, k at most 32. -/
def tbRound (k : Nat) (x : Int) : Int := rndDiv x (2 ^ (32 - k + 2 * tbF))

/-- The speed and the acceleration as matrix sources: 1.0 is 256 rev/s and 4,096 rev/s², saturated (R133). -/
def srcSpeed (x : Int) : Int := sat31 (tbRound 23 x)
def srcAccel (x : Int) : Int := sat31 (tbRound 19 x)

/-- A difference of two fine angles, taken modulo 2^64 angle units and read as signed (R153). -/
def fineDiff (d : Int) : Int :=
  let m : Int := 2 ^ (64 + 2 * tbF + 1)
  (d + m / 2) % m - m / 2

/-! ### Estimates (R169) -/

/-- The estimate after a valid interval of `span` units in p core cycles. -/
def Tracker.estimate (c : TbCfg) (span : Int) (p : Nat) (k : Tracker) : Tracker :=
  let p := max 1 p
  let m := rndDiv (span * 2 ^ tbF) p
  let k1 : Tracker :=
    if k.first then { k with w := m, alpha := 0, first := false }
    else
      let am := rndDiv ((m - k.wPrev) * 2 ^ (tbF + 1)) ((p + k.pPrev : Nat) : Int)
      { k with
        w := k.w + rndShift (m - k.w) c.sShift
        alpha := satI (-c.accLimit) c.accLimit (k.alpha + rndShift (am - k.alpha) c.aShift) }
  { k1 with wPrev := m, pPrev := p }

/-- A measured speed above 1,000 rev/s (R154). -/
def overspeed (span : Int) (p : Nat) : Bool := decide (1000 * 2 ^ 32 * p < span.natAbs * 442368000)

/-- The hold after an edge (R172). -/
def Tracker.holdTime (c : TbCfg) (nextIsGap : Bool) (k : Tracker) : Option Nat :=
  if k.w = 0 then none
  else if c.source = 2 then some (c.toothHi * 2 ^ (32 + tbF) / (16 * max 1 c.teeth * k.w.natAbs))
  else if nextIsGap then some (c.gapHi * k.p / (16 * max 1 k.span))
  else some (c.toothHi * 2 ^ (32 + tbF) / (16 * max 1 c.teeth * k.w.natAbs))

/-- The newest edge becomes the reference of the next boundary. -/
def Tracker.refer (c : TbCfg) (t : Nat) (nextIsGap : Bool) (k : Tracker) : Tracker :=
  { k with
    newRef := some ⟨fineAngle (c.angleOf k.rev k.tooth), t, k.w, k.alpha, k.holdTime c nextIsGap⟩
    lastEdge := some t
    pos := k.tooth }

/-! ### States (R175 to R178) -/

/-- The state as the edges of this block leave it. -/
def Tracker.now (k : Tracker) : Nat := k.nextState.getD k.state

/-- Sync is lost (R176, R178). -/
def Tracker.lose (t cause : Nat) (k : Tracker) : Tracker :=
  { k with
    nextState := some 2
    lost := k.lost || k.state == 3
    entering := false
    cause := cause
    losses := min 0xFFFF (k.losses + 1)
    valid := 0
    refSeen := false
    newRef := none
    jumpBy := 0
    quad := []
    lastEdge := some t }

/-- SYNCED is entered with position (turn 0, index i). -/
def Tracker.gain (i : Nat) (g : Int) (k : Tracker) : Tracker :=
  { k with nextState := some 3, entering := true, first := true, tooth := i, rev := g, jumpBy := 0, o := 0 }

/-- SYNCING starts at an edge. -/
def Tracker.startSync (t : Nat) (k : Tracker) : Tracker :=
  { k with nextState := some 2, valid := 0, refSeen := false, quad := [], lastEdge := some t, tooth := 0, rev := 0, newRef := none }

/-- The revolution count raised to the next multiple of C. -/
def raiseTo (c : Nat) (g : Int) : Int := g + (-g) % (max 1 c : Nat)

/-! ### Tooth wheels (R155 to R159, R164) -/

/-- The ratio tests of R156 against the interval before. -/
def TbCfg.toothOk (c : TbCfg) (k : Tracker) (p : Nat) : Bool :=
  decide (c.toothLo * k.p ≤ 16 * p * k.span) && decide (16 * p * k.span ≤ c.toothHi * k.p)
def TbCfg.gapOk (c : TbCfg) (k : Tracker) (p : Nat) : Bool :=
  decide (c.gapLo * k.p ≤ 16 * p * k.span) && decide (16 * p * k.span ≤ c.gapHi * k.p)

/-- The position of the next pulse in direction `rv`, and whether the gap lies before it (R159). -/
def TbCfg.nextTooth (c : TbCfg) (rv : Bool) (k : Tracker) : Nat × Int × Bool :=
  if rv ≠ k.reverse then (k.tooth, k.rev, false)
  else if rv then
    if k.tooth = 0 then (c.present - 1, k.rev - 1, decide (0 < c.gap)) else (k.tooth - 1, k.rev, false)
  else if c.present ≤ k.tooth + 1 then (0, k.rev + 1, decide (0 < c.gap)) else (k.tooth + 1, k.rev, false)

/-- The gap follows the present position. -/
def TbCfg.gapNext (c : TbCfg) (k : Tracker) : Bool :=
  decide (0 < c.gap) && (if k.reverse then k.tooth == 0 else k.tooth + 1 == c.present)

/-- The check of R158 and R164 at a tooth edge that follows a reference edge; none is a mismatch. -/
def Tracker.checkRef (c : TbCfg) (k : Tracker) : Option Tracker :=
  if !c.refEn || !k.refSeen then some k
  else if k.tooth ≠ 0 then if c.gap = 0 then none else some k
  else if k.rev % (max 1 c.cycle : Nat) = 0 then some { k with refSeen := false, aligned := true }
  else if k.aligned then none
  else
    let up := raiseTo c.cycle k.rev
    some { k with refSeen := false, aligned := true, rev := up, jumpBy := k.jumpBy + (up - k.rev) * 2 ^ 32 }

/-- A tooth edge while SYNCING (R176). The checks of R164 begin after the edge that enters SYNCED. An interval faster than R154
allows restarts the count, the interval across the gap too; it is no loss, there being no sync to lose (DESIGN CHOICE, log 75). -/
def Tracker.toothSync (c : TbCfg) (t : Nat) (rv : Bool) (k : Tracker) : Tracker :=
  match k.lastEdge with
  | none => { k.startSync t with reverse := rv }
  | some t0 =>
    let p := t - t0
    let sgn : Int := if rv then -1 else 1
    let enter (span : Int) (spans : Nat) : Tracker :=
      let k1 := (k.gain 0 0).estimate c (sgn * span) p
      let k2 := { k1 with p := p, span := spans, valid := 1, aligned := false, refSeen := false }
      k2.refer c t (c.gapNext k2)
    let restart : Tracker := { k with valid := 1, p := p, span := 1, lastEdge := some t }
    let gapSpan : Int := 2 ^ 32 - (((c.present - 1) * 2 ^ 32 / max 1 c.teeth : Nat) : Int)
    let atGap := decide (0 < c.gap) && decide (2 ≤ k.valid) && c.gapOk k p
    if rv ≠ k.reverse then { k.startSync t with reverse := rv }
    else if k.valid = 0 then restart
    else if decide (2 ≤ k.valid) && overspeed (if atGap then gapSpan else 2 ^ 32 / (max 1 c.teeth : Nat)) p then
      { restart with refSeen := false }
    else if atGap then enter gapSpan (c.gap + 1)
    else if c.toothOk k p then
      if c.gap = 0 ∧ 2 ≤ k.valid ∧ k.refSeen then
        enter (2 ^ 32 - (((c.teeth - 1) * 2 ^ 32 / max 1 c.teeth : Nat) : Int)) 1
      else { k with valid := k.valid + 1, p := p, span := 1, lastEdge := some t }
    else if c.gap = 0 then { restart with refSeen := false } else restart

/-- A tooth edge while SYNCED (R157, R158, R164, R169). -/
def Tracker.toothSynced (c : TbCfg) (t : Nat) (rv : Bool) (k : Tracker) : Tracker :=
  let (i, g, gap) := c.nextTooth rv k
  let p := t - k.lastEdge.getD t
  if rv ≠ k.reverse then
    { k with reverse := rv, w := 0, alpha := 0, first := true, valid := 0 }.refer c t false
  else
    let span := c.angleOf g i - c.angleOf k.rev k.tooth
    if 1 ≤ k.valid && gap && !c.gapOk k p then k.lose t 2
    else if 1 ≤ k.valid && !gap && decide (0 < c.gap) && c.gapOk k p then k.lose t 2
    else if 1 ≤ k.valid && !gap && !c.toothOk k p then k.lose t 1
    else if overspeed span p then k.lose t 5
    else
      let moved := { k with tooth := i, rev := g }
      match moved.checkRef c with
      | none => k.lose t 3
      | some k1 =>
        let k2 := { k1.estimate c span p with p := p, span := if gap then c.gap + 1 else 1, valid := 1 }
        k2.refer c t (c.gapNext k2)

/-- A tooth edge at core-cycle time t, in direction `rv`. -/
def Tracker.toothEdge (c : TbCfg) (t : Nat) (rv : Bool) (k : Tracker) : Tracker :=
  let k := { k with lastInput := t, quiet := false }
  match k.now with
  | 1 => { k.startSync t with reverse := rv }
  | 2 => k.toothSync c t rv
  | 3 => k.toothSynced c t rv
  | 4 =>
    if c.dirMode then
      let (i, g, _) := c.nextTooth rv k
      let k1 := { k.gain i g with reverse := rv, w := 0, alpha := 0, valid := 0 }
      k1.refer c t false
    else { k.startSync t with reverse := rv }
  | _ => k

/-- A reference edge of a tooth wheel: noted, in SYNCING with GAP 0 only after two valid intervals; in UNSYNCED it is
ignored (R158, R164, R176; DESIGN CHOICE, log 75). -/
def Tracker.toothRef (c : TbCfg) (k : Tracker) : Tracker :=
  match k.now with
  | 2 => if 0 < c.gap ∨ 2 ≤ k.valid then { k with refSeen := true } else k
  | 3 => { k with refSeen := true }
  | _ => k

/-! ### Quadrature (R160 to R162, R165) -/

/-- The next count in a direction. -/
def TbCfg.nextCount (c : TbCfg) (rv : Bool) (k : Tracker) : Nat × Int :=
  if rv then if k.tooth = 0 then (c.positions - 1, k.rev - 1) else (k.tooth - 1, k.rev)
  else if c.positions ≤ k.tooth + 1 then (0, k.rev + 1) else (k.tooth + 1, k.rev)

/-- A count with its interval: the last four counts in one direction, or those there are (R162). -/
def Tracker.quadMeasure (c : TbCfg) (t : Nat) (k : Tracker) : Tracker :=
  let m := min 4 k.quad.length
  let k1 := { k with quad := (t :: k.quad).take 5 }
  if m = 0 then k1.refer c t false
  else
    let t0 := nth k.quad (m - 1)
    let span : Int := ((m * 2 ^ 32 / c.positions : Nat) : Int) * (if k.reverse then -1 else 1)
    if overspeed span (t - t0) then k.lose t 5
    else (k1.estimate c span (t - t0)).refer c t false

/-- A quadrature count at time t (R165, R176, R177). -/
def Tracker.quadCount (c : TbCfg) (t : Nat) (rv : Bool) (k : Tracker) : Tracker :=
  let k := { k with lastInput := t, quiet := false }
  let (i, g) := c.nextCount rv k
  match k.now with
  | 1 => { k.startSync t with reverse := rv, quad := [t], valid := 1 }
  | 2 =>
    if rv ≠ k.reverse ∨ k.quad = [] then
      let (i1, g1) := if c.refEn && k.refSeen then (i, g) else (0, 0)
      { k with reverse := rv, quad := [t], valid := 1, tooth := i1, rev := g1, lastEdge := some t }
    else
      let ready := !c.refEn || k.refSeen
      let k1 := { k with valid := k.valid + 1, tooth := i, rev := g }
      if ready && decide (1 ≤ k.valid) then ({ k1.gain i g with aligned := false, refSeen := false }).quadMeasure c t
      else { k1 with quad := (t :: k.quad).take 5, lastEdge := some t }
  | 3 =>
    if rv ≠ k.reverse then
      { k with reverse := rv, w := 0, alpha := 0, first := true, quad := [t], tooth := i, rev := g }.refer c t false
    else { k with tooth := i, rev := g }.quadMeasure c t
  | 4 =>
    { k.gain i g with reverse := rv, w := 0, alpha := 0, quad := [t] }.refer c t false
  | _ => k

/-- An index edge (R165): in SYNCING it sets the count to 0 and the counts after it decide; in SYNCED the first one aligns with
a jump and every later one is checked. In UNSYNCED it is ignored: what leaves that state is a counting edge (DESIGN CHOICE, log 75). -/
def Tracker.quadIndex (c : TbCfg) (t : Nat) (k : Tracker) : Tracker :=
  match k.now with
  | 2 => { k with refSeen := true, tooth := 0, rev := 0, quad := [], valid := 0 }
  | 3 =>
    let at0 := k.tooth = 0 ∧ k.rev % (max 1 c.cycle : Nat) = 0
    if at0 then { k with aligned := true }
    else if k.aligned then k.lose t 3
    else
      let up := raiseTo c.cycle (if k.tooth = 0 then k.rev else k.rev + 1)
      let d := c.angleOf up 0 - c.angleOf k.rev k.tooth
      { k with
        aligned := true
        tooth := 0
        rev := up
        jumpBy := k.jumpBy + d
        newRef := some (match k.newRef with
          | some r => { r with a := r.a + fineAngle d }
          | none => { k.ref with a := k.ref.a + fineAngle d })
        pos := 0 }
  | _ => k

/-! ### Host updates (R167, R168) -/

/-- The update as a reference; `fallback` says that no trajectory is in force. t0 is the time of the boundary. -/
def Tracker.hostRef (c : TbCfg) (t0 : Int) (fallback : Bool) (u : TbUpdate) (k : Tracker) : TbRef :=
  let tc : Int := 18 * (min u.t u.arrived : Nat)
  let a :=
    if u.valid then fineAngle u.angle
    else if fallback then
      fineAngle k.aLast + rndDiv (c.fallback * 2 ^ (16 + 2 * tbF + 1) * (tc - (t0 - 4608))) coreHz
    else k.ref.traj tc
  ⟨a, tc, speedUnits u.speed, satI (-c.accLimit) c.accLimit (accUnits u.accel), some (c.hostMs * 442368)⟩

/-- The update of the block reaches its tracker at the boundary. -/
def Tracker.hostUpdate (c : TbCfg) (t0 : Int) (u : TbUpdate) (k : Tracker) : Tracker :=
  let r := k.hostRef c t0 (k.now != 3) u
  let k := { k with newRef := some r, lastInput := 18 * u.arrived, quiet := false, reverse := if u.speed = 0 then k.reverse else decide (u.speed < 0) }
  if k.now = 3 then k else { k with nextState := some 3, entering := true }

/-! ### The boundary -/

/-- The timeout of R175 has run out at a time in core cycles. -/
def Tracker.expired (c : TbCfg) (t : Nat) (k : Tracker) : Bool :=
  let gone := t - k.lastInput
  if c.source = 3 then k.now == 3 && decide (c.hostMs * 442368 ≤ gone)
  else (k.now == 2 || k.now == 3) && decide (c.stallMs * 442368 ≤ gone)

/-- TB_STALL notes that the timeout has run out; the state changes at the boundary, unless an input comes first (R175, R188). -/
def Tracker.stall (c : TbCfg) (t : Nat) (k : Tracker) : Tracker := if k.expired c t then { k with quiet := true } else k

/-- What a timeout does at the boundary at core-cycle time t (R175). -/
def Tracker.timeout (c : TbCfg) (t : Nat) (k : Tracker) : Tracker :=
  if k.quiet || k.expired c t then
    match k.now with
    | 2 => { k with nextState := some 1, quiet := false }
    | 3 => { k with nextState := some 4, newRef := none, jumpBy := 0, entering := false, quiet := false }
    | _ => { k with quiet := false }
  else k

/-- The ramp gain at sample j of the SYNCED block b (R179). -/
def rampGain (blocks b j : Nat) : Int := if blocks = 0 then 0x7FFFFFFF else heldFrac (min (16 * b + j + 1) (16 * blocks)) (16 * blocks)

/-- The sync gains of a block: `was` says that the block before it was SYNCED. -/
def syncGains (c : TbCfg) (synced was : Bool) (b : Nat) : List Int :=
  if synced then (List.range 16).map (rampGain c.ramp b)
  else if was then (List.range 16).map fun j => mul31 (rampGain c.ramp (b + 1) 0) (cosFall 16 j)
  else List.replicate 16 0

/-- The angles of a SYNCED block (R170): from the reference, the blend and the angle before sample 0, each compared with the one
before it modulo 2^64 (R153). -/
def angleTable (c : TbCfg) (t0 : Int) (r : TbRef) (o : Int) (k : Nat) (rv : Bool) (prev : Int) : Nat → Nat → List Int
  | 0, _ => []
  | m + 1, j =>
    let blend := ((c.corr - (k + j) : Nat) : Int)
    let raw := rndDiv (r.traj (t0 + 4608 * (j : Int)) * (max 1 c.corr : Nat) + o * blend) ((max 1 c.corr : Nat) * 2 ^ (2 * tbF + 1))
    let raw := prev + s64i (raw - prev)
    let a := if rv then min raw prev else max raw prev
    a :: angleTable c t0 r o k rv a m (j + 1)

/-- A SYNCED block: the new reference, blending or a jump, the angles and the snapshot entry. -/
def Tracker.syncedBlock (c : TbCfg) (t0 : Int) (was : Bool) (k : Tracker) : Tracker × TbSnap :=
  let ref := k.newRef.getD k.ref
  let old := { k.ref with a := k.ref.a + fineAngle k.jumpBy }
  let corr : Int := (max 1 c.corr : Nat)
  let (o, kk, d) : Int × Nat × Int :=
    if k.entering then (0, 0, s64i (unfineAngle (ref.traj (t0 - 4608)) - k.aLast))
    else match k.newRef with
      | some r =>
        let o := fineDiff (rndDiv (old.traj t0 * corr + k.o * ((c.corr - k.k : Nat) : Int)) corr - r.traj t0)
        if 2 ^ (30 + 2 * tbF + 1) < o.natAbs then (0, 0, k.jumpBy - unfineAngle o) else (o, 0, k.jumpBy)
      | none => (k.o, k.k, 0)
  let angles := (angleTable c t0 ref o kk k.reverse (k.aLast + d) 16 0).map s64i
  let late := (List.range 16).any fun j => ref.beyond (t0 + 4608 * (j : Int))
  let b := if k.entering || !was then 0 else k.rampB + 1
  let (speed, accel) := ref.snapSpeed t0
  let shown := tbRound 16 speed
  ({ k with
      ref := ref, newRef := none, jumpBy := 0, entering := false, o := o, k := min (kk + 16) 64, aLast := nthI angles 15
      late := late, lates := if late then min 0xFFFF (k.lates + 1) else k.lates, rampB := b, speed := shown },
    ⟨angles, shown, tbRound 16 accel, 3, d, s64i (k.aLast + d), syncGains c true was b, srcSpeed speed, srcAccel accel⟩)

/-- Any other block: OFF stands at angle 0, else the angle runs at FALLBACK (R173, R175). -/
def Tracker.otherBlock (c : TbCfg) (was : Bool) (k : Tracker) : Tracker × TbSnap :=
  let st := k.state
  let inc := rndDiv (c.fallback * 65536) 96000
  let angles := (List.range 16).map fun (j : Nat) => if st = 0 then 0 else s64i (k.aLast + inc * ((j : Int) + 1))
  let speed := if st = 0 then 0 else c.fallback
  ({ k with
      newRef := none, jumpBy := 0, entering := false, o := 0, k := 0, aLast := nthI angles 15, late := false, speed := speed },
    ⟨angles, speed, 0, st, 0, k.aLast, syncGains c false was k.rampB, sat31 (speed * 128), 0⟩)

/-- A tracker passes B(n): its state changes, the block's snapshot entry, the TB_EVENT bits that arise (R188). -/
def Tracker.boundary (c : TbCfg) (n : Nat) (u : Option TbUpdate) (k : Tracker) : Tracker × TbSnap × Nat :=
  let t0 : Nat := 73728 * n
  let was := k.state == 3
  let dir := k.reverse
  let k := match u with
    | some u => if c.source = 3 ∧ k.state ≠ 0 then k.hostUpdate c t0 u else k
    | none => k
  let k := k.timeout c t0
  let st := k.now
  let entering := st == 3 && (k.entering || !was)
  let ev := b2n entering + 2 * b2n (k.lost && was) + 4 * b2n (was && st == 4) + 8 * b2n (c.source == 3 && k.reverse != dir)
  let k := { k with state := st, nextState := none, lost := false, entering := entering }
  let (k, snap) := if st = 3 then k.syncedBlock c t0 was else k.otherBlock c was
  (k, snap, ev)

/-- A configuration write puts an enabled tracker into UNSYNCED, SOURCE 0 into OFF; a write of TBn_SRC clears the counts (R186, R188). -/
def Tracker.configured (c : TbCfg) (src : Bool) (k : Tracker) : Tracker :=
  { Tracker.off with
    state := k.state
    nextState := some (if c.source = 0 then 0 else 1)
    aLast := k.aLast
    rampB := k.rampB
    losses := if src then 0 else k.losses
    lates := if src then 0 else k.lates
    cause := k.cause
    speed := k.speed
    lastInput := k.lastInput }

/-! ### Trackers of the part -/

def State.tracker (s : State) (n : Nat) : Tracker := s.tbs.getD n Tracker.off

def State.setTracker (s : State) (n : Nat) (k : Tracker) : State := { s with tbs := s.tbs.set n k }

/-- TB_EVENT bits of tracker n are set, and an enabled one posts the TIMEBASE event (R188, R396). -/
def State.tbEvent (s : State) (n ev : Nat) : State :=
  if ev = 0 then s else
  let w := s.reg bTIMEBASE 4 ||| w32 (ev * 16 ^ n)
  let s := s.setReg bTIMEBASE 4 w
  if bits (s.regN bTIMEBASE 8) (4 * n) 4 &&& ev = 0 then s
  else s.event 0x84 0 [w32 (n + bits w.toNat (4 * n) 4 * 16 + (s.tracker n).cause * 256)]

/-- The trackers pass B(n); their snapshot entries. -/
def State.tbBoundary (s : State) (n : Nat) : State × List TbSnap :=
  let r := (List.range 4).foldl (fun (acc : State × List TbSnap) i =>
    let upd := (acc.1.fw.tbUpdates.reverse.find? fun u => u.1 == i).map fun u => u.2
    let (k, snap, ev) := (acc.1.tracker i).boundary (acc.1.tbCfg i) n upd
    ((acc.1.setTracker i k).tbEvent i ev, acc.2 ++ [snap])) (s, [])
  ({ r.1 with fw.tbUpdates := [] }, r.2)

end Sys2Proof.Machine
end

