-- ==== Sys2Proof/Machine/Hopper.lean ====
section
/-! DEFINITION. The Hopper: flows, due conditions, the dispatch pass and what applied tasks do (R181 to R206). -/
namespace Sys2Proof.Machine

/-! ### Entries (R189, R200, R201) -/

def State.genOf (s : State) (i : Nat) : Nat := sget (fun _ => 0) s.hop.gen i

/-- The handle of an entry. -/
def State.handleOf (s : State) (i : Nat) : Nat := i + 4096 * s.genOf i

/-- The rings primed for a task are released. -/
def State.unprime (s : State) (t : Task) : State :=
  t.primed.foldl State.unprimeStream s

/-- An entry becomes FREE, by application or by a cancel (R200, R424). -/
def State.freeTask (s : State) (i : Nat) (applied : Bool) : State :=
  match sfind s.hop.tasks i with
  | some t => { s with hop.tasks := serase s.hop.tasks i, hop.left := sinsert s.hop.left i (applied, t.session) }
  | none => s

/-- The head of a flow: its task made ready first. -/
def State.flowHead (s : State) (flow : Nat) : Option (Nat × Task) :=
  minBy (fun a b => decide (a.2.stamp < b.2.stamp)) (s.hop.tasks.filter fun e => e.2.flow == flow)

def State.isHead (s : State) (e : Nat × Task) : Bool := (s.flowHead e.2.flow).map (fun h => h.1) == some e.1

/-! ### Due points (R181 to R185, R195, R196) -/

/-- One sample of the crossing test; `fired` is the crossing a repeating condition has not yet left behind (R184, R185). -/
def crossSample (period tgt : Int) (dirn : Nat) (lo hi : Int) (fired : Option Int) : Option Int × Option Int :=
  match fired with
  | some x =>
    let half := period / 2
    let back := decide (dirn ≠ 0) && decide (s64i (hi - x) ≤ -half)
    let fwd := decide (dirn ≠ 1) && decide (half ≤ s64i (hi - x))
    (if back || fwd then none else some x, none)
  | none =>
    let d := s64i (hi - lo)
    if 0 < d ∧ dirn ≠ 1 then
      let x := hi - (hi - tgt) % period
      (none, if 0 < s64i (x - lo) then some x else none)
    else if d < 0 ∧ dirn ≠ 0 then
      let x := hi + (tgt - hi) % period
      (none, if s64i (x - lo) < 0 then some x else none)
    else (none, none)

/-- The samples of a block from j on: the re-arm state left, and the first crossing with its sample. `test` is clear while the
task already waits to be applied. -/
def crossScan (period tgt : Int) (dirn : Nat) (test : Bool) : List Int → Nat → Int → Option Int → Option Int × Option (Nat × Int)
  | [], _, _, fired => (fired, none)
  | hi :: rest, j, lo, fired =>
    let (fired', hit) := crossSample period tgt dirn lo hi fired
    match hit with
    | some x => if test then (some x, some (j, x)) else crossScan period tgt dirn test rest (j + 1) hi fired'
    | none => crossScan period tgt dirn test rest (j + 1) hi fired'

/-- A threshold event matches a SENSE condition (R195). -/
def senseMatch (ch thr edge : Nat) (e : SenseEvent) : Bool :=
  e.ch == ch && e.thr == thr && (edge == 2 || (edge == 0) == e.entering)

/-- A flow head is examined at B(n) under the block's snapshot entries: armed, and due where its point lies before B(n+1). -/
def State.examine (s : State) (n : Nat) (tbs : List TbSnap) (t : Task) : Task :=
  let t : Task := { t with st := if t.st = .pending then .armed else t.st, examined := some (t.examined.getD n) }
  match t.due with
  | .now => if t.st = .armed then { t with st := .due } else t
  | .time _ =>
    match t.point with
    | some (b, _) => if t.st = .armed ∧ b ≤ n then { t with st := .due } else t
    | none => t
  | .angle tb cycle trev frac dirn _ =>
    let snap := tbs.getD tb TbSnap.off
    if snap.state ≠ 3 then t
    else
      let period : Int := (cycle * 2 ^ 32 : Nat)
      let tgt : Int := (trev * 2 ^ 32 + frac : Nat)
      let (fired, hit) := crossScan period tgt dirn (t.st == .armed) snap.angles 0 snap.lo t.fired
      match hit with
      | some (j, x) => { t with st := .due, point := some (n, j), cross := x, fired := fired }
      | none => { t with fired := fired }
  | .sense ch thr edge _ =>
    let since := t.examined.getD n * 4096
    if t.st = .armed ∧ s.hop.senses.any (fun e => senseMatch ch thr edge e && decide (since ≤ e.stamp) && decide (e.stamp < n * 4096)) then
      { t with st := .due, point := some (n, 0) }
    else t

/-- The condition repeats (R197). -/
def Due.repeats : Due → Bool
  | .angle _ _ _ _ _ r => r
  | .sense _ _ _ r => r
  | _ => false

/-- Lateness in boundaries (R34, R204). -/
def Task.lateness (t : Task) (n : Nat) : Nat :=
  match t.point with
  | some (b, _) => n - b
  | none => 0

/-- The offset: that of the due point at its own boundary, 0 once carried over (R34, R204). -/
def Task.offset (t : Task) (n : Nat) : Nat :=
  match t.point with
  | some (b, j) => if b = n then j else 0
  | none => 0

/-! ### Charges (R190, R193) -/

/-- The applications a task is charged, region by region; a note-on's instances where they are then placed. -/
def State.charge (s : State) (n : Nat) (t : Task) : List (Nat × Nat) :=
  let up := s.regionsUp
  let r0 := up.headD 0
  let merge (rs : List Nat) : List (Nat × Nat) :=
    up.filterMap fun r =>
      let c := (rs.filter fun x => x == r).length
      if c = 0 then none else some (r, c)
  match t.kind with
  | .noteOn =>
    let s := (s.prepareNote t n (t.offset n)).2
    let rs := (s.plans n t.prio).map fun p => (p.2.2.region).getD ((p.1).headD r0)
    merge rs
  | .controller => up.map fun r => (r, 1)
  | .profile => up.map fun r => (r, 1)
  | .event => [(r0, 1)]
  | _ =>
    match merge ((s.noteVoices t.session t.note).map fun e => vRegion e.1) with
    | [] => [(r0, 1)]
    | l => l

/-! ### Application (R190) -/

/-- The bytes of a PARAM field (R422), none where the offset names no field. -/
def paramSize (o : Nat) : Option Nat :=
  if o = 0x08 ∨ o = 0x28 then some 4
  else if o = 0x0C ∨ o = 0x0D then some 1
  else if o = 0x0E then some 2
  else if 0x10 ≤ o ∧ o < 0x20 ∧ o % 4 = 0 then some 4
  else if 0x40 ≤ o ∧ o < 0xC0 then
    match o % 32 with
    | 0x04 => some 4
    | 0x08 => some 2
    | 0x0C => some 4
    | 0x10 => some 4
    | 0x14 => some 2
    | 0x16 => some 2
    | _ => none
  else if 0xC0 ≤ o ∧ o < 0xE0 then
    match o % 16 with
    | 0x02 => some 2
    | 0x04 => some 4
    | 0x08 => some 2
    | 0x0A => some 2
    | _ => none
  else if 0x180 ≤ o ∧ o < 0x198 ∧ o % 8 = 4 then some 4
  else if 0x1A0 ≤ o ∧ o < 0x200 ∧ o % 4 = 2 then some 2
  else none

/-- A PARAM that is applied without effect: ORDER of an ORD oscillator, START of WT, PM and SMP (R422). -/
def paramIdle (r : Recipe) (o : Nat) : Bool :=
  if 0x40 ≤ o ∧ o < 0xC0 then
    let m := r.mode ((o - 0x40) / 32)
    (o % 32 == 4 && m == mORD) || (o % 32 == 0x10 && (m == mWT || m == mPM || m == mSMP))
  else false

/-- A field change of a voice at B(n) from absolute sample `at0` on (R422, R423). -/
def Voice.change (n o size value at0 : Nat) (x : Voice) : Voice :=
  if paramIdle x.ctx.recipe o then x else x.op n (.change (ParamChange.mk o size value at0))

/-- A task takes effect at B(n) with offset `off`. -/
def State.applyTask (s : State) (n off : Nat) (i : Nat) (t : Task) : State :=
  let at0 := 16 * n + off
  let orphan (s : State) : State :=
    if (s.noteVoices t.session t.note).isEmpty then
      s.hopCount (s.regionsUp.headD 0) fun c => { c with orphans := sat32 c.orphans }
    else s
  match t.kind with
  | .noteOn => s.applyNoteOn t n off
  | .release => (orphan s).onNote t.session t.note (Voice.gateOffAt n at0)
  | .kill => (orphan s).onNote t.session t.note fun x => x.op n (.fade (Fade.mk 16 at0 true))
  | .param =>
    let o := bits (t.w 4) 0 9
    (orphan s).onNote t.session t.note (Voice.change n o ((paramSize o).getD 0) (t.w 5) at0)
  | .controller => { s with hop.ctl := s.hop.ctl.set (bits (t.w 4) 0 3) (signed 32 (t.w 5)) }
  | .profile =>
    { s with hop.hostGain := (List.range 8).map fun k => min 0x8000 (bits (t.w (4 + k / 2)) (16 * (k % 2)) 16) }
  | .event =>
    let x : Int := match t.due with
      | .angle .. => t.cross
      | _ => 0
    s.event 0x82 t.session [w32 n, w32 (off % 16 + 65536 * s.handleOf i), w32i x, w32i (x / 2 ^ 32)]

/-- A task is applied: lateness, effect, and its entry freed or re-armed (R197, R200, R206). -/
def State.runTask (s : State) (n i : Nat) (t : Task) (ch : List (Nat × Nat)) : State :=
  let late := min 0xFFFF (t.lateness n)
  let s := ch.foldl (fun (s : State) c => s.hopCount c.1 fun x => { x with lateMax := modAt x.lateMax t.prio (max late) }) s
  let s := s.applyTask n (t.offset n) i t
  if t.due.repeats then
    { s with hop.tasks := s.hop.tasks.map fun (e : Nat × Task) =>
      if e.1 = i then (i, { t with st := .armed, point := none }) else e }
  else s.freeTask i true

/-! ### The pass (R202, R203) -/

/-- Capacity left of a region: safety share, shared share, blocked. -/
structure Capacity where
  safe    : Nat
  shared  : Nat
  blocked : Bool
deriving DecidableEq, Repr

def capOf (caps : List Capacity) (r : Nat) : Capacity := caps.getD r ⟨0, 0, true⟩

/-- The charge fits every region it names. -/
def fits (caps : List Capacity) (prio : Nat) (ch : List (Nat × Nat)) : Bool :=
  ch.all fun c =>
    let k := capOf caps c.1
    !k.blocked && decide (c.2 ≤ k.shared + if 6 ≤ prio then k.safe else 0)

/-- The charge is spent, the safety share first for priorities 6 and 7. -/
def spend (caps : List Capacity) (prio : Nat) (ch : List (Nat × Nat)) : List Capacity :=
  ch.foldl (fun caps c => modAt caps c.1 fun k =>
    let x := if 6 ≤ prio then min c.2 k.safe else 0
    { k with safe := k.safe - x, shared := k.shared - (c.2 - x) }) caps

/-- One eligible task in its turn. -/
def State.dispatchOne (s : State) (n : Nat) (caps : List Capacity) (i : Nat) (t : Task) : State × List Capacity :=
  let ch := s.charge n t
  if fits caps t.prio ch then (s.runTask n i t ch, spend caps t.prio ch)
  else
    (ch.foldl (fun (s : State) c => s.hopCount c.1 fun x => { x with carried := sat32 x.carried }) s,
      ch.foldl (fun caps c => modAt caps c.1 fun k => { k with blocked := true }) caps)

def State.dispatchAll (s : State) (n : Nat) (caps : List Capacity) : List (Nat × Task) → State
  | [] => s
  | (i, t) :: rest =>
    let r := s.dispatchOne n caps i t
    r.1.dispatchAll n r.2 rest

/-- Priority descending, then ready stamp ascending. -/
def taskBefore (a b : Nat × Task) : Bool :=
  decide (b.2.prio < a.2.prio) || (a.2.prio == b.2.prio && decide (a.2.stamp ≤ b.2.stamp))

/-- The dispatch pass of B(n). -/
def State.dispatch (s : State) (n : Nat) (tbs : List TbSnap) : State :=
  let heads := s.hop.tasks.map fun (e : Nat × Task) => if s.isHead e then (e.1, s.examine n tbs e.2) else e
  let s := { s with hop.tasks := heads }
  let eligible := sortBy taskBefore (heads.filter fun e => e.2.st == .due && s.isHead e)
  let caps := (List.range 2).map fun r => Capacity.mk 32 224 (!s.regionUp r)
  let s := s.dispatchAll n caps eligible
  { s with hop.senses := s.hop.senses.filter fun e => decide (n * 4096 ≤ e.stamp) }

end Sys2Proof.Machine
end

