-- ==== Sys2Proof/Machine/MemOps.lean ====
section
/-! DEFINITION. Banks of system SRAM and shared scratch: locks, requests, power states (chapter 19). Banks 0 to 7 are system SRAM,
8 to 11 shared scratch. -/
namespace Sys2Proof.Machine

def State.bank (s : State) (b : Nat) : BankPower := s.mem.banks.getD b .on

def State.setBank (s : State) (b : Nat) (p : BankPower) : State := { s with mem.banks := s.mem.banks.set b p }

/-- State code of a bank as MEM_STATE shows it (R585): the state in force until an exit has ended. -/
def bankCode (b : BankPower) : Nat :=
  match b with
  | .on => 0
  | .clearing => 0
  | .retention => 1
  | .exiting => 1
  | .off => 2
  | .powering => 2

/-! ### Locks (R584) -/

/-- System SRAM locks: the firmware's own banks, and all of them during steps 5 and 6 of a handover, until its anchor is written. -/
def State.sysLock (s : State) : Nat :=
  if s.host.hoStep = 5 ∨ (s.host.hoStep = 6 ∧ s.fw.anchorDue) then 0xFF else Config.sysLock.toNat

/-- A word of the staging area, shared-scratch banks 2 and 3 (R584), cannot be read: the work of a command that stages its data
there fails (R325; which of its words the work reads is not stated, so any does, log 79). -/
def State.scratchFails (s : State) : Bool := s.mem.badScratch.any fun w => decide (16384 ≤ w)

/-- The staging area is written anew by the next work. -/
def State.scratchRead (s : State) : State := { s with mem.badScratch := s.mem.badScratch.filter fun w => decide (w < 16384) }

/-- The commands that lock scratch banks 2 and 3 while they are outstanding. -/
def scratchUsers : List Nat := [0x30, 0x32, 0x33, 0x50, 0x4E, 0x70]

def State.scratchLock (s : State) : Nat := if scratchUsers.any fun op => (s.jobOf op).isSome then 0xF else 3

/-- Every lock in force. -/
def State.locks (s : State) : Nat := s.sysLock + 0x100 * s.scratchLock

/-- A bank is called on: one in retention or off leaves that state (R582). -/
def State.wakeBank (s : State) (b : Nat) : State :=
  match s.bank b with
  | .retention => s.setBank b .exiting
  | .off => s.setBank b .powering
  | _ => s

/-- Every locked bank is called on; the locks are remembered. -/
def State.applyLocks (s : State) : State :=
  let s := (List.range 12).foldl (fun (s : State) b => if bit s.locks b then s.wakeBank b else s) s
  { s with mem.locked := s.mem.locked ||| s.locks }

/-! ### Contents and requests -/

/-- Words of a bank in its memory: 64 KiB of system SRAM, 32 KiB of scratch. -/
def bankWords (b : Nat) : Nat := if b < 8 then 16384 else 8192

/-- A bank's content is lost (R582). -/
def State.loseBank (s : State) (b : Nat) : State :=
  let keep (base n : Nat) (m : Sparse Word) : Sparse Word := m.filter fun e => decide (e.1 < base ∨ base + n ≤ e.1)
  if b < 8 then { s with mem.sys := keep (b * 16384) 16384 s.mem.sys }
  else { s with
    mem.scratch := keep ((b - 8) * 8192) 8192 s.mem.scratch
    mem.badScratch := s.mem.badScratch.filter fun w => w / 8192 != b - 8 }

/-- The request that a bank's register holds. -/
def State.bankRequest (s : State) (b : Nat) : Nat :=
  if b < 8 then bits (s.regN bMEMCTL 0) (2 * b) 2 else bits (s.regN bMEMCTL 4) (2 * (b - 8)) 2

/-- An unlocked bank takes its request at a boundary; one that is off leaves that state only to be on (R582). -/
def State.takeRequest (s : State) (b : Nat) : State :=
  if bit s.locks b then s.wakeBank b
  else match s.bankRequest b with
    | 0 => s.wakeBank b
    | 1 => if s.bank b = .off then s else s.setBank b .retention
    | 2 => (s.setBank b .off).loseBank b
    | _ => s

/-- A boundary: banks whose request register was written, and banks whose lock was released since the last one. -/
def State.memBoundary (s : State) (written : List Nat) : State :=
  let released (b : Nat) : Bool := bit s.mem.locked b && !bit s.locks b
  let asked (b : Nat) : Bool := written.contains (if b < 8 then 0 else 4)
  let s := (List.range 12).foldl (fun (s : State) b => if released b || asked b then s.takeRequest b else s) s
  ({ s with mem.locked := 0 }).applyLocks

/-- An access wakes a bank that is in retention or off, and WAKES counts (R583). -/
def State.accessBank (s : State) (b : Nat) : State :=
  match s.bank b with
  | .retention => (s.wakeBank b).countReg bMEMCTL 0x10 16 16 1
  | .off => (s.wakeBank b).countReg bMEMCTL 0x10 16 16 1
  | _ => s

/-- ACCEPTED, and the work is outstanding (R413); the banks it needs are locked. -/
def State.deferWork (s : State) (c : Cmd) : State := (s.defer c).applyLocks

end Sys2Proof.Machine
end

