-- ==== Sys2Proof/Machine/TimerOps.lean ====
section
/-! DEFINITION. Timer units and clusters: steps, compares, clusters, releases and image writes (chapter 17). -/
namespace Sys2Proof.Machine

/-! ### Registers of a unit and of a cluster (R554) -/

def tmrReg (u r : Nat) : Nat := 0x40 + 0x40 * u + r
def tclReg (c r : Nat) : Nat := 0x140 + 0x20 * c + r

def State.tmrN (s : State) (u r : Nat) : Nat := s.regN bTIMER (tmrReg u r)
def State.tclN (s : State) (c r : Nat) : Nat := s.regN bTIMER (tclReg c r)

def State.unit (s : State) (u : Nat) : TimerUnit := s.tmr.getD u TimerUnit.reset
def State.cluster (s : State) (c : Nat) : TimerCluster := s.tcl.getD c TimerCluster.reset

/-- TMR_EVENT bit k sets (R543). -/
def State.timerEvent (s : State) (k : Nat) : State := s.setReg bTIMER 0xC (setBit (s.reg bTIMER 0xC) k)

/-! ### Clusters (R547 to R550) -/

/-- The output o of a cluster and the level on its pin (R548). -/
def State.clusterLevel (s : State) (c : Nat) : Bool :=
  let k := s.cluster c
  let ctrl := s.tclN c 0
  let count := s.tclN c 0xC
  let d := min (s.tclN c 8) (s.tclN c 4)
  let o := bit ctrl 0 && (if k.down then decide (count ≤ d) && decide (0 < d) else decide (count < d))
  match k.overridden with
  | some x => x
  | none => o != bit ctrl 4

/-- The held SYNC values take effect (R550). -/
def State.takeHeld (s : State) (c : Nat) : State :=
  let k := s.cluster c
  let s := match k.heldReload with
    | some x => s.setReg bTIMER (tclReg c 4) (w32 x)
    | none => s
  let s := match k.heldDuty with
    | some x => s.setReg bTIMER (tclReg c 8) (w32 x)
    | none => s
  { s with tcl := modAt s.tcl c fun k => { k with heldReload := none, heldDuty := none } }

/-- One step of a cluster (R547, R549). -/
def State.clusterStep (s : State) (c : Nat) : State :=
  let k := s.cluster c
  let count := s.tclN c 0xC
  let reload := s.tclN c 4
  let setCount (s : State) (x : Nat) : State := s.setReg bTIMER (tclReg c 0xC) (w32 x)
  let turn (s : State) (d : Bool) : State := { s with tcl := modAt s.tcl c fun k => { k with down := d } }
  let downTo (s : State) (x : Nat) : State :=
    if x = 0 then (((setCount (turn s false) 0)).timerEvent (24 + c)).takeHeld c else setCount (turn s true) x
  if k.down then downTo s (count - 1)
  else if reload ≤ count then downTo s (count - 1)
  else setCount (turn s (decide (reload ≤ count + 1))) (count + 1)

/-- The clusters that count a unit's steps make m of them (R547). -/
def State.stepClusters (s : State) (u : Nat) : Nat → State
  | 0 => s
  | m + 1 =>
    let s := (List.range 3).foldl (fun (s : State) c =>
      if bit (s.tclN c 0) 0 && bits (s.tclN c 0) 1 2 == u then s.clusterStep c else s) s
    s.stepClusters u m

/-! ### Compares (R540 to R543) -/

/-- C after the additions of R542, and how many were made: one for the match, more while the sum lies in (old, new]. -/
def advance (old new interval : Nat) : Nat → Nat → Nat × Nat
  | 0, c => (c, 0)
  | fuel + 1, c =>
    let c' := (c + interval) % 2 ^ 32
    let inside := decide ((c' + 2 * 2 ^ 32 - old - 1) % 2 ^ 32 < (new + 2 ^ 32 - old) % 2 ^ 32)
    if inside then
      let r := advance old new interval fuel c'
      (r.1, r.2 + 1)
    else (c', 1)

/-- A step of unit u from `old` to `new` is judged against compare k; the events that match are returned too. -/
def State.judgeStep (s : State) (u old new : Nat) (k : Nat) : State × Bool :=
  let c := s.tmrN u (0x10 + 8 * k)
  let i := s.tmrN u (0x14 + 8 * k)
  if (c + 2 * 2 ^ 32 - old - 1) % 2 ^ 32 < (new + 2 ^ 32 - old) % 2 ^ 32 then
    let s := s.timerEvent (4 * u + k)
    if i = 0 then (s, true)
    else
      let r := advance old new i 1000 c
      let s := s.setReg bTIMER (tmrReg u (0x10 + 8 * k)) (w32 r.1)
      (if 1 < r.2 then s.countReg bTIMER (tmrReg u 0x30) 16 16 (r.2 - 1) else s, true)
  else (s, false)

/-- The counter of unit u steps by m (R539); answers the compare events raised. -/
def State.unitStep (s : State) (u m : Nat) : State × List Nat :=
  if m = 0 ∨ !bit (s.tmrN u 0) 0 then (s, []) else
  let old := s.tmrN u 8
  let new := (old + m) % 2 ^ 32
  let r := (List.range 4).foldl (fun (acc : State × List Nat) k =>
    let j := acc.1.judgeStep u old new k
    (j.1, if j.2 then acc.2 ++ [4 * u + k] else acc.2)) (s, [])
  (((r.1).setReg bTIMER (tmrReg u 8) (w32 new)).stepClusters u m, r.2)

/-- A write of TMRu_CMPk or TMRu_COUNT matches every compare that equals the count after it (R540): `ks` are the compares
judged. -/
def State.judgeWrite (s : State) (u : Nat) (ks : List Nat) : State × List Nat :=
  let n := s.tmrN u 8
  ks.foldl (fun (acc : State × List Nat) k =>
    let c := acc.1.tmrN u (0x10 + 8 * k)
    let i := acc.1.tmrN u (0x14 + 8 * k)
    if c = n then
      let s := acc.1.timerEvent (4 * u + k)
      (if i = 0 then s else s.setReg bTIMER (tmrReg u (0x10 + 8 * k)) (w32 (c + i)), acc.2 ++ [4 * u + k])
    else acc) (s, [])

/-! ### Prescaler (R537, R538) -/

def State.unitInc (s : State) (u : Nat) : Nat :=
  let i := s.tmrN u 4
  if i = 0 then 2 ^ 32 else i

/-- `edges` source edges at unit u: its phase and the carries (R537). -/
def State.prescale (s : State) (u edges : Nat) : State × Nat :=
  if bit (s.tmrN u 0) 0 then
    let p := (s.unit u).phase + edges * s.unitInc u
    ({ s with tmr := modAt s.tmr u fun x => { x with phase := p % 2 ^ 32 } }, p / 2 ^ 32)
  else (s, 0)

/-! ### Global start (R551) -/

/-- One unit is released. -/
def State.releaseUnit (s : State) (u : Nat) : State :=
  let s := s.setReg bTIMER (tmrReg u 0) (setBit (s.reg bTIMER (tmrReg u 0)) 0)
  { s with tmr := modAt s.tmr u fun x => { x with phase := 0, edges := 0 } }

/-- One cluster is released. -/
def State.releaseCluster (s : State) (c : Nat) : State :=
  let s := s.setReg bTIMER (tclReg c 0) (setBit (s.reg bTIMER (tclReg c 0)) 0)
  let s := s.setReg bTIMER (tclReg c 0xC) 0
  ({ s with tcl := modAt s.tcl c fun k => { k with down := false } }).takeHeld c

/-- The units and clusters of a mask are released, and TMR_GSTAT takes device time. -/
def State.globalStart (s : State) (mask : Nat) : State :=
  let s := (List.range 4).foldl (fun (s : State) u => if bit mask u then s.releaseUnit u else s) s
  let s := (List.range 3).foldl (fun (s : State) c => if bit mask (4 + c) then s.releaseCluster c else s) s
  s.setReg bTIMER 8 (w32 s.time)

/-! ### Registers as they read -/

/-- Live fields of a TIMER register (R554). -/
def State.liveTimer (s : State) (o : Nat) (w : Word) : Word :=
  if o = 0x10 then w32 s.time
  else if o = 0x14 then w32 (s.time / 2 ^ 32)
  else if 0x40 ≤ o ∧ o < 0x140 ∧ o % 0x40 = 0x30 then
    let u := o / 0x40 - 1
    setField (setField w 0 1 (bits (s.tmrN u 0) 0 1)) 1 1 (b2n (s.unit u).held)
  else if 0x140 ≤ o ∧ o < 0x1A0 ∧ o % 0x20 = 0x10 then
    let c := (o - 0x140) / 0x20
    let k := s.cluster c
    w32 (b2n k.down + 2 * b2n (k.heldReload.isSome || k.heldDuty.isSome) + 4 * b2n k.overridden.isSome + 8 * b2n (s.clusterLevel c))
  else w

end Sys2Proof.Machine
end

