-- ==== Sys2Proof/Machine/Registers.lean ====
section
/-! DEFINITION. Register images as IMAGE_READ shows them and as IMAGE_WRITE judges them (11 R406 to R408). -/
namespace Sys2Proof.Machine

/-! ### Values in effect (R408): stored words with their live read-only fields -/

def State.sense (s : State) (c : Nat) : SenseCh := s.sns.getD c SenseCh.reset
def State.uart (s : State) (x : Nat) : Uart := s.uarts.getD x (Uart.reset x)
def State.dac (s : State) (d : Nat) : DacState := s.dacs.getD d (DacState.onCask s.pwr.shadow false d)

/-- A SPARGE channel is enabled. -/
def State.senseOn (s : State) (c : Nat) : Bool := bit (s.regN bSPARGE 0) c

def State.liveUart (s : State) (x o : Nat) (w : Word) : Word :=
  let u := s.uart x
  if o = 0x10 then setField (setField w 0 1 (b2n u.de)) 1 1 (b2n u.de) else w

def State.liveSparge (s : State) (o : Nat) (w : Word) : Word :=
  let each (f : SenseCh → Bool) : Nat := packBits ((List.range 8).map fun c => f (s.sense c))
  if o = 0x30 then
    w32 (each (fun h => h.valid) + 0x100 * each (fun h => (h.thr.getD 0 Threshold.out).isIn)
      + 0x10000 * each (fun h => (h.thr.getD 1 Threshold.out).isIn) + 0x1000000 * each (fun h => h.ovl))
  else if o = 0x38 then setField w 0 2 (b2n (nthB s.prof 0) + 2 * b2n (nthB s.prof 1))
  else if 0x40 ≤ o ∧ o % 0x20 = 0x10 then w32i (s.sense ((o - 0x40) / 0x20)).fine
  else if 0x40 ≤ o ∧ o % 0x20 = 0x14 then w32i (s.sense ((o - 0x40) / 0x20)).coarse
  else w

def State.liveDac (s : State) (o : Nat) (w : Word) : Word :=
  if o = 4 then
    w32 (packBits ((List.range 4).map fun d => (s.dac d).cask) + 0x10 * packBits ((List.range 4).map fun d => (s.dac d).faulted))
  else if o < 0x10 then w
  else
    let d := s.dac ((o - 0x10) / 0x20)
    match (o - 0x10) % 0x20 with
    | 0x0C => setField w 0 7 d.queue.length
    | 0x1C => setField w 0 12 d.raw
    | _ => w

def State.liveTdmo (s : State) (o : Nat) (w : Word) : Word :=
  if o = 0x50 then w32 (packBits [s.tdm.running, s.kiln.safe, s.tdm.restart.isSome]) else w

def State.liveTdmi (s : State) (o : Nat) (w : Word) : Word :=
  if o = 4 then setField w 0 1 (b2n s.tdm.locked) else w

def State.liveGrist (s : State) (o : Nat) (w : Word) : Word :=
  match o with
  | 0x10 => setField w 24 1 (b2n (s.portOn 0))
  | 0x14 => if s.part.variant = .qk1024n then 0 else setField w 24 1 (b2n (s.portOn 1))
  | 0x20 => w32 ((s.limits 0).1 + 0x10000 * (s.limits 0).2)
  | 0x24 => w32 ((s.limits 1).1 + 0x10000 * (s.limits 1).2)
  | 0x28 => w32 ((s.charged 0).1 + 0x10000 * (s.charged 0).2)
  | 0x2C => if s.part.variant = .qk1024n then 0 else w32 ((s.charged 1).1 + 0x10000 * (s.charged 1).2)
  | 0x30 =>
    let primed := (s.hop.tasks.filter fun e => !e.2.primed.isEmpty).length
    w32 (s.openStreams + 0x10000 * primed)
  | 0x38 => setField w 0 11 s.store.bad.length
  | 0x3C => w32 s.store.anchor.generation
  | 0x40 => w32 (s.store.anchor.copy + 2 * s.store.anchor.fwSlot + 4 * s.fw.update + 16 * b2n s.store.anchor.mirrorM1)
  | _ => w

def State.liveChain (s : State) (o : Nat) (w : Word) : Word :=
  match o with
  | 0x38 => w32 s.pwr.shadow.uniqueId.toNat
  | 0x3C => w32 (s.pwr.shadow.uniqueId.toNat / 2 ^ 32)
  | _ => w

def State.liveKiln (s : State) (o : Nat) (w : Word) : Word :=
  match o with
  | 4 => setField (setField w 1 1 (b2n s.latched)) 2 1 (b2n s.kiln.safe)
  | 8 => setField w 0 11 s.kiln.log.length
  | _ => w

def State.liveMemctl (s : State) (o : Nat) (w : Word) : Word :=
  match o with
  | 0x08 => w32 ((List.range 12).foldl (fun acc b => acc + bankCode (s.bank b) * 4 ^ b) 0)
  | 0x0C => w32 (s.sysLock + 0x100 * s.scratchLock)
  | 0x10 => setField w 0 12 (packBits ((List.range 12).map fun b => s.bank b == .clearing))
  | _ => w

def State.liveTimebase (s : State) (o : Nat) (w : Word) : Word :=
  if o < 0x40 then w else
  let n := o / 0x40 - 1
  let k := s.tracker n
  match o % 0x40 with
  | 0x28 => w32 (k.state + 8 * b2n k.reverse + 16 * b2n k.late + 0x100 * k.cause + 0x10000 * (k.pos % 0x10000))
  | 0x2C => w32 (k.losses + 0x10000 * k.lates)
  | 0x30 => w32i k.speed
  | 0x34 =>
    match s.mash.snaps.getLast? with
    | some p => w32i (nthI (p.tbs.getD n TbSnap.off).angles 0 / 2 ^ 32)
    | none => 0
  | _ => w

/-- The value in effect of a register, as IMAGE_READ returns it. -/
def State.liveReg (s : State) (b o : Nat) : Word :=
  let w := s.reg b o
  match b with
  | 0x01 => s.liveTimer o w
  | 0x02 => s.liveUart 0 o w
  | 0x03 => s.liveUart 1 o w
  | 0x04 => s.liveSparge o w
  | 0x05 => s.liveDac o w
  | 0x06 => s.liveTdmo o w
  | 0x07 => s.liveTdmi o w
  | 0x08 => s.liveGrist o w
  | 0x09 => s.liveChain o w
  | 0x0A => s.liveKiln o w
  | 0x0B => s.liveMemctl o w
  | 0x0C => s.liveTimebase o w
  | _ => w

/-! ### The image as it will stand (R407) -/

/-- Register `o` of block `b` after every accepted write, and after the words of `extra`. -/
def State.futureReg (s : State) (b : Nat) (extra : List (Nat × Word)) (o : Nat) : Nat :=
  let ws := ((s.fw.writes.filter fun p => p.block == b && p.off == o).map fun (p : PendingWrite) => p.value)
    ++ ((extra.filter fun e => e.1 == o).map fun (e : Nat × Word) => e.2)
  (ws.foldl (applyAccess (regInfo s.part.variant b o)) (s.reg b o)).toNat

/-- A rule of a block: whether it is broken, and the registers it reads. -/
abbrev RuleBreak := Bool × List Nat

/-- R187 and R149 for tracker t. -/
def tbRules (f : Nat → Nat) (t : Nat) : List RuleBreak :=
  let r (k : Nat) : Nat := f (tbReg t k)
  let src := bits (r 0) 0 3
  let pin := bits (r 0) 4 2
  let teeth := bits (r 4) 0 16
  let gap := bits (r 4) 16 3
  let win := r 8
  let fil := r 0x14
  let fb := (signed 32 (r 0x18)).natAbs
  let edgePins (u : Nat) : List Nat :=
    let w := f (tbReg u 0)
    match bits w 0 3 with
    | 1 => [bits w 4 2]
    | 2 => [bits w 4 2, bits w 4 2 + 1]
    | _ => []
  let others := (List.range 4).filter fun u => u != t
  let usedBy (p : Nat) : Bool := others.any fun u => (edgePins u).contains p
  let srcs := (List.range 4).map fun u => tbReg u 0
  [(decide (3 < src) || (src == 2 && pin % 2 == 1), [tbReg t 0]),
   (src == 1 && (decide (teeth < 3) || decide (1023 < teeth) || decide (teeth < gap + 3)), [tbReg t 0, tbReg t 4]),
   (src == 2 && (decide (teeth < 1) || decide (16384 < teeth)), [tbReg t 0, tbReg t 4]),
   (!(decide (bits win 0 8 < 16) && decide (16 < bits win 8 8) && decide (bits win 8 8 ≤ bits win 16 8)
      && decide (bits win 16 8 < bits win 24 8)), [tbReg t 8]),
   (decide (bits (r 0x10) 0 4 < 1) || decide (8 < bits (r 0x10) 0 4), [tbReg t 0x10]),
   (decide (8 < bits fil 0 4) || decide (8 < bits fil 4 4) || decide (bits fil 8 7 < 1) || decide (64 < bits fil 8 7),
      [tbReg t 0x14]),
   (decide (1000 * 65536 < fb), [tbReg t 0x18]),
   (bits (r 0x20) 0 16 == 0 || bits (r 0x20) 16 16 == 0, [tbReg t 0x20]),
   ((edgePins t).any usedBy, srcs),
   ((src == 1 || src == 2) && bit (r 0) 6 && (usedBy (bits (r 0) 8 2) || (edgePins t).contains (bits (r 0) 8 2)), srcs)]

/-- R288. -/
def State.gristRules (s : State) (f : Nat → Nat) : List RuleBreak :=
  let c := f 0
  let port (p : Nat) : List RuleBreak :=
    let o := 0x10 + 4 * p
    let freq := bits (f o) 0 3
    let used := s.charged p
    let (limit, share) := limitsOf c freq
    let openOn := s.store.streams.any fun st => !st.primed && st.closing.isNone && (nth st.general p != 0 || nth st.share p != 0 || portOf st.addr == p)
    [(decide (4 < freq), [o]),
     (openOn && freq != bits (s.futureReg bGRIST [] o) 0 3, [o]),
     (s.portOn p && (decide (limit < used.1 + used.2) || decide (share < used.2)), [0, o])]
  [(decide (bits c 0 7 < 50) || decide (90 < bits c 0 7) || decide (bits c 8 7 < 5) || decide (25 < bits c 8 7), [0]),
   (decide (bits c 16 8 < 0x40), [0]),
   (decide (20000 < bits (f 4) 0 16), [4])] ++ port 0 ++ port 1

/-- Kinds whose messages can come from a resettable block (R323, R332, R338). -/
def resetKinds : List Nat := [0x03, 0x08, 0x11, 0x12, 0x13, 0x15, 0x18, 0x1B, 0x1C, 0x20, 0x21]
/-- Kinds raised at level code 4, or 5 with a VPE's index. -/
def clusterKinds : List Nat := [0x01, 0x03, 0x09, 0x0E, 0x0F, 0x20, 0x21]
/-- Kinds raised at level codes 3 to 5 inside a region. -/
def regionKinds : List Nat := clusterKinds ++ [0x0A, 0x0B, 0x10]

/-- An action that R332 permits for a kind. -/
def actionPermitted (v : Variant) (k a : Nat) : Bool :=
  match a with
  | 0 => true
  | 1 => !kindReserved k && resetKinds.contains k
  | 2 => !kindReserved k && clusterKinds.contains k
  | 3 => !kindReserved k && v == .qk2048a && regionKinds.contains k
  | 4 => !kindReserved k && k != 0x02 && k != 0x16
  | _ => false

/-- R349. -/
def kilnRules (v : Variant) (f : Nat → Nat) : List RuleBreak :=
  (decide (bits (f 0) 8 8 < 2) || decide (100 < bits (f 0) 8 8), [0]) ::
    (List.range 64).map fun k =>
      let w := f (0x100 + 4 * k)
      (!actionPermitted v k (bits w 0 3)
        || (!kindReserved k && (decide (bits w 4 7 < 1) || decide (100 < bits w 4 7))), [0x100 + 4 * k])

/-- R248 for TDMO_CTRL and TDMI_CTRL. -/
def tdmRules (f : Nat → Nat) : List RuleBreak :=
  [(decide (bits (f 0) 4 3 < 1) || decide (4 < bits (f 0) 4 3) || bits (f 0) 2 2 == 3, [0])]

/-- R573. -/
def uartRules (f : Nat → Nat) : List RuleBreak :=
  [(bits (f 0) 2 2 == 3, [0]),
   (decide (bits (f 4) 0 20 < if bit (f 0) 1 then 118 else 72), [0, 4]),
   (decide (bits (f 0xC) 0 8 < 12), [0xC]),
   (decide (bits (f 0xC) 16 11 < 1) || decide (1024 < bits (f 0xC) 16 11), [0xC])]

/-- R585. -/
def State.memctlRules (s : State) (f : Nat → Nat) : List RuleBreak :=
  let bank (o b lock : Nat) : List RuleBreak :=
    let q := bits (f o) (2 * b) 2
    [(q == 3, [o]), (bit lock b && q != 0, [o])]
  ((List.range 8).flatMap fun b => bank 0 b s.sysLock) ++ ((List.range 4).flatMap fun b => bank 4 b s.scratchLock)
    ++ [(decide (bits (f 0x14) 0 16 < 100) || decide (60000 < bits (f 0x14) 0 16), [0x14])]

/-- R520; P is L1 times M (R501). -/
def State.spargeRules (s : State) (f : Nat → Nat) : List RuleBreak :=
  let st := f 4
  let de := f 8
  let l1 := bits st 0 7
  let m := bits de 0 9
  let out (lo hi x : Nat) : Bool := decide (x < lo) || decide (hi < x)
  let thr (c k : Nat) : List RuleBreak :=
    let o := 0x40 + 0x20 * c + 8 * k
    [(decide (0x7FFF < bits (f o) 16 16), [o]), (bits (f (o + 4)) 8 2 == 3, [o + 4])]
  [(out 2 64 l1 || out 1 256 (bits st 8 9) || out 1 256 (bits st 18 9), [4]),
   (out 1 256 m, [8]),
   (out 64 16384 (l1 * m), [4, 8]),
   (decide (8 < bits de 12 4) || decide (8 < bits de 16 4) || decide (8 < bits de 20 4), [8]),
   (bits (f 0) 8 8 != 0 && !s.agrees 14, [0])]
    ++ (List.range 8).flatMap fun c => thr c 0 ++ thr c 1

/-- R521. A bipolar CENTER of 12 bits always lies in its range. -/
def State.dacRules (s : State) (f : Nat → Nat) : List RuleBreak :=
  (List.range 4).flatMap fun d =>
    let o := 0x10 + 0x20 * d
    [(decide (2047 < bits (f (o + 0x14)) 0 12), [o + 0x14]), (decide (64 ≤ (s.dac d).queue.length), [o + 8])]

/-- R554; the word of TMR_GSTART itself is judged. -/
def State.timerRules (s : State) (f : Nat → Nat) (extra : List (Nat × Word)) : List RuleBreak :=
  let start := (extra.filter fun e => e.1 == 0).map fun (e : Nat × Word) =>
    ((bits e.2.toNat 0 7 == 0 || (e.2.getLsbD 8 && !s.agrees 3), [0]) : RuleBreak)
  start ++ ((List.range 4).map fun u => (decide (5 ≤ bits (f (tmrReg u 0)) 1 3), [tmrReg u 0]))
    ++ (List.range 3).map fun c => (f (tclReg c 4) == 0, [tclReg c 4])

/-- The position in the ring: 0 until the link first enters RUN (R592, R602). -/
def State.ownPosition (s : State) : Nat := if s.chain.enteredRun then bits (s.regN bCHAIN 0x30) 4 2 else 0

/-- Slot t of the timebase broadcast arrives owned by another position (R598). -/
def State.slotTaken (s : State) (t : Nat) : Bool :=
  let w := (nthW s.chain.rxWords (9 + 5 * t)).toNat
  let owner := bits w 0 2
  s.chain.rxGood && bit w 2 && owner != s.ownPosition && (nthW s.chain.rxWords 6).getLsbD owner

/-- R602. -/
def State.chainRules (s : State) (f : Nat → Nat) : List RuleBreak :=
  let st := bits (s.regN bCHAIN 0x30) 0 3
  let send (o : Nat) : RuleBreak :=
    ((List.range 4).any fun b => decide (20 ≤ bits (f o) (8 * b) 5) && decide (bits (f o) (8 * b) 5 ≤ 23), [o])
  let guard (q : Nat) : RuleBreak :=
    let w := f (0x18 + 4 * q)
    (bit w 8 && (bits w 0 5 == 0 || q == s.ownPosition), [0x18 + 4 * q])
  [send 4, send 8, (st != 1 && st != 2, [0]),
   ((List.range 4).any fun t => bit (f 0x10) t && s.slotTaken t, [0x10]),
   ((List.range 4).any fun t => bit (f 0x14) (8 * t) && bits (s.futureReg bTIMEBASE [] (tbReg t 0)) 0 3 != 3, [0x14])]
    ++ (List.range 4).map guard

/-- The rules of a block. -/
def State.blockRules (s : State) (b : Nat) (extra : List (Nat × Word)) : List RuleBreak :=
  let f := s.futureReg b extra
  match b with
  | 0x01 => s.timerRules f extra
  | 0x02 => uartRules f
  | 0x03 => uartRules f
  | 0x04 => s.spargeRules f
  | 0x05 => s.dacRules f
  | 0x06 => tdmRules f
  | 0x07 => tdmRules f
  | 0x08 => s.gristRules f
  | 0x09 => s.chainRules f
  | 0x0A => kilnRules s.part.variant f
  | 0x0B => s.memctlRules f
  | 0x0C => (List.range 4).flatMap (tbRules f)
  | _ => []

/-- The RO fields, as low bit and width, of the registers that hold other fields too. -/
def roFields (v : Variant) (b o : Nat) : List (Nat × Nat) :=
  if b = bGRIST ∧ (o = 0x10 ∨ o = 0x14) then [(8, 5), (16, 5), (24, 1)]
  else if b = bTDMI ∧ o = 4 then [(0, 1), (16, 16)]
  else if (b = bUART0 ∨ b = bUART1) ∧ o = 0x10 then [(0, 1), (1, 1)]
  else if b = bTDMO ∧ o = 0 ∧ v = .qk1024n then [(16, 4)]
  else []

/-- A word writes an RO field (R407): a field whose written value differs from 0 and from its present value, or any word of a
register whose fields are all RO. -/
def State.roBroken (s : State) (b : Nat) (e : Nat × Word) : Bool :=
  let i := regInfo s.part.variant b e.1
  let now := (s.liveReg b e.1).toNat
  (i.ro != 0 && i.rw == 0 && i.w1c == 0 && i.wo == 0)
    || (roFields s.part.variant b e.1).any fun f =>
      bits e.2.toNat f.1 f.2 != 0 && bits e.2.toNat f.1 f.2 != bits now f.1 f.2

/-- The words of an IMAGE_WRITE with their offsets. -/
def writeWords (off : Nat) (ws : List Word) : List (Nat × Word) :=
  (List.range ws.length).map fun i => (off + 4 * i, nthW ws i)

/-- The index of the first offending payload word, none where the write stands (R392, R407). -/
def State.imageFault (s : State) (b off : Nat) (ws : List Word) : Option Nat :=
  let size := imageSize b
  if off % 4 ≠ 0 then some 0
  else if size < off + 4 * ws.length then some (1 + (size - off) / 4)
  else
    let extra := writeWords off ws
    let offs := extra.map fun (e : Nat × Word) => e.1
    let broken := (s.blockRules b extra).filter fun r => r.1 && r.2.any fun o => offs.contains o
    let ro := (extra.filter (s.roBroken b)).map fun (e : Nat × Word) => e.1
    match (List.range ws.length).find? fun i => ro.contains (off + 4 * i) || broken.any fun r => r.2.contains (off + 4 * i) with
    | some i => some (1 + i)
    | none => none

end Sys2Proof.Machine
end

