-- ==== Sys2Proof/Machine/CopperFrame.lean ====
section
/-! DEFINITION. The Copper's sample-frame boundary, its interrupt and its trap (13 R451, R452, R466, R471, R475, R480). -/
namespace Sys2Proof.Machine

/-! ### The order of sample frames -/

/-- The sample frame whose turn it is, for a stage that last served frame `last`: the next one, never before the block that
has begun nor beyond it. -/
def State.frameTurn (s : State) (last : Nat) : Option Nat :=
  let f := max (last + 1) (16 * s.lastBlock)
  if s.isReady && decide (f < 16 * s.lastBlock + 16) then some f else none

/-- Device time has reached sample frame f. -/
def State.atFrame (s : State) (f : Nat) : State := { s with time := max s.time (f * 256) }

/-! ### The bus as the Copper and the direct lanes see it (R474, R595) -/

/-- Sample x of a channel's bus output (R229); 0 where no block was formed. -/
def State.busAt (s : State) (x ch : Nat) : Int :=
  match s.mash.wort.find? fun b => b.block == x / 16 with
  | some b => nthI b.vals (ch * 16 + x % 16)
  | none => 0

/-- Sample x of a channel's 96 kHz sequence: the bus output, with the pilot where its block carries one (R525). -/
def State.wortAt (s : State) (x ch : Nat) : Int :=
  if s.mash.wort.any fun b => b.block == x / 16 && b.pilot == some ch then sat31 (s.busAt x ch + pilotAt x) else s.busAt x ch

/-- The sample that frame g presents. -/
def State.presented (s : State) (g ch : Nat) : Int :=
  if g < 32 + s.depth then 0 else s.wortAt (g - 32 - s.depth) ch

/-! ### TDM inputs as a frame presents them (R243, R245) -/

/-- Sample frames for which an input frame stands. -/
def State.inSpan (s : State) : Nat := if bit (s.regN bTDMI 0) 1 then 2 else 1

/-- The words of the input frame that sample frame g presents: by the assignment fixed at lock, else the last complete one. -/
def State.inputWords (s : State) (g : Nat) : List Word :=
  let t := s.tdm
  if !t.locked || decide (g < t.inPhase) then t.inPrev
  else if (g - t.inPhase) / s.inSpan < t.inFrame then t.inPrev else t.inLast

/-- Slot `k` of input lane `l` as a frame presents it; 0 for a lane that is not enabled. -/
def State.inputSlot (s : State) (ws : List Word) (l k : Nat) : Word :=
  let ctrl := s.regN bTDMI 0
  if bit ctrl 0 && bit ctrl (12 + l) then nthW ws (16 * l + k) else 0

/-! ### The input registers (R473) -/

/-- SNS_STAT. -/
def State.snsStat (s : State) : Nat :=
  let each (f : SenseCh → Bool) : Nat := packBits ((List.range 8).map fun c => f (s.sense c))
  each (fun h => h.valid) + 0x100 * each (fun h => (h.thr.getD 0 Threshold.out).isIn)
    + 0x10000 * each (fun h => (h.thr.getD 1 Threshold.out).isIn)

/-- TDMI_STAT of the I/O space. -/
def State.tdmiStat (s : State) : Nat := b2n s.tdm.locked + 2 * b2n (bit (s.regN bTDMI 0) 1)

/-- A crossfade is in progress in the coming frame (R480). -/
def Copper.fading (c : Copper) : Bool := match c.fade with
  | some x => decide (x.t + 1 < x.len)
  | none => false

/-- COP_STAT. -/
def Copper.stat (c : Copper) : Nat := b2n c.first + 2 * b2n c.fading + 0x100 * c.overruns + 0x10000 * c.traps

/-- The RO input registers of frame f, by address, those that are not 0. -/
def State.latched? (s : State) (f : Nat) : Sparse Word :=
  let ws := s.inputWords f
  let wort := (List.range 32).map fun k => (k, w32i (s.presented f k))
  let tdmi := (List.range 32).map fun k => (0x20 + k, s.inputSlot ws (k / 16) (k % 16))
  let fine := (List.range 8).map fun c => (0x88 + c, w32i (s.sense c).fine)
  let coarse := (List.range 8).map fun c => (0x90 + c, w32i (s.sense c).coarse)
  let t := f * 256
  let last := [(0x98, w32 s.snsStat), (0xA0, w32 t), (0xA1, w32 (t / 2 ^ 32)), (0xA2, w32i ((f : Int) - 32 - s.depth)),
    (0xA3, w32 s.tdmiStat), (0xA4, w32 s.cop.stat), (0xA7, w32 (s.cop.used + 0x10000 * s.cop.usedMax))]
  (wort ++ tdmi ++ fine ++ coarse ++ last).filter fun e => e.2 != 0

/-! ### The four steps of R451 -/

/-- The pass that ends: its cycles, and the overrun of a core that has not reached its `wfr` (R452, R453). -/
def Copper.endPass (c : Copper) : Copper :=
  let used := min c.cycles 4608
  let c := { c with used := used, usedMax := max c.usedMax used, cycles := 0 }
  if c.hasProg && !c.wait && !c.trapped then
    { c with sr := srPut c.sr 7 true, overruns := satAdd 8 c.overruns 1, missed := c.missed + 1 }
  else c

/-- FAST of slot k (lane k / 16). -/
def Copper.isFast (c : Copper) (k : Nat) : Bool := (nthW c.fast (k / 32)).getLsbD (k % 32)

/-- Step 1: the slot values of pass f - 1 are handed over, each due one frame or one block later (R475). -/
def Copper.handOver (c : Copper) (f : Nat) : Copper :=
  let new := (List.range 64).map fun k =>
    (if c.isFast k then (f, k, true, nthW c.slots k) else (f + 15, k, false, nthW c.slots k))
  { c with outq := (c.outq.filter fun e => decide (f ≤ e.1)) ++ new }

/-- Step 2: the inputs are latched; the sources of R470 that a latch or a boundary sets. -/
def State.latchInputs (s : State) (f : Nat) : State :=
  let old := s.cop.inputs
  let new := s.latched? f
  let at' (m : Sparse Word) (a : Nat) : Nat := (sget (fun _ => 0) m a).toNat
  let sense := bits (at' old 0x98) 8 16 != bits (at' new 0x98) 8 16
  let lock := bit (at' old 0xA3) 0 != bit (at' new 0xA3) 0
  let set := packBits [f % 16 == 0, !s.cop.params.isEmpty, sense, lock]
  { s with cop.inputs := new, cop.irqPend := s.cop.irqPend ||| BitVec.ofNat 4 set, cop.first := false, cop.frame := f }

/-- A COPPER_PARAM word enters its memory; inside the region of a crossfade it ends that word's crossfade (R481). -/
def Copper.applyParam (c : Copper) (p : Bool × Nat × Word) : Copper :=
  if p.1 then c.yPut p.2.1 p.2.2
  else
    let c := c.xPut p.2.1 p.2.2
    match c.fade with
    | some x =>
      if x.base ≤ p.2.1 ∧ p.2.1 < x.base + x.news.length then
        { c with fade := some { x with olds := x.olds.set (p.2.1 - x.base) p.2.2.toInt, news := x.news.set (p.2.1 - x.base) p.2.2.toInt } }
      else c
    | none => c

/-- Step 3. -/
def Copper.applyParams (c : Copper) : Copper :=
  let n := c.params.length
  let c := c.params.foldl Copper.applyParam c
  { c with params := [], cycles := c.cycles + n }

/-- The value of step t of a crossfade of F frames, truncated toward zero (R480). -/
def fadeValue (old new : Int) (t len : Nat) : Word :=
  if len = 0 then w32i new else w32i (old + ((new - old) * ((t : Int) + 1)).tdiv (len : Int))

/-- Step 4. -/
def Copper.fadeStep (c : Copper) : Copper :=
  match c.fade with
  | none => c
  | some x =>
    let n := x.news.length
    let ws := (List.range n).map fun k => fadeValue (nthI x.olds k) (nthI x.news k) x.t x.len
    let next := if x.t + 1 < x.len then some { x with t := x.t + 1 } else none
    { c with x := sputs (fun _ => 0) c.x x.base ws, cycles := c.cycles + n, fade := next }

/-- The new pass: a core that trapped, or that a swap started, begins at word 0; one in `wfr` goes on after it. -/
def Copper.beginPass (c : Copper) : Copper :=
  if !c.hasProg then c
  else if c.trapped then c.restart
  else if c.wait then { c.finish {} with wait := false }
  else c

/-- COPPER_FRAME (R451). -/
def State.copperFrame (s : State) : State :=
  if !s.cop.on || s.kiln.halted then s
  else match s.frameTurn s.cop.frame with
    | none => s
    | some f =>
      let s := s.atFrame f
      let s := { s with cop := (s.cop.endPass).handOver f }
      let s := (s.latchInputs f).coresLeave
      { s with cop := ((s.cop.applyParams).fadeStep).beginPass }

def execCopperFrame (s : State) : Host.Outcome State Fault Refusal :=
  s.done s.copperFrame

/-- COPPER_INTERRUPT (R471). -/
def State.copperInterrupt (s : State) : State :=
  if !s.isReady || s.kiln.halted || !s.cop.accepts then s
  else match s.cop.source with
    | some k => { s with cop := s.cop.enter k }
    | none => s

def execCopperInterrupt (s : State) : Host.Outcome State Fault Refusal :=
  s.done s.copperInterrupt

/-- COPPER_TRAP (R466): the word at the program counter is reserved, or lies at or beyond PWORDS. -/
def execCopperTrap (s : State) : Host.Outcome State Fault Refusal :=
  s.done (if s.isReady && !s.kiln.halted && s.cop.runs && s.cop.current.isNone then { s with cop := s.cop.trap } else s)

end Sys2Proof.Machine
end

