-- ==== Sys2Proof/Machine/Sparge.lean ====
section
/-! DEFINITION. The Sparge chain: stages, fine path, thresholds and profiles (15 R499 to R513). -/
namespace Sys2Proof.Machine

/-! ### Settings (R501, R502, R520) -/

def State.snsL1 (s : State) : Nat := bits (s.regN bSPARGE 4) 0 7
def State.snsL2 (s : State) : Nat := bits (s.regN bSPARGE 4) 8 9
def State.snsL3 (s : State) : Nat := bits (s.regN bSPARGE 4) 18 9
def State.snsM (s : State) : Nat := bits (s.regN bSPARGE 8) 0 9
/-- Modulator clocks between fine-path inputs. -/
def State.snsP (s : State) : Nat := s.snsL1 * s.snsM
def State.snsShift (s : State) (stage : Nat) : Nat := bits (s.regN bSPARGE 8) (8 + 4 * stage) 4
def State.snsLegacy (s : State) (c : Nat) : Bool := bit (s.regN bSPARGE 0) (8 + c)
def State.snsComp (s : State) (c : Nat) : Bool := bit (s.regN bSPARGE 0) (16 + c)

/-- SPARGE is under block reset (R338). -/
def State.spargeReset (s : State) : Bool := s.kiln.windows.any fun w => w.target == 8 && w.inReset

/-- The channel converts. -/
def State.snsRuns (s : State) (c : Nat) : Bool :=
  s.isReady && decide (c < 8) && s.unitOn 5 && s.senseOn c && !s.spargeReset

def State.setSense (s : State) (c : Nat) (h : SenseCh) : State := { s with sns := s.sns.set c h }

/-! ### Stages (R502) -/

/-- The result of a stage on the sum of its inputs. -/
def stageOut (legacy : Bool) (len shift : Nat) (sum : Int) : Int :=
  sat31 (if legacy then sum / 2 ^ shift else rndDiv sum (max 1 len : Nat))

/-- Sum of the newest `n` of a history, newest first; what lies before alignment is 0. -/
def sumNewest (n : Nat) (l : List Int) : Int := (l.take n).foldl (· + ·) 0

/-- The Cask trim of a value (R499). -/
def State.snsTrim (s : State) (c : Nat) (x : Int) : Int :=
  sat31 (rndShift ((x + nthI s.pwr.shadow.senseOfs c) * nthI s.pwr.shadow.senseGain c) 30)

/-- The modulator clock at which stage-1 group k of channel c completes (R503). -/
def State.groupEnd (s : State) (c k : Nat) : Nat := (s.sense c).align + 8 * c + (k + 1) * s.snsL1

/-- The first stage-1 group that begins at or after a modulator clock. -/
def State.groupFrom (s : State) (c clock : Nat) : Nat :=
  let base := (s.sense c).align + 8 * c
  let len := max 1 s.snsL1
  if clock ≤ base then 0 else (clock - base + len - 1) / len

/-! ### Fine path (R505, R507) -/

/-- sinc × window at k - q / 256 (R505), before normalisation. -/
def fineKernelRaw (k : Int) (q : Nat) : Int :=
  let x := k * 256 - (q : Int)
  if x = 0 then fpBessel (9 * fpOne)
  else
    let sinAbs := fpSin (fpPi * (q : Int) / 256)
    let sinc := (if k % 2 = 0 then -sinAbs else sinAbs) * 256 * fpOne / (fpPi * x)
    sinc * fpBessel (9 * fpOne - 9 * (x * x) * fpOne / (16 * 256 * 256)) / fpOne

/-- The stored taps of phase q of 256. -/
def fineKernelPhase (q : Nat) : List Int :=
  if q = 0 then [0, 0, 0, 0x7FFFFFFF, 0, 0, 0, 0]
  else if 256 ≤ q then [0, 0, 0, 0, 0x7FFFFFFF, 0, 0, 0]
  else storedTaps ((List.range 8).map fun (i : Nat) => fineKernelRaw ((i : Int) - 3) q)

/-- Kept stage-3 outputs so far: those of stage-1 index 0, M, 2M and on (R503). -/
def State.keptCount (s : State) (h : SenseCh) : Nat := (h.groups + s.snsM - 1) / max 1 s.snsM

/-- y[i]; 0 before alignment. -/
def State.keptAt (s : State) (h : SenseCh) (i : Int) : Int :=
  let n : Int := s.keptCount h
  if i < 0 ∨ n ≤ i then 0 else nthI h.y (n - 1 - i).toNat

/-- Where frame f lies in y: index and fraction (R505); the fraction is a numerator over P. -/
def State.fineIndex (s : State) (c f : Nat) : Int × Int :=
  let p : Int := max 1 s.snsP
  let e : Int := (f : Int) * 64 - 56 - 4 * p
  let x := e - (s.sense c).align - (if s.snsComp c then 8 * (c : Int) else 0) - p
  (x / p, x % p)

/-- The fine value of a channel for sample frame f, trimmed; 0 for a channel that is off. -/
def State.fineAt (s : State) (c f : Nat) : Int :=
  if !s.senseOn c then 0 else
  let h := s.sense c
  let p : Int := max 1 s.snsP
  let (i, rem) := s.fineIndex c f
  let q := (rem * 256 / p).toNat
  let fr := rem * 256 % p
  let a := fineKernelPhase q
  let b := if fr = 0 then a else fineKernelPhase (q + 1)
  let acc := (List.range 8).foldl (fun (acc : Int) k =>
    acc + (nthI a k * p + (nthI b k - nthI a k) * fr) * s.keptAt h (i + k - 3)) 0
  s.snsTrim c (sat31 (rndDiv acc (p * 2 ^ 31)))

/-- The eight taps of frame f depend only on groups after the last clearing event (R507). -/
def State.fineClean (s : State) (c f : Nat) : Bool :=
  let h := s.sense c
  let i := (s.fineIndex c f).1
  decide (3 ≤ i) && decide (i + 4 < s.keptCount h)
    && decide (h.clean + s.snsL2 + s.snsL3 ≤ (i - 3).toNat * s.snsM + 2)

/-! ### Thresholds (R509, R510) -/

def State.thrLvl (s : State) (c k : Nat) : Nat := s.regN bSPARGE (0x40 + 0x20 * c + 8 * k)
def State.thrCfg (s : State) (c k : Nat) : Nat := s.regN bSPARGE (0x44 + 0x20 * c + 8 * k)
def SenseCh.thrOf (h : SenseCh) (k : Nat) : Threshold := h.thr.getD k Threshold.out

/-- The dwell count of threshold k has completed. -/
def State.thrDue (s : State) (c k : Nat) : Bool :=
  decide (max 1 (bits (s.thrCfg c k) 16 16) ≤ ((s.sense c).thrOf k).dwell)

def State.setThr (s : State) (c k : Nat) (t : Threshold) : State :=
  { s with sns := modAt s.sns c fun h => { h with thr := h.thr.set k t } }

/-- A change of state reaches every route whose bit is set in `cfg` (R510). -/
def State.thrEvent (s : State) (c k cfg : Nat) (entering : Bool) (stamp : Nat) : State :=
  let s := if entering then s.countReg bSPARGE (0x58 + 0x20 * c) 16 16 1 else s
  let s := if bit cfg 3 then s.setReg bSPARGE 0x34 (setBit (s.reg bSPARGE 0x34) (8 * k + c)) else s
  let s := if bit cfg 4 then { s with hop.senses := s.hop.senses ++ [SenseEvent.mk c k entering stamp] } else s
  if bit cfg 5 then
    s.report (mkMsg 2 (5 + bSPARGE) kSenseEvent (bits cfg 6 2) (c + 8 * k + 16 * b2n entering) 0) 11 0
  else s

/-- The state changes once its dwell count has completed. -/
def State.thrChange (s : State) (c k : Nat) : State :=
  let t := (s.sense c).thrOf k
  if !s.snsRuns c || decide (1 < k) || !s.thrDue c k then s
  else (s.setThr c k { t with isIn := !t.isIn, dwell := 0 }).thrEvent c k (s.thrCfg c k) (!t.isIn) t.stamp

/-- The value meets the condition that threshold k waits for (R509). -/
def thrMeets (lvl cfg : Nat) (isIn : Bool) (x : Int) : Bool :=
  let l := signed 16 (bits lvl 0 16) * 65536
  let h : Int := (bits lvl 16 16 : Nat) * 65536
  match bit cfg 1, isIn with
  | true, false => decide (l < x)
  | true, true => decide (x < sat31 (l - h))
  | false, false => decide (x < l)
  | false, true => decide (sat31 (l + h) < x)

/-- Threshold k is evaluated on a value of its path, complete at `stamp`; a change already due is taken first. -/
def State.thrEval (s : State) (c : Nat) (coarse : Bool) (x : Int) (stamp k : Nat) : State :=
  let s := s.thrChange c k
  let cfg := s.thrCfg c k
  let t := (s.sense c).thrOf k
  if !bit cfg 0 || bit cfg 2 != coarse then s
  else if thrMeets (s.thrLvl c k) cfg t.isIn x then
    let d := t.dwell + 1
    s.setThr c k { t with dwell := d, stamp := if max 1 (bits cfg 16 16) ≤ d then stamp else t.stamp }
  else s.setThr c k { t with dwell := 0 }

/-! ### SPARGE_STAGE1_OUTPUT -/

/-- FINE_VALID clears; groups count again from index k (R507). -/
def SenseCh.unclean (k : Nat) (h : SenseCh) : SenseCh := { h with valid := false, clean := k }

/-- An overload begins: its event bit and its count (R500). -/
def State.overloadStart (s : State) (c : Nat) : State :=
  (s.setReg bSPARGE 0x34 (setBit (s.reg bSPARGE 0x34) (16 + c))).countReg bSPARGE (0x58 + 0x20 * c) 0 16 1

/-- The stages take one stage-1 output. -/
def State.stages (s : State) (c : Nat) (o1 : Int) (h : SenseCh) : SenseCh :=
  let leg := s.snsLegacy c
  let s1 := (o1 :: h.s1).take 256
  let o2 := stageOut leg s.snsL2 (s.snsShift 2) (sumNewest s.snsL2 s1)
  let s2 := (o2 :: h.s2).take 256
  let o3 := stageOut leg s.snsL3 (s.snsShift 3) (sumNewest s.snsL3 s2)
  let y := if h.groups % max 1 s.snsM = 0 then (o3 :: h.y).take 40 else h.y
  { h with s1 := s1, s2 := s2, y := y, groups := h.groups + 1 }

/-- A stage-1 group completes (R500 to R504, R507, R509). -/
def State.stage1 (s : State) (c : Nat) (bs : List Bool) (overload : Bool) : State :=
  let h := s.sense c
  let k := h.groups
  let tick := 4 * s.groupEnd c k
  if !s.snsRuns c || bs.length != s.snsL1 || decide ((s.lastBlock + 1) * 4096 < tick) then s
  else
    let s := { s with time := max s.time tick }
    let sum := bs.foldl (fun (acc : Int) b => if b then acc + 2 ^ 31 else acc - 2 ^ 31) 0
    let plain := stageOut (s.snsLegacy c) s.snsL1 (s.snsShift 1) sum
    let o1 := if overload then (if h.lastOk < 0 then -0x80000000 else 0x7FFFFFFF) else plain
    let coarse := s.snsTrim c o1
    let step := bits (s.regN bSPARGE 0xC) 0 16
    let jumped := decide (0 < k) && decide (step ≠ 0) && decide (step * 65536 < (coarse - h.coarse).natAbs)
    let s := if overload && !h.ovl then s.overloadStart c else s
    let s := if overload then s.diagOverload c else s
    let h := { h with coarse := coarse, ovl := overload, lastOk := if overload then h.lastOk else o1 }
    let h := if overload || jumped then SenseCh.unclean (k + 1) h else h
    let s := s.setSense c (s.stages c o1 h)
    (s.thrEval c true coarse tick 0).thrEval c true coarse tick 1

/-- SPARGE_STAGE1_OUTPUT (R501). -/
def execSpargeStage1Output (c : Nat) (bs : List Bool) (overload : Bool) (s : State) : Host.Outcome State Fault Refusal :=
  s.ends (s.stage1 c bs overload)

/-! ### SPARGE_FINE_VALUE -/

/-- The fine value of the channel's next sample frame (R505, R507, R509). -/
def State.fineValue (s : State) (c : Nat) : State :=
  let h := s.sense c
  if !s.snsRuns c then s else
  match s.frameTurn h.frame with
  | none => s
  | some f =>
    let s := s.atFrame f
    let x := s.fineAt c f
    let valid := h.valid || s.fineClean c f
    let s := (s.setSense c { h with fine := x, valid := valid, frame := f }).diagFrame c f
    if valid then (s.thrEval c false x (f * 256) 0).thrEval c false x (f * 256) 1 else s

/-- SPARGE_FINE_VALUE (R505). -/
def execSpargeFineValue (c : Nat) (s : State) : Host.Outcome State Fault Refusal :=
  s.ends (s.fineValue c)

/-- THRESHOLD_CHANGE (R510). -/
def execThresholdChange (c k : Nat) (s : State) : Host.Outcome State Fault Refusal :=
  s.ends (s.thrChange c k)

/-! ### Boundaries: image writes, resets, profiles -/

/-- Alignment at a boundary: histories 0, FINE_VALID clear (R503, R507). -/
def SenseCh.aligned (clock : Nat) (h : SenseCh) : SenseCh :=
  { SenseCh.reset with align := clock, frame := h.frame, thr := h.thr }

/-- A channel's own part of an applied write, from the image before it (R503, R507, R508, R511). -/
def State.snsApplied (s old : State) (n : Nat) (offs : List Nat) (c : Nat) : State :=
  let clock := n * 1024
  let on := s.senseOn c
  let staged := s.reg bSPARGE 4 != old.reg bSPARGE 4 || s.reg bSPARGE 8 != old.reg bSPARGE 8
  let shaped := s.snsLegacy c != old.snsLegacy c || s.snsComp c != old.snsComp c
  let upd (h : SenseCh) : SenseCh :=
    if !on then { SenseCh.aligned clock h with align := 0 }
    else if !old.senseOn c || staged then SenseCh.aligned clock h
    else if shaped then SenseCh.unclean (s.groupFrom c clock) h
    else h
  let s := { s with sns := modAt s.sns c upd }
  (List.range 2).foldl (fun (s : State) k =>
    let o := 0x40 + 0x20 * c + 8 * k
    if offs.contains o || offs.contains (o + 4) then
      let t := (s.sense c).thrOf k
      let was := old.thrCfg c k
      if t.isIn && bit was 0 && !bit (s.thrCfg c k) 0 then
        (s.setThr c k ⟨false, 0, n * 4096⟩).thrEvent c k was false (n * 4096)
      else s.setThr c k { t with dwell := 0 }
    else s) s

/-- Words of the SPARGE image were applied at B(n). -/
def State.spargeApplied (s old : State) (n : Nat) (offs : List Nat) : State :=
  (List.range 8).foldl (fun (s : State) c => s.snsApplied old n offs c) s

/-- SPARGE enters its block reset: values and states hold, FINE_VALID clears (R338, R507, R511). -/
def State.spargeStop (s : State) : State := { s with sns := s.sns.map fun (h : SenseCh) => { h with valid := false, clean := h.groups } }

/-- SPARGE leaves its block reset at B(n) or between: channels align at the boundary before, dwell counts restart (R511). -/
def State.spargeRestart (s : State) (n : Nat) : State :=
  let upd (h : SenseCh) : SenseCh :=
    { SenseCh.aligned (n * 1024) h with
      fine := h.fine
      coarse := h.coarse
      thr := h.thr.map fun (t : Threshold) => { t with dwell := 0 } }
  { s with sns := s.sns.map upd }

/-- Threshold k is in at B(n), counting events stamped before it (R512). -/
def State.thrInAt (s : State) (c k n : Nat) : Bool :=
  let t := (s.sense c).thrOf k
  if s.thrDue c k || decide (t.stamp < n * 4096) then t.isIn else !t.isIn

/-- Changes due with a stamp before B(n) are taken. -/
def State.thrSettle (s : State) (n : Nat) : State :=
  (List.range 16).foldl (fun (s : State) i =>
    if s.thrDue (i / 2) (i % 2) && decide (((s.sense (i / 2)).thrOf (i % 2)).stamp < n * 4096) then s.thrChange (i / 2) (i % 2)
    else s) s

/-- A profile is active at B(n): 1 crank, 2 dump. -/
def State.profActive (s : State) (p n : Nat) : Bool :=
  s.unitOn 5 && (List.range 16).any fun i => bits (s.thrCfg (i / 2) (i % 2)) 8 2 == p && s.thrInAt (i / 2) (i % 2) n

/-- A profile's gain of a level (R512). -/
def State.profGain (s : State) (p level : Nat) : Nat :=
  min 0x8000 (bits (s.regN bSPARGE (0x10 * p + 4 * (level / 2))) (16 * (level % 2)) 16)

/-- The profiles of B(n) and the gains pg of R513. -/
def State.profiles (s : State) (n : Nat) : State :=
  let now := [s.profActive 1 n, s.profActive 2 n]
  let new := ((List.range 2).filter fun i => nthB now i && !nthB s.prof i).length
  let gain (level : Nat) : Nat :=
    (List.range 2).foldl (fun g i => if nthB now i then min g (s.profGain (i + 1) level) else g) (nth s.hop.hostGain level)
  let s := if new = 0 then s else s.countReg bSPARGE 0x38 16 16 new
  { s with
    prof := now
    hop.pgPrev := s.hop.pg
    hop.pg := (List.range 8).map gain }

end Sys2Proof.Machine
end

