-- ==== Sys2Proof/Machine/Chain.lean ====
section
/-! DEFINITION. The chain link: election, frames, partner channels, time adoption, takeover (chapter 20). -/
namespace Sys2Proof.Machine

/-! ### The link -/

/-- CHAIN_STAT.STATE (R593). -/
def State.linkState (s : State) : Nat := bits (s.regN bCHAIN 0x30) 0 3

/-- CHAIN_STAT field [lo + n - 1 : lo] takes x. -/
def State.setLink (s : State) (lo n x : Nat) : State := s.setReg bCHAIN 0x30 (setField (s.reg bCHAIN 0x30) lo n x)

/-- Frames flow: CHAIN is in force and the link is not OFF. -/
def State.linkOn (s : State) : Bool := s.isReady && s.unitOn 3 && s.linkState != 0

/-- The link whose target of R444 this is, 4 up and 5 down, is under block reset (R338). -/
def State.linkReset (s : State) (target : Nat) : Bool := s.kiln.windows.any fun w => w.target == target && w.inReset

/-- A reset of either chain link, or the window after it, is open (R600). -/
def State.linkWindow (s : State) : Bool := s.kiln.windows.any fun w => w.target == 4 || w.target == 5

/-- Hops from position q to this device (R590). -/
def State.hopsFrom (s : State) (q : Nat) : Nat := (s.ownPosition + s.chain.ringN + 1 - q) % (s.chain.ringN + 1)

/-- Position q is another device of the ring; none is known before the first entry to RUN (R592). -/
def State.partner (s : State) (q : Nat) : Bool :=
  s.chain.enteredRun && q != s.ownPosition && decide (q ≤ s.chain.ringN)

def ownId (s : State) : BitVec 64 := s.pwr.shadow.uniqueId

/-- The election words the device offers (R591): the lower ID, hops, N - 1. -/
def State.offer (s : State) : Elect :=
  match s.chain.heard with
  | none => ⟨ownId s, 0, s.chain.ringN⟩
  | some e =>
    if (ownId s).toNat ≤ e.id.toNat then
      ⟨ownId s, 0, if s.chain.enteredRun || ownId s != e.id then s.chain.ringN else e.hops⟩
    else ⟨e.id, (e.hops + 1) % 4, if s.chain.enteredRun then s.chain.ringN else e.n⟩

/-! ### Frames (R589) -/

/-- CRC-16 of words 0 to 62, each most significant byte first (R567, R587, R589). -/
def chainCrc (ws : List Word) : Nat := crc16 ((ws.take 63).flatMap beBytes)

/-- A received frame is good: inside the window of R588, whole, with the sync field and its CRC. -/
def chainGood (words : List Word) (inWindow : Bool) : Bool :=
  inWindow && words.length == 64 && bits (nthW words 0).toNat 16 16 == 0xC3A5
    && bits (nthW words 63).toNat 0 16 == chainCrc words

/-- Byte q of a word. -/
def byteOf (w : Word) (q : Nat) : Nat := bits w.toNat (8 * q) 8

/-- The words that group q forwards of the last received frame, while that frame allows it (R590). -/
def State.forwards (s : State) (f q : Nat) : Bool :=
  s.chain.rxGood && s.chain.rxFrame + 1 == f && (nthW s.chain.rxWords 6).getLsbD q && q != s.ownPosition

/-- The own mix group of frame f: nominal frame f - 32 of the channels that CHAIN_SEND names (R596); zeros in the safe state (R600). -/
def State.ownMix (s : State) (f : Nat) : List Word :=
  (List.range 8).map fun k =>
    let b := bits (s.regN bCHAIN (4 + 4 * (k / 4))) (8 * (k % 4)) 8
    if s.kiln.safe || !bit b 7 || decide (f < 32) then 0 else w32i (s.busAt (f - 32) (b % 32))

/-- Slot t of the timebase broadcast in frame f: the block's snapshot of the own timebase, or the forwarded slot (R590, R598). -/
def State.tbSlot (s : State) (f t : Nat) : List Word :=
  let rx := (List.range 5).map fun i => nthW s.chain.rxWords (9 + 5 * t + i)
  let none5 : List Word := [0, 0, 0, 0, 0]
  if bit (s.regN bCHAIN 0x10) t then
    match s.mash.snaps.find? fun p => p.block == f / 16 with
    | some p =>
      let x := p.tbs.getD t TbSnap.off
      let a := nthI x.angles 0
      [w32 (s.ownPosition + 4 + 8 * b2n (x.state == 3) + 256 * (f / 16)), w32i a, w32i (a / 2 ^ 32), w32i x.speed, w32i x.accel]
    | none => none5
  else if s.forwards f (bits (nthW rx 0).toNat 0 2) then rx
  else none5

/-- The frame of sample frame f, with the own global-start byte. -/
def State.chainFrame (s : State) (f start : Nat) : List Word :=
  let own := s.ownPosition
  let o := s.offer
  let t := f * 256
  let aligned := s.chain.enteredRun
  let present := packBits ((List.range 4).map fun q => q == own || s.forwards f q)
  let bytes (i mine : Nat) : Word := w32 ((List.range 4).foldl (fun acc q =>
    acc + (if q = own then mine else if s.forwards f q then byteOf (nthW s.chain.rxWords i) q else 0) * 256 ^ q) 0)
  let head : List Word :=
    [w32 (0xC3A50000 + own * 0x4000 + bits (s.regN bCHAIN 0) 0 2 * 0x1000 + s.linkState * 0x100 + f % 256),
     w32 t, w32 (t / 2 ^ 32),
     w32 (b2n aligned + 2 * b2n s.kiln.safe + 4 * (o.hops % 4) + 16 * (o.n % 4)),
     w32 o.id.toNat, w32 (o.id.toNat / 2 ^ 32),
     w32 present, bytes 7 start, bytes 8 (if s.kiln.safe then 0 else 0x80 + f % 128)]
  let tbs := (List.range 4).flatMap fun t => s.tbSlot f t
  let mix := (List.range 4).flatMap fun q =>
    if q = own then s.ownMix f
    else (List.range 8).map fun k => if s.forwards f q then nthW s.chain.rxWords (29 + 8 * q + k) else 0
  let body := head ++ tbs ++ mix ++ [0, 0]
  body ++ [w32 (chainCrc body)]

/-! ### Partner channels (R595, R596) -/

/-- Group q of the sending frame f, if it was present. -/
def State.groupOf (s : State) (f q : Nat) : Option (List Int) :=
  match s.chain.hold.find? fun e => e.1 == f with
  | some e => (e.2.getD q none)
  | none => none

/-- The factor of position q in this frame: the rise or the fall held in 1.31 (R682); none where no fade is under way. -/
def State.mixGain (s : State) (present : Bool) (q : Nat) : Option Int :=
  if present then
    let m := nth s.chain.backFor q
    if m < 16 then some (cosRise 16 m) else none
  else
    let m := nth s.chain.absentFor q
    some (if m < 16 then cosFall 16 m else 0)

/-- One slot with its factor, each product rounded to 1.31 (R682). -/
def gained (v : Int) (g : Option Int) : Int :=
  match g with
  | some g => mul31 v g
  | none => v

/-- The frame's value of channel 20 + k: the exact sum of the rounded products, saturated (R596). -/
def State.partnerMix (s : State) (groups : List (Option (List Int))) (k : Nat) : Int :=
  let w := s.regN bCHAIN 0xC
  let slot := bits w (8 * k) 3
  let qs := (List.range 4).filter fun q => bit w (8 * k + 4 + q) && s.partner q
  sat31 ((qs.map fun q =>
    let v := match groups.getD q none with
      | some g => nthI g slot
      | none => nthI (s.chain.lastMix.getD q []) slot
    gained v (s.mixGain (groups.getD q none).isSome q)).foldl (fun a b => a + b) 0)

/-- A Wort block with sample x of a channel set. -/
def State.setWort (s : State) (x ch : Nat) (v : Int) : State :=
  let b := x / 16
  let bs := if s.mash.wort.any fun w => w.block == b then s.mash.wort
    else s.mash.wort ++ [WortBlock.mk b (List.replicate 512 0) none]
  { s with mash.wort := bs.map fun (w : WortBlock) => if w.block = b then { w with vals := w.vals.set (ch * 16 + x % 16) v } else w }

/-- Channels 20 to 23 take the partners' groups of frame g - D. -/
def State.partnerChannels (s : State) (g : Nat) : State :=
  if !s.chain.enteredRun || decide (g < 32 + s.depth) then s else
  let groups := (List.range 4).map fun q => s.groupOf (g - s.depth) q
  let vals := (List.range 4).map (s.partnerMix groups)
  let s := (List.range 4).foldl (fun (s : State) k => s.setWort (g - 32 - s.depth) (20 + k) (nthI vals k)) s
  let has (q : Nat) : Bool := (groups.getD q none).isSome
  { s with
    chain.lastMix := (List.range 4).map fun q => (groups.getD q none).getD (s.chain.lastMix.getD q [])
    chain.absentFor := (List.range 4).map fun q => if has q then 0 else min 16 (nth s.chain.absentFor q + 1)
    chain.backFor := (List.range 4).map fun q => if has q then min 16 (nth s.chain.backFor q + 1) else 0 }

/-! ### Link states (R593) -/

/-- The first or a later entry to RUN; positions and N are fixed at the first (R592). -/
def State.enterRun (s : State) : State :=
  let o := s.offer
  let s := s.setLink 0 3 4
  if s.chain.enteredRun then s else
  let s := { s with
    chain.rootId := o.id
    chain.ringN := o.n % 4 }
  let s := (s.setLink 3 1 (b2n (o.id == ownId s))).setLink 4 2 (o.hops % 4)
  { s.setLink 6 2 (o.n % 4) with chain.enteredRun := true }

def State.linkFault (s : State) (cause : Nat) : State := (s.setLink 0 3 6).setLink 16 4 cause

/-- CHAIN_BREAK of a link: 0 up, 1 down. -/
def State.chainBreak (s : State) (link : Nat) : State :=
  s.report (mkMsg 0 s.ownPosition kChainBreak 1 link (blockOf s.time)) 8 0

/-- The election as it stands after a frame in ELECT: 32 unchanged frames settle it (R593). -/
def State.electFrame (s : State) : State :=
  let o := s.offer
  let run := if s.chain.settled = some o then s.chain.settle + 1 else 0
  let s := { s with
    chain.settled := some o
    chain.settle := run }
  if run < 32 then s
  else if bits (s.regN bCHAIN 0) 0 2 < o.n then s.linkFault 1
  else if o.id = ownId s then s.enterRun
  else s.setLink 0 3 3

/-- What a received frame's verdict makes of the link's state. -/
def State.linkFrame (s : State) : State :=
  match s.linkState with
  | 1 => if 16 ≤ s.chain.goodRun then s.setLink 0 3 2 else s
  | 2 => s.electFrame
  | 4 =>
    if s.chain.badRun < 16 then s
    else ((s.setLink 0 3 5).countReg bCHAIN 0x34 16 16 1).chainBreak 0
  | 5 =>
    if s.chain.goodRun < 16 then s else
    match s.chain.heard with
    | none => s
    | some e =>
      let id := if (ownId s).toNat ≤ e.id.toNat then ownId s else e.id
      let n := if id = ownId s then e.hops else e.n
      if id = s.chain.rootId ∧ n = s.chain.ringN then s.setLink 0 3 4 else s.linkFault 2
  | _ => s

/-! ### Partners: groups, alive, global starts (R590, R597, R600) -/

/-- Guard of position q: its session, and whether it is armed (R599). -/
def State.guardSession (s : State) (q : Nat) : Nat := bits (s.regN bCHAIN (0x18 + 4 * q)) 0 5
def State.guardOn (s : State) (q : Nat) : Bool := bit (s.regN bCHAIN (0x18 + 4 * q)) 8

def State.taken (s : State) (q : Nat) : Bool := bit (s.regN bCHAIN 0x30) (12 + q)

/-- The session holds a note. -/
def State.holdsNote (s : State) (k : Nat) : Bool :=
  (s.mash.voices ++ s.mash.queued).any fun e => e.2.session == k && e.2.note.isSome && !e.2.left

/-- Position q's alive stopped: CHAIN_PARTNER, and the guard takes over from the next boundary. -/
def State.partnerDead (s : State) (q : Nat) : State :=
  let takes := s.guardOn q && s.holdsNote (s.guardSession q)
  let s := { s with
    chain.told := s.chain.told.set q true
    chain.takeNext := if takes then s.chain.takeNext ++ [q] else s.chain.takeNext }
  s.report (mkMsg 0 q kChainPartner 1 (b2n takes) (blockOf s.time)) 8 0

/-- The alive of position q in the frame received during f (R600). -/
def State.aliveFrame (s : State) (f q : Nat) : State :=
  if !s.partner q || s.linkWindow then s else
  let c := s.chain
  let fq := f + 1 - s.hopsFrom q
  let ok := c.rxGood && (nthW c.rxWords 6).getLsbD q && byteOf (nthW c.rxWords 8) q == 0x80 + fq % 128
  if ok then
    { s with
      chain.deadFor := c.deadFor.set q 0
      chain.told := c.told.set q false }
  else
    let s := { s with chain.deadFor := c.deadFor.set q (min 16 (nth c.deadFor q + 1)) }
    if 16 ≤ nth s.chain.deadFor q ∧ !(nthB c.told q) then s.partnerDead q else s

/-- What position q's group of the frame received during f brings: its mix, a global start. -/
def State.takeGroup (s : State) (f q : Nat) : State :=
  let c := s.chain
  if !s.partner q || !c.rxGood || !(nthW c.rxWords 6).getLsbD q then s else
  let fq := f + 1 - s.hopsFrom q
  let g := (List.range 8).map fun k => signed 32 (nthW c.rxWords (29 + 8 * q + k)).toNat
  let e := match c.hold.find? fun e => e.1 == fq with
    | some e => e.2
    | none => List.replicate 4 none
  let b := byteOf (nthW c.rxWords 7) q
  { s with
    chain.hold := (c.hold.filter fun (x : Nat × List (Option (List Int))) => x.1 != fq && decide (f < x.1 + 8)) ++ [(fq, e.set q (some g))]
    chain.starts := if bit b 7 then c.starts ++ [(fq, b % 128)] else c.starts }

/-- The timebase slots of a good frame become usable (R590, R598). -/
def State.takeSlots (s : State) : State :=
  let c := s.chain
  if !c.rxGood then s else
  let slot (t : Nat) : Option (List Word) :=
    let w := (List.range 5).map fun i => nthW c.rxWords (9 + 5 * t + i)
    let q := bits (nthW w 0).toNat 0 2
    if (nthW c.rxWords 6).getLsbD q && q != s.ownPosition then some w else c.slots.getD t none
  { s with chain.slots := (List.range 4).map slot }

/-- The device received a frame during sample frame f, or none at all, which counts as a bad one. -/
def State.receive (s : State) (f : Nat) (words : List Word) (good : Bool) : State :=
  let c := s.chain
  let e : Elect := ⟨BitVec.ofNat 64 ((nthW words 4).toNat + (nthW words 5).toNat * 2 ^ 32),
    bits (nthW words 3).toNat 2 2, bits (nthW words 3).toNat 4 2⟩
  let s := { s with
    chain.rxFrame := f
    chain.rxWords := words
    chain.rxGood := good
    chain.goodRun := if good then c.goodRun + 1 else 0
    chain.badRun := if good then 0 else c.badRun + 1
    chain.heard := if good then some e else c.heard }
  let s := { s with chain.ringN := s.offer.n }
  let s := s.setLink 8 4 (if good then bits (nthW words 6).toNat 0 4 else 0)
  let up := (s.ownPosition + s.chain.ringN) % (s.chain.ringN + 1)
  let s := if good then s
    else (s.countReg bCHAIN 0x34 0 16 1).report
      (mkMsg 0 (if s.chain.enteredRun then up else 0) kChainCrc 0 0 (blockOf s.time)) 8 1
  let s := (List.range 4).foldl (fun (s : State) q => (s.takeGroup f q).aliveFrame f q) s.takeSlots
  s.linkFrame

/-! ### The commands -/

/-- The device sends frame f; a frame before it in which nothing was received ends as a bad one. -/
def State.transmit (s : State) (f : Nat) : State :=
  let s := if s.chain.rxFrame < s.chain.txFrame ∧ !s.linkReset 4 then s.receive s.chain.txFrame [] false else s
  let s := { s with chain.txFrame := f }
  let s := s.partnerChannels f
  if s.linkReset 5 then { s with chain.txWords := [] } else
  let start := match s.chain.ownStart with
    | some m => if s.kiln.safe then 0 else 0x80 + m % 128
    | none => 0
  let ws := s.chainFrame f start
  { s with
    chain.txWords := ws
    chain.ownStart := none
    chain.starts := if start = 0 then s.chain.starts else s.chain.starts ++ [(f, start % 128)] }

/-- CHAIN_FRAME_TRANSMIT (R589). -/
def execChainFrameTransmit (s : State) : Host.Outcome State Fault Refusal :=
  s.ends <|
    if !s.linkOn then s else
    match s.frameTurn s.chain.txFrame with
    | some f => (s.atFrame f).transmit f
    | none => s

/-- CHAIN_FRAME_RECEIVE (R590): the frame that arrives during the sample frame last begun. A link under reset hears nothing. -/
def execChainFrameReceive (words : List Word) (inWindow : Bool) (s : State) : Host.Outcome State Fault Refusal :=
  s.ends <|
    if !s.linkOn || s.linkReset 4 || decide (s.chain.txFrame ≤ s.chain.rxFrame) then s
    else (s.atFrame (s.chain.txFrame + 1)).receive s.chain.txFrame words (chainGood words inWindow)

/-- A time, a block or a frame number moved by a jump of device time. -/
def moved (d : Int) (x : Nat) : Nat := ((x : Int) + d).toNat

/-- What waits for a device time keeps the time it still has when device time jumps by dt, the block by db, the frame by df. -/
def State.jump (s : State) (dt db df : Int) : State :=
  let t := moved dt
  let b := moved db
  let f := moved df
  { s with
    pwr.qualP := s.pwr.qualP.map t
    pwr.qualB := s.pwr.qualB.map t
    pwr.holdover := s.pwr.holdover.map t
    pwr.aliveNext := s.pwr.aliveNext.map t
    host.softArmed := s.host.softArmed.map t
    fw.region1From := s.fw.region1From.map b
    fw.writes := s.fw.writes.map fun (w : PendingWrite) => { w with due := b w.due }
    fw.tables := s.fw.tables.map fun (x : Table) => { x with usable := b x.usable, gone := x.gone.map b }
    fw.capture := s.fw.capture.map fun (x : Capture) => { x with start := b x.start }
    fw.diag := s.fw.diag.map fun (d : DiagJob) => { d with begun := f d.begun }
    fw.pausedAt := t s.fw.pausedAt
    fw.tbUpdates := []
    hop.senses := []
    mash.snaps := s.mash.snaps.map fun (p : Snapshot) => { p with block := b p.block }
    mash.gains := s.mash.gains.map fun (g : Nat × List Nat) => (b g.1, g.2)
    mash.svtOld := s.mash.svtOld.map fun (e : Nat × List (List Nat)) => (b e.1, e.2)
    mash.stopped := s.mash.stopped.map fun (x : Nat × Nat × BitVec 64) => (x.1, b x.2.1, x.2.2)
    mash.catchups := s.mash.catchups.map fun (c : Catchup) => { c with block := b c.block }
    mash.copperBad := s.mash.copperBad.map f
    mash.shedAt := b s.mash.shedAt
    mash.sums := []
    mash.twins := []
    mash.wort := []
    store.streams := s.store.streams.map fun (x : Stream) => { x with
      opened := b x.opened
      closing := x.closing.map b
      targets := x.targets.map fun (e : Nat × List Nat) => (b e.1, e.2) }
    store.reads := s.store.reads.map fun (r : GristRead) => { r with deadline := t r.deadline }
    kiln.acts := s.kiln.acts.map fun (a : PendAct) => { a with deadline := t a.deadline }
    kiln.windows := s.kiln.windows.map fun (w : BlockWindow) => { w with until_ := b w.until_ }
    kiln.hbLast := t s.kiln.hbLast
    kiln.hbMissed := s.kiln.hbMissed.map t
    cop.frame := f s.cop.frame
    cop.outq := s.cop.outq.map fun (x : Nat × Nat × Bool × Word) => (f x.1, x.2)
    tdm.restart := s.tdm.restart.map b
    tdm.inPhase := f s.tdm.inPhase
    dacs := s.dacs.map fun (d : DacState) => { d with lastTick := none }
    sns := s.sns.map fun (h : SenseCh) => { h with thr := h.thr.map fun (k : Threshold) => { k with stamp := t k.stamp } }
    tbPins := s.tbPins.map fun (p : Bool × Nat) => (p.1, moved (18 * dt) p.2)
    chain.hold := []
    chain.starts := [] }

/-- The conditions of R594. -/
def State.mayAdopt (s : State) : Bool :=
  s.linkOn && s.linkState == 3 && s.chain.rxGood && (nthW s.chain.rxWords 3).getLsbD 0
    && s.mash.voices.isEmpty && s.mash.queued.isEmpty && s.mash.ending.isEmpty && s.hop.tasks.isEmpty && !bit (s.regN bTDMO 0) 0

/-- ALIGN_ADOPT (R594): the frame that began with the last received one takes the upstream neighbour's time. -/
def State.alignAdopt (s : State) : State :=
  let t := (nthW s.chain.rxWords 1).toNat + (nthW s.chain.rxWords 2).toNat * 2 ^ 32
  let f := frameOf t
  let s := s.jump ((t : Int) - s.time) ((blockOf t : Int) - s.lastBlock) ((f : Int) - frameOf s.time)
  let s := { s with
    time := t
    lastBlock := blockOf t
    tdm.outNext := 0
    sns := s.sns.map fun (h : SenseCh) => { h with valid := false, clean := h.groups, frame := f }
    chain.realign := true
    chain.txFrame := f - 1
    chain.rxFrame := f - 1
    tbs := (List.range 4).map fun n =>
      if (s.tbCfg n).source = 0 then s.tracker n
      else { (s.tracker n).configured (s.tbCfg n) false with lastInput := 18 * t } }
  s.enterRun

def execAlignAdopt (s : State) : Host.Outcome State Fault Refusal :=
  s.done (if s.mayAdopt then s.alignAdopt else s)

/-- GLOBAL_START_RELEASE (R552, R597): the masks that fall due at the earliest frame f + 4, where ACCEPT lets them. -/
def State.startRelease (s : State) : State :=
  match minBy (fun a b => decide (a.1 < b.1)) s.chain.starts with
  | none => s
  | some e =>
    if 16 * s.lastBlock + 16 ≤ e.1 + 4 then s else
    let due := s.chain.starts.filter fun x => x.1 == e.1
    let mask := due.foldl (fun m (x : Nat × Nat) => m ||| x.2) 0
    let s := { s.atFrame (e.1 + 4) with chain.starts := s.chain.starts.filter fun (x : Nat × Nat) => x.1 != e.1 }
    if bit (s.regN bTIMER 4) 0 then s.globalStart mask else s

def execGlobalStartRelease (s : State) : Host.Outcome State Fault Refusal :=
  s.done (if s.isReady then s.startRelease else s)

/-! ### Boundaries -/

/-- The CHAIN image was written at B(n): a guard whose EN cleared ends its takeover with a fall (R601). -/
def State.chainApplied (s old : State) (n : Nat) : State :=
  (List.range 4).foldl (fun (s : State) q =>
    if old.taken q && !s.guardOn q then
      { s.setLink (12 + q) 1 0 with
        chain.rise := s.chain.rise.set q none
        chain.fall := s.chain.fall.set q (some (n, old.guardSession q)) }
    else s) s

/-- The update a tracker takes from a broadcast slot at B(n) (R598). -/
def State.slotUpdate (s : State) (n t : Nat) : Option TbUpdate :=
  let w := s.regN bCHAIN 0x14
  if !bit w (8 * t) || (s.tbCfg t).source != 3 then none else
  match s.chain.slots.getD (bits w (8 * t + 1) 2) none with
  | none => none
  | some ws =>
    let h := (nthW ws 0).toNat
    if !bit h 2 || !bit h 3 then none else
    let b := n - (n + 2 ^ 24 - bits h 8 24) % 2 ^ 24
    some ⟨b * 4096, true, (nthW ws 1).toNat + signed 32 (nthW ws 2).toNat * 2 ^ 32, signed 32 (nthW ws 3).toNat,
      signed 32 (nthW ws 4).toNat, n * 4096⟩

/-- The chain link at B(n), before the trackers: OFF becomes SEEK, takeovers begin, broadcast slots reach their trackers,
Sparge realigns after an adoption (R593, R594, R598, R600). -/
def State.chainBoundary (s : State) (n : Nat) : State :=
  if !s.unitOn 3 then
    if s.linkState = 0 then s else { s with chain := Chain.reset }.setLink 0 3 0
  else if s.linkState = 0 then
    { s.setLink 0 3 1 with
      chain.txFrame := 16 * n - 1
      chain.rxFrame := 16 * n - 1 }
  else
    let takes := s.chain.takeNext.filter fun q => s.guardOn q && !s.taken q
    let s := takes.foldl (fun (s : State) q =>
      { s.setLink (12 + q) 1 1 with
        chain.rise := s.chain.rise.set q (some n)
        chain.fall := s.chain.fall.set q none }) s
    let ups := (List.range 4).filterMap fun t => (s.slotUpdate n t).map fun u => (t, u)
    let s := { s with
      fw.tbUpdates := s.fw.tbUpdates ++ ups
      chain.slots := [none, none, none, none]
      chain.takeNext := [] }
    if !s.chain.realign then s
    else { s with
      sns := s.sns.map (SenseCh.aligned (n * 1024))
      chain.realign := false }

/-! ### Guard voices (R599 to R601) -/

/-- The factor, held in 1.31, of a session's sends at sample j of block n; none where its notes play as any others do. -/
def State.guardGain (s : State) (sess n j : Nat) : Option Int :=
  let falls := s.chain.fall.any fun x => x == some (n, sess)
  if falls then some (cosFall 16 j)
  else
    let qs := (List.range 4).filter fun q => s.guardSession q == sess
    if sess = 0 ∨ qs.isEmpty then none
    else match qs.find? s.taken with
      | none => some 0
      | some q => if s.chain.rise.getD q none = some n then some (cosRise 16 j) else none

end Sys2Proof.Machine
end

