-- ==== Sys2Proof/Machine/BankCheck.lean ====
section
/-! DEFINITION. Recipe banks: the checks of R59 and R144, and the import of QK0256 recipes (R112, R145). -/
namespace Sys2Proof.Machine

/-! ### One native recipe: offsets of the fields that fail -/

/-- An offset where a field fails. -/
def failIf (c : Bool) (o : Nat) : List Nat := if c then [o] else []

/-- Voice header (R111, R144). The CRC is taken with its own field as 0. -/
def Recipe.headerFaults (r : Recipe) : List Nat :=
  let aux (i : Nat) : Bool :=
    let d := r.auxDest i
    !((decide (16 ≤ d) && decide (d ≤ 19)) || (decide (24 ≤ d) && decide (d ≤ 31)))
  failIf (u32 r 0 != 0x31524B51) 0 ++ failIf (u16 r 4 != 0x0100) 4
    ++ failIf (crc32 (overlay r 0x3C (leBytes 4 0)) != u32 r 0x3C) 0x3C
    ++ failIf (decide (7 < r.priority)) 6 ++ failIf (decide (0x8000 < r.pan)) 0xE
    ++ (List.range 4).flatMap fun i => failIf (aux i) (0x20 + i)

/-- Oscillators (R59); `frames` gives the frames of a table resident now. -/
def Recipe.oscFaults (r : Recipe) (frames : Nat → Option Nat) : List Nat :=
  (List.range 4).flatMap fun i =>
    let b := 0x40 + 32 * i
    let m := r.mode i
    let ovf := match frames (r.object i) with
      | some k => r.usesTable i && decide ((k - 1) * 1024 + (if m = mPM then 1023 else 0) < r.morph i)
      | none => false
    failIf (decide (5 < m)) b
      ++ failIf (r.sync i && (i == 0 || m == mSMP || m == mNOISE || m == mORD)) (b + 1)
      ++ failIf (m == mORD && decide (3 < r.timebase i)) (b + 0x18)
      ++ failIf (m == mSMP && decide (2 < r.loop i)) (b + 0x19)
      ++ failIf ovf (b + 0x14)

/-- Filters (R114, R144). -/
def Recipe.filterFaults (r : Recipe) : List Nat :=
  (List.range 2).flatMap fun f =>
    let b := 0xC0 + 16 * f
    failIf (decide (5 < r.fType f)) b
      ++ failIf (decide (r.fCutoff f < -3735552) || decide (5111808 < r.fCutoff f)) (b + 4)
      ++ failIf (decide (r.fDrive f < 0x1000)) (b + 0xA)

/-- Envelopes (R120, R144). -/
def Recipe.envFaults (r : Recipe) : List Nat :=
  (List.range 4).flatMap fun e =>
    let b := envBase e
    let n := r.nseg e
    let sus := r.sustain e
    let ls := r.loopStart e
    let le := r.loopEnd e
    let loop := ls != 0xFF && le != 0xFF
    failIf (decide (2 < r.envMode e)) b
      ++ failIf (decide (n < 1) || decide (8 < n)) (b + 7)
      ++ failIf (sus != 0xFF && decide (n < sus + 2)) (b + 2)
      ++ failIf ((ls == 0xFF) != (le == 0xFF) || (loop && decide (le < ls))) (b + 3)
      ++ failIf (loop && (decide (n < le + 1) || (sus != 0xFF && decide (sus ≤ le)))) (b + 4)
      ++ failIf (loop && (List.range (le + 1 - ls)).all fun k => r.segN e (ls + k) == 0) (b + 8 + 4 * ls)
      ++ failIf (r.envMode e == 2 && decide (3 < r.envTb e)) (b + 6)
      ++ failIf (e == 0 && r.envMode e != 0 && r.target e (n - 1) != 0) (b + 10 + 4 * (n - 1))

/-- LFOs (R129, R144). -/
def Recipe.lfoFaults (r : Recipe) : List Nat :=
  (List.range 3).flatMap fun l =>
    failIf (decide (5 < r.lfoWave l)) (0x180 + 8 * l)
      ++ failIf (!r.lfoOrder l && decide (0x03E80000 < r.lfoRate l)) (0x184 + 8 * l)

/-- A matrix source that is not reserved (R133). -/
def srcKnown (x : Nat) : Bool := decide (x ≤ 0x0B) || (decide (0x10 ≤ x) && decide (x ≤ 0x27))

/-- Routes (R132, R144). -/
def Recipe.routeFaults (r : Recipe) : List Nat :=
  (List.range 24).flatMap fun k =>
    let x := r.route k
    failIf (!srcKnown x.src) (0x1A0 + 4 * k) ++ failIf (x.src != 0 && decide (34 < x.dst)) (0x1A1 + 4 * k)

/-- Every failing field of a native recipe. -/
def Recipe.faults (r : Recipe) (frames : Nat → Option Nat) : List Nat :=
  r.headerFaults ++ r.oscFaults frames ++ r.filterFaults ++ r.envFaults ++ r.lfoFaults ++ r.routeFaults

/-! ### QK0256 import (R145) -/

/-- N samples as a LEN: the nearest m << e with the smallest e for which m fits 12 bits; a tie rounds up. -/
def encodeLen (n : Nat) : Nat :=
  match (List.range 16).find? fun e => decide ((n + 2 ^ e / 2) / 2 ^ e ≤ 4095) with
  | some e => e * 4096 + (n + 2 ^ e / 2) / 2 ^ e
  | none => 0xFFFF

/-- Failing fields of a 128-byte recipe, by its own offsets. -/
def qkFaults (q : List Byte) : List Nat :=
  let on := bit (u8 q 3) 0
  let osc (k : Nat) : List Nat :=
    let b := 4 + 8 * k
    failIf (decide (3 < u8 q b)) b ++ failIf (u8 q b == 2 && decide (2 < u8 q (b + 1))) (b + 1)
  let route (k : Nat) : List Nat :=
    let b := u8 q (0x2C + 2 * k)
    failIf (decide (13 < b / 16) || decide (7 < b % 16)) (0x2C + 2 * k)
  failIf (u16 q 0 != 0x0256) 0 ++ failIf (decide (3 < u8 q 2)) 2 ++ osc 0 ++ osc 1
    ++ failIf (on && decide (2 < u8 q 0x14)) 0x14 ++ failIf (decide (2 < u8 q 0x28)) 0x28
    ++ (List.range 8).flatMap route

def qkMode (m : Nat) : Nat := [0, 1, 2, 4].getD m 0
def qkSource (x : Nat) : Nat := [0x00, 0x01, 0x02, 0x05, 0x08, 0x09, 0x10, 0x11, 0x12, 0x13, 0x14, 0x15, 0x16, 0x17].getD x 0
def qkDest (x : Nat) : Nat := [0, 5, 1, 6, 20, 21, 26, 27].getD x 0

/-- The depth of an imported route: pitch, cutoff and pan at half weight. -/
def qkDepth (dst : Nat) (d : Int) : Int :=
  let w : Int := if dst = 0 ∨ dst = 1 ∨ dst = 4 ∨ dst = 7 then 16384 else 32768
  satI (-32768) 32767 (rndDiv (d * w) 127)

/-- The default image that an import starts from (R58, R111, R114, R120, R129). -/
def defaultRecipe : Recipe :=
  let osc := leBytes 1 0 ++ leBytes 1 0 ++ leBytes 2 0 ++ leBytes 4 0 ++ leBytes 2 0 ++ leBytes 2 0x100 ++ leBytes 4 0x40000000
    ++ List.replicate 16 0
  let filter := leBytes 4 0 ++ leBytes 4 0x00300000 ++ leBytes 2 0 ++ leBytes 2 0x1000 ++ List.replicate 4 0
  let env := leBytes 2 0 ++ leBytes 3 0xFFFFFF ++ leBytes 2 0 ++ leBytes 1 1 ++ List.replicate 32 0
  leBytes 4 0x31524B51 ++ leBytes 2 0x0100 ++ leBytes 1 2 ++ leBytes 1 0 ++ leBytes 4 0x40000000 ++ List.replicate 20 0
    ++ leBytes 4 0x13121110 ++ List.replicate 28 0
    ++ osc ++ osc ++ osc ++ osc ++ filter ++ filter ++ env ++ env ++ env ++ env ++ List.replicate 128 0

/-- Fields laid over an image. -/
def overlays (r : Recipe) (fs : List (Nat × Nat × Nat)) : Recipe :=
  fs.foldl (fun r f => overlay r f.1 (leBytes f.2.1 f.2.2)) r

/-- The native recipe of a QK0256 recipe. -/
def importRecipe (q : List Byte) : Recipe :=
  let osc (k : Nat) : List (Nat × Nat × Nat) :=
    let b := 4 + 8 * k
    let o := 0x40 + 32 * k
    [(o, 1, qkMode (u8 q b)), (o + 0x19, 1, u8 q (b + 1)), (o + 2, 2, u16 q (b + 2)),
     (o + 4, 4, (w32i (s16 q (b + 4) * 256)).toNat), (o + 0xC, 4, u16 q (b + 6) * 2 ^ 15)]
  let env (k : Nat) : List (Nat × Nat × Nat) :=
    let b := 0x18 + 8 * k
    let o := envBase k
    let seg (j ms target : Nat) : List (Nat × Nat × Nat) := [(o + 8 + 4 * j, 2, encodeLen (ms * 96)), (o + 10 + 4 * j, 2, target)]
    [(o, 1, 1), (o + 2, 1, 1), (o + 5, 1, 6), (o + 7, 1, 3)] ++ seg 0 (u16 q b) 0xFFFF ++ seg 1 (u16 q (b + 2)) (u16 q (b + 4))
      ++ seg 2 (u16 q (b + 6)) 0
  let route (k : Nat) : List (Nat × Nat × Nat) :=
    let x := u8 q (0x2C + 2 * k)
    let o := 0x1A0 + 4 * k
    [(o, 1, qkSource (x / 16)), (o + 1, 1, qkDest (x % 16)),
     (o + 2, 2, (w32i (qkDepth (x % 16) (signed 8 (u8 q (0x2D + 2 * k))))).toNat % 65536)]
  let cutoff := satI (-3735552) 5111808 (s16 q 0x16 * 256)
  overlays defaultRecipe
    ([(6, 1, u8 q 2), (7, 1, 2), (8, 4, u16 q 0x3E * 2 ^ 15), (0xC, 1, 0xFE), (0xD, 1, 0xFF),
      (0xE, 2, ((s16 q 0x3C + 0x8000) / 2).toNat)]
      ++ osc 0 ++ osc 1
      ++ [(0xC0, 1, if bit (u8 q 3) 0 then u8 q 0x14 + 1 else 0), (0xC8, 2, u8 q 0x15 * 256), (0xC4, 4, (w32i cutoff).toNat)]
      ++ env 0 ++ env 1
      ++ [(0x180, 1, [1, 2, 4].getD (u8 q 0x28) 1), (0x181, 1, 2), (0x184, 4, (rndDiv ((u16 q 0x2A * 65536 : Nat) : Int) 100).toNat)]
      ++ (List.range 8).flatMap route)

/-! ### The bank (R112) -/

/-- What the check of a bank answers: the status, and words 4 and 5 of the COMPLETION in case of failure (R428). -/
structure BankFault where
  status : Nat
  recipe : Nat
  offset : Nat
deriving DecidableEq, Repr

def noField : Nat := 0xFFFFFFFF

/-- The header's first failing field. -/
def bankHeaderFault (b : List Byte) : Option Nat :=
  (failIf (u32 b 0 != 0x4B424B51) 0 ++ failIf (u16 b 4 != 0x0100) 4
    ++ failIf (decide (u16 b 6 < 1) || decide (256 < u16 b 6)) 6 ++ failIf (decide (1 < u8 b 0xC)) 0xC
    ++ failIf (crc32 (b.take 0x1C) != u32 b 0x1C) 0x1C).head?

/-- Bytes of a recipe in a bank. -/
def recipeSize (format : Nat) : Nat := if format = 1 then 128 else 512

/-- The recipes of a bank as they stand in the object. -/
def rawRecipes (b : List Byte) : List (List Byte) :=
  let k := recipeSize (u8 b 0xC)
  (List.range (u16 b 6)).map fun i => (b.drop (0x20 + k * i)).take k

/-- The smallest of some offsets. -/
def leastOf (l : List Nat) : Option Nat := minBy (fun a b => decide (a < b)) l

end Sys2Proof.Machine
end

