-- ==== Sys2Proof/Machine/Power.lean ====
section
/-! DEFINITION. Supplies, clock reference, reset, start sequence, wake and the test access port (chapters 21 and 22). -/
namespace Sys2Proof.Machine

/-! ### Reset (R622, R626) -/

/-- The pin that a reference source uses: XI, or TDMI_BCLK (R608). -/
def refPin (source : Nat) : Nat := if source ≤ 1 then 0 else source

/-- A backup option within its range: none, or a source that is not on the pin of the primary (R627). -/
def Cask.backupOk (c : Cask) (primary : Nat) : Bool :=
  c.refBackup == 3 || (decide (c.refBackup ≤ 2) && refPin c.refBackup != refPin primary)

/-- A DAC code within its range, else blank (R627, R629). -/
def dacCode (x : Nat) : Nat := if x ≤ 4095 then x else 0

/-- REF_PRIMARY as an option load commits it. -/
def Part.primary (p : Part) : Nat :=
  if !p.unreadable.contains 2 && decide (p.cask.refPrimary ≤ 2) then p.cask.refPrimary else Cask.blank.refPrimary

/-- The Cask as an option load commits it: fields of which neither copy decodes, or whose value lies outside its range, take their
blank value (R628, R629). Fields are numbered in the order of R627. -/
def Part.shadow (p : Part) : Cask :=
  let ok (i : Nat) : Bool := !(p.unreadable.contains i)
  let c := p.cask
  let b := Cask.blank
  { uniqueId := if ok 0 then c.uniqueId else b.uniqueId
    keyHash := if ok 1 then c.keyHash else b.keyHash
    refPrimary := p.primary
    refBackup := if ok 3 && c.backupOk p.primary then c.refBackup else b.refBackup
    refRatio := if ok 4 && decide (16 ≤ c.refRatio) && decide (c.refRatio ≤ 512) then c.refRatio else b.refRatio
    bootFreq := if ok 5 && (c.bootFreq == 3 || c.bootFreq == 4) then c.bootFreq else b.bootFreq
    bootDummy := if ok 6 && decide (8 ≤ c.bootDummy) && decide (c.bootDummy ≤ 30) then c.bootDummy else b.bootDummy
    dacPwrup := if ok 7 then c.dacPwrup.map dacCode else b.dacPwrup
    dacFault := if ok 8 then c.dacFault.map dacCode else b.dacFault
    dacRange := if ok 9 then c.dacRange % 16 else b.dacRange
    senseOfs := if ok 10 then c.senseOfs else b.senseOfs
    senseGain := if ok 11 then c.senseGain else b.senseGain }

/-- A word of the Cask was unreadable: neither copy decodes, or a value outside its range (R629). -/
def Part.caskBad (p : Part) : Bool :=
  !p.unreadable.isEmpty || decide (2 < p.cask.refPrimary) || !p.cask.backupOk p.primary
    || decide (p.cask.refRatio < 16) || decide (512 < p.cask.refRatio)
    || !(p.cask.bootFreq == 3 || p.cask.bootFreq == 4)
    || decide (p.cask.bootDummy < 8) || decide (30 < p.cask.bootDummy)
    || p.cask.dacPwrup.any (fun x => decide (4095 < x)) || p.cask.dacFault.any (fun x => decide (4095 < x))

/-- Everything that a reset or a standby clears is at its reset value; the part, the queue, the flash devices, the levels on
the pins and the analog die stay (R621, R626). -/
def State.cleared (s : State) : State :=
  { State.reset with
    pending := s.pending
    freeCount := s.freeCount
    part := s.part
    pwr := s.pwr
    tbPins := s.tbPins.map fun x => (x.1, 0)
    store := Store.reset s.store.flash
    dacs := (List.range 4).map (DacState.onCask s.pwr.shadow s.latched) }

/-- A reset begins (R622, R623, R626): `bit` is its RESET_CAUSE bit, `drives` says that the device pulls RESET_N low itself,
`lost` that the always-on content of VDD08 went with it (R607). -/
def State.beginReset (s : State) (bit : Nat) (drives lost : Bool) : State :=
  let por := bit == 0
  let life := if por || lost then [0, 1, 0, 0, 0, 0, 0, 0, 0, 0, 0, 0, 0, 0, 0, 0]
    else modAt s.pwr.life 2 fun x => satAdd 32 x 1
  let pwr : Power :=
    { Power.reset with
      railLow := s.pwr.railLow
      resetHeld := s.pwr.resetHeld
      driveLow := s.pwr.driveLow || drives
      shadow := s.part.shadow
      latch := if por then none else s.pwr.latch
      tempDig := s.pwr.tempDig
      tempAna := s.pwr.tempAna
      por := por || (s.pwr.por && s.pwr.phase != .ready && s.pwr.phase != .standby)
      resetCause := if por then 1 else if s.pwr.por && s.pwr.phase != .ready && s.pwr.phase != .standby then s.pwr.resetCause
        else setBit s.pwr.resetCause bit
      life := life
      lifeSet := s.pwr.lifeSet && !(por || lost) }
  ({ s with pwr := pwr }).cleared

/-- Standby ends and the start sequence runs from step 3 (R621): time, timers, latch, counters and shadows are kept. A VDD18M that
is still low is a brown-out once standby has ended (R619, R622; DEDUCED, log 82). -/
def State.wake (s : State) (cause : Option (Nat × Nat × Nat)) : State :=
  if nthB s.pwr.railLow 2 then s.beginReset 3 true false else
  { s with
    pwr.phase := .released
    pwr.woken := true
    pwr.refUsed := none
    pwr.qualP := none
    pwr.qualB := none
    pwr.holdover := none
    pwr.holdTold := false
    pwr.mainLoop := true
    pwr.standbyLoop := true
    pwr.wakeCause := cause
    pwr.wakeSet := [] }

/-- The CLOCK message of the PLL on the analog die (R614). -/
def clockMsg (cls : Nat) : BitVec 64 := mkMsg 2 1 kClock cls 0 0

/-- The SUPPLY message of the supervisors (R605). -/
def supplyMsg (code : Nat) : BitVec 64 := mkMsg 2 1 kSupply 1 code 0

/-! ### Supplies -/

/-- A warning is raised from READY on, again only after the rail has come back (R605). -/
def State.supplyWarning (s : State) (code : Nat) (back : Bool) : State :=
  if !s.isReady || (nthB s.pwr.warned code && !back) then s
  else ({ s with pwr.warned := s.pwr.warned.set code true }).report (supplyMsg code) 11 0

/-- SUPPLY_THRESHOLD (R604): a power-on or brown-out reset, or a warning. VDD18M is ignored in standby (R619). -/
def State.supplyThreshold (s : State) (rail : Nat) (level : RailLevel) : State :=
  if 3 < rail then s else
  match level with
  | .low back => s.supplyWarning rail back
  | .high back => s.supplyWarning (rail + 4) back
  | .lost =>
    if rail = 0 then
      ({ s with pwr.railLow := s.pwr.railLow.set 0 true }).beginReset 1 true true
    else s
  | .reset =>
    let low := { s with pwr.railLow := s.pwr.railLow.set rail true }
    match rail with
    | 3 => low.beginReset 0 true false
    | 2 => if s.pwr.phase = .standby then low else low.beginReset 3 true false
    | r => low.beginReset (r + 1) true false

def execSupplyThreshold (rail : Nat) (level : RailLevel) (s : State) : Host.Outcome State Fault Refusal :=
  s.ends (s.supplyThreshold rail level)

/-- COMPARATOR_DISAGREEMENT (R605): SUPPLY of class C1 with the disagreement code. -/
def State.comparatorDisagreement (s : State) (rail : Nat) : State :=
  if 3 < rail then s else s.report (supplyMsg (8 + rail)) 11 0

def execComparatorDisagreement (rail : Nat) (s : State) : Host.Outcome State Fault Refusal :=
  s.ends (s.comparatorDisagreement rail)

/-- POWER_ON_RESET (R622): VDDA33 is below its reset level. -/
def State.powerOnReset (s : State) : State :=
  ({ s with pwr.railLow := s.pwr.railLow.set 3 true }).beginReset 0 true false

def execPowerOnReset (s : State) : Host.Outcome State Fault Refusal :=
  s.done s.powerOnReset

/-- SUPPLY_RELEASE (R623): a rail is back above its release level; the last one ends the reset cause. -/
def State.supplyRelease (s : State) (rail : Nat) : State :=
  { s with pwr.railLow := s.pwr.railLow.set rail false }

def execSupplyRelease (rail : Nat) (s : State) : Host.Outcome State Fault Refusal :=
  s.done (s.supplyRelease rail)

/-! ### RESET_N -/

/-- RESET_N is recognised low from outside. While the device itself drives the pin, `ns` is the time it stays low after that
drive has ended, and PIN is set past 5 µs (R624). -/
def State.pinReset (s : State) (ns : Nat) : State :=
  let s := { s with pwr.resetHeld := true }
  if s.pwr.driveLow && decide (ns ≤ 5000) then s else s.beginReset 4 false false

/-- RESET_PIN (R624): shorter than 150 ns is ignored, longer than 250 ns is a reset, between them a free value decides. -/
def State.resetPin (s : State) (ns : Nat) : State :=
  if ns < 150 then s
  else if 250 < ns then s.pinReset ns
  else
    let (x, s) := drawFree s
    if x % 2 = 1 then s.pinReset ns else s

def execResetPin (ns : Nat) (s : State) : Host.Outcome State Fault Refusal :=
  s.done (s.resetPin ns)

/-- RESET_RELEASE (R630): RESET_N reads high and the start begins; the options are committed together (R628). It cannot be
while a rail's reset cause lasts (R623). -/
def State.resetRelease (s : State) : State :=
  if s.pwr.phase != .inReset || s.pwr.railLow.any id then s else
  let s := { s with
    pwr.phase := .released
    pwr.resetHeld := false
    pwr.driveLow := false
    pwr.shadow := s.part.shadow
    pwr.resetCause := if s.latched then setBit s.pwr.resetCause 7 else s.pwr.resetCause &&& ~~~0x80#32 }
  if s.part.caskBad then s.setLatch (mkMsg 2 1 kLastCopy 3 kMemUncorrectable 0) else s

def execResetRelease (s : State) : Host.Outcome State Fault Refusal :=
  s.done s.resetRelease

/-! ### Reference and PLL -/

/-- A source of the Cask's two reference options exists (R608). -/
def State.hasSource (s : State) (primary : Bool) : Bool := primary || s.pwr.shadow.refBackup != 3

/-- REFERENCE_QUALIFIED (R609): the start locks to the first source to qualify (R613); in holdover the PLL moves to a backup
that qualifies, a primary waits for its take-back (R612). -/
def State.referenceQualified (s : State) (primary : Bool) : State :=
  if s.pwr.phase = .inReset ∨ s.pwr.phase = .standby ∨ !s.hasSource primary then s else
  let s := if primary then { s with pwr.qualP := some (s.pwr.qualP.getD s.time) }
    else { s with pwr.qualB := some (s.pwr.qualB.getD s.time) }
  match s.pwr.refUsed with
  | some _ => s
  | none =>
    if !s.clocked then { s with pwr.refUsed := some primary }
    else if primary then s
    else { s with pwr.refUsed := some false, pwr.holdover := none, pwr.holdTold := false }

def execReferenceQualified (primary : Bool) (s : State) : Host.Outcome State Fault Refusal :=
  s.done (s.referenceQualified primary)

/-- BACKUP_LOST (R612): a qualified source that is not in use loses its qualification; nothing is reported. -/
def State.backupLost (s : State) (primary : Bool) : State :=
  if s.pwr.refUsed = some primary then s
  else if primary then { s with pwr.qualP := none } else { s with pwr.qualB := none }

def execBackupLost (primary : Bool) (s : State) : Host.Outcome State Fault Refusal :=
  s.done (s.backupLost primary)

/-- REFERENCE_LOSS (R611, R612): the PLL moves to a qualified backup, else into holdover; CLOCK C1 either way (R614). -/
def State.referenceLoss (s : State) : State :=
  if !s.clocked || s.pwr.phase == .standby then s else
  match s.pwr.refUsed with
  | none => s
  | some primary =>
    let s := if primary then { s with pwr.qualP := none } else { s with pwr.qualB := none }
    let s := if primary && s.pwr.qualB.isSome then { s with pwr.refUsed := some false }
      else { s with pwr.refUsed := none, pwr.holdover := some s.time, pwr.holdTold := false }
    s.report (clockMsg 1) 11 0

def execReferenceLoss (s : State) : Host.Outcome State Fault Refusal :=
  s.ends s.referenceLoss

/-- HOLDOVER_TIMEOUT (R614): 10 s in holdover without a qualified source. -/
def State.holdoverTimeout (s : State) : State :=
  match s.pwr.holdover with
  | none => s
  | some t =>
    if s.pwr.holdTold || decide (s.time < t + 245760000) || s.pwr.qualP.isSome || s.pwr.qualB.isSome then s
    else ({ s with pwr.holdTold := true }).report (clockMsg 2) 11 0

def execHoldoverTimeout (s : State) : Host.Outcome State Fault Refusal :=
  s.ends s.holdoverTimeout

/-- PRIMARY_TAKEBACK (R612): a primary qualified for 1 s is taken back at a block boundary; no message (R614). -/
def State.primaryTakeback (s : State) : State :=
  match s.pwr.qualP with
  | none => s
  | some t =>
    if s.clocked && s.pwr.phase != .standby && s.pwr.refUsed != some true && decide (t + 24576000 ≤ s.time)
        && s.time % 4096 == 0 then
      { s with pwr.refUsed := some true, pwr.holdover := none, pwr.holdTold := false }
    else s

def execPrimaryTakeback (s : State) : Host.Outcome State Fault Refusal :=
  s.done s.primaryTakeback

/-- PLL_LOOP_FAIL (R610, R614): C1 for one loop, C3 when both have failed. -/
def State.pllLoopFail (s : State) (main : Bool) : State :=
  let good := if main then s.pwr.mainLoop else s.pwr.standbyLoop
  let other := if main then s.pwr.standbyLoop else s.pwr.mainLoop
  if !good || !s.clocked || s.pwr.phase == .standby then s else
  (if main then { s with pwr.mainLoop := false } else { s with pwr.standbyLoop := false }).report
    (clockMsg (if other then 1 else 3)) 11 0

def execPllLoopFail (main : Bool) (s : State) : Host.Outcome State Fault Refusal :=
  s.ends (s.pllLoopFail main)

/-- PLL_LOCK (R610, R630, R631, R632): device time counts, from 0 or on from standby; the boot ROM chooses anchor and slot.
`slotA` and `slotB` are the verdicts on the two images: 0 passes, else a RESULT code of R412. -/
def State.pllLock (s : State) (slotA slotB : Nat) : State :=
  if s.pwr.phase != .released || s.pwr.refUsed.isNone then s else
  let s := { s with pwr.phase := .locked, lastBlock := blockOf s.time }
  match s.findAnchor with
  | none => { s with pwr.phase := .bootFailed }.setHandoverStep 7 6
  | some a =>
    let verdict (slot : Nat) : Nat := if slot = 0 then slotA else slotB
    let s := { s with store.anchor := a }
    if verdict a.fwSlot = 0 then { s with host.activeSlot := a.fwSlot, pwr.bootSlot := a.fwSlot, pwr.bootFault := 0 }
    else
      let other := 1 - a.fwSlot
      if verdict other = 0 then
        { s with host.activeSlot := other, pwr.bootSlot := other, pwr.bootFault := verdict a.fwSlot }.setHandoverStep 7
          (verdict a.fwSlot)
      else { s with pwr.phase := .bootFailed }.setHandoverStep 7 (verdict other)

def execPllLock (slotA slotB : Nat) (s : State) : Host.Outcome State Fault Refusal :=
  s.done (s.pllLock slotA slotB)

/-- A port's device meets R252: what the set-up judged, a read latency of 8 to 30 clocks, and a capacity of at least 2^least and
at most 2^31 bytes. -/
def portFits (f : PortSetup) (least : Nat) : Bool :=
  f.meets && decide (8 ≤ f.dummy) && decide (f.dummy ≤ 30) && decide (least ≤ f.sizeLog2) && decide (f.sizeLog2 ≤ 31)

/-- The port as its set-up leaves it (R254): PRESENT, DUMMY and SIZE_LOG2 of its Mx_CFG; left off where R252 is not met. -/
def State.setupPort (s : State) (p : Nat) (f : PortSetup) (there : Bool) : State :=
  let s := { s with store.ports := s.store.ports.set p ⟨there, false⟩ }
  if there then
    s.setReg bGRIST (0x10 + 4 * p)
      (setField (setField (setField (s.reg bGRIST (0x10 + 4 * p)) 8 5 f.dummy) 16 5 f.sizeLog2) 24 1 1)
  else s

/-- The safe state restored from the latch at READY (R348): capture and first record hold the latched message. -/
def State.restoreLatch (s : State) : State :=
  match s.pwr.latch with
  | none => s
  | some (m, t) => (((s.capture m t 0 0 true).logRecord m t 0 0 9)).enterSafe

/-- READY (R634): STATUS.READY and its interrupt, session 0 open, Kiln and heartbeat started, the die-link watch armed (R346),
ALIVE's first edge HALF_MS away (R342). A comparator wake logs its SENSE_EVENT first (R620). -/
def State.becomeReady (s : State) (m0 m1 : PortSetup) : State :=
  if s.pwr.phase != .locked || s.pwr.debugHalt then s else
  let half := max 1 (bits s.host.aliveCfg.toNat 8 8)
  let s := { s with
    pwr.phase := .ready
    pwr.woken := false
    pwr.por := false
    pwr.dieWatch := true
    pwr.aliveNext := some (s.time + half * 24576)
    fw.running := true
    fw.sessions := s.fw.sessions.set 0 ⟨true, false, 7, 0⟩
    kiln.hbLast := s.time
    lastBlock := blockOf s.time }
  let second := portFits m1 25 && s.part.variant != .qk1024n
  let s := (s.setupPort 0 m0 (portFits m0 (if second then 25 else 26))).setupPort 1 m1 second
  let s := { s with mash.gains := [(blockOf s.time, (List.range 32).map fun ch => s.regN bWORT (4 * ch))] }
  let s := s.irq 6
  let s := match s.pwr.wakeCause with
    | some (c, k, t) =>
      let m := mkMsg 2 (5 + bSPARGE) kSenseEvent 0 (c + 8 * k + 16) 0
      (s.countMsg m).logRecord m t 11 0 0
    | none => s
  ({ s with pwr.wakeCause := none }).restoreLatch

def execReady (m0 m1 : PortSetup) (s : State) : Host.Outcome State Fault Refusal :=
  s.ends (s.becomeReady m0 m1)

/-! ### Wake (R620) -/

/-- WAKE_HOST: a falling edge of HS_CS_N in standby (R369). -/
def State.wakeHost (s : State) : State :=
  if s.pwr.phase = .standby then s.wake none else s

def execWakeHost (s : State) : Host.Outcome State Fault Refusal :=
  s.done s.wakeHost

/-- WAKE_COMPARATOR: threshold k of channel c is a wake comparator and two consecutive samples met its entering condition. -/
def State.wakeComparator (s : State) (c k : Nat) : State :=
  if s.pwr.phase = .standby ∧ s.pwr.wakeSet.any (fun w => w.ch == c && w.thr == k) then s.wake (some (c, k, s.time)) else s

def execWakeComparator (c k : Nat) (s : State) : Host.Outcome State Fault Refusal :=
  s.done (s.wakeComparator c k)

/-! ### Test access port (R648) -/

/-- TAP_INSTRUCTION: EXTEST, CLAMP and HIGHZ act only while RESET_N is held low from outside and are BYPASS otherwise; DEBUG
halts a running control processor. -/
def State.tapInstruction (s : State) (t : TapInstr) : State :=
  let t := match t with
    | .extest => if s.pwr.resetHeld then t else .bypass
    | .clamp => if s.pwr.resetHeld then t else .bypass
    | .highz => if s.pwr.resetHeld then t else .bypass
    | _ => t
  let s := { s with pwr.tap := t }
  if t = .debug ∧ s.clocked ∧ s.pwr.phase ≠ .standby then { s with pwr.debugHalt := true } else s

def execTapInstruction (t : TapInstr) (s : State) : Host.Outcome State Fault Refusal :=
  s.done (s.tapInstruction t)

end Sys2Proof.Machine
end

