-- ==== Sys2Proof/Machine/HostPort.lean ====
section
/-! DEFINITION. The host port: direct registers, delivered words, SPI transfers (chapter 10). -/
namespace Sys2Proof.Machine

/-! ### Direct registers as they read (R370) -/

/-- SOFT_RESET is armed and its 1 ms has not lapsed (R378). -/
def State.armed (s : State) : Bool :=
  match s.host.softArmed with
  | some t => decide (s.time < t + 24576)
  | none => false

def State.statusReg (s : State) : Word :=
  w32 (packBits [s.isReady, s.hirqLow, s.host.rspHead != s.host.rspTail, s.host.evtHead != s.host.evtTail, s.host.bellCmd,
      s.kiln.cap.valid, s.kiln.safe, s.fw.paused, s.host.mbxCollide, s.host.crcErr, s.host.addrErr, s.host.frameErr]
    + s.host.xferCnt % 256 * 0x10000 + 0xA0000000)

/-- Pending actions and the milliseconds to the earliest deadline, rounded up (R350). -/
def State.pendingActions (s : State) : List PendAct := s.kiln.ready ++ s.kiln.acts

def State.timerLeft (s : State) : Nat :=
  match minBy (fun a b => decide (a < b)) (s.pendingActions.map fun a => a.deadline) with
  | some d => min 127 ((d - s.time + 24575) / 24576)
  | none => 0

def State.faultSummary (s : State) : Word :=
  let c := s.kiln.cap
  w32 (b2n c.valid + c.cls % 4 * 2 + b2n s.latched * 8 + b2n c.fromLatch * 16 + b2n c.acted * 32
    + min 7 s.pendingActions.length * 64 + s.timerLeft * 512 + c.merged * 0x10000 + c.seq * 0x1000000)

def State.handoverState (s : State) : Word :=
  w32 (s.host.hoStep % 8 + s.host.activeSlot % 2 * 8 + s.host.hoResult % 256 * 256 + s.host.hoCount % 256 * 0x10000)

/-- The direct register at an offset; RSV offsets and WO registers read 0. -/
def State.directReg (s : State) (o : Nat) : Word :=
  match o with
  | 0x00 => s.part.variant.devId
  | 0x04 => 0x00010101
  | 0x08 => s.statusReg
  | 0x0C => w32 (s.time / 2 ^ 32)
  | 0x10 => w32 s.time
  | 0x14 => w32 (s.time / 2 ^ 32)
  | 0x18 => s.part.variant.features
  | 0x20 => w32 s.host.angleBlock
  | 0x24 => w32 (nth s.host.angles 0)
  | 0x28 => w32 (nth s.host.angles 1)
  | 0x2C => w32 (nth s.host.angles 2)
  | 0x30 => w32 (nth s.host.angles 3)
  | 0x40 => w32 s.host.cmdHead
  | 0x44 => w32 (packBits [s.host.bellCmd, nthB s.host.bellBulk 0, nthB s.host.bellBulk 1])
  | 0x48 => w32 s.host.cmdTail
  | 0x4C => w32 s.host.rspHead
  | 0x50 => w32 s.host.rspTail
  | 0x54 => w32 s.host.evtHead
  | 0x58 => w32 s.host.evtTail
  | 0x5C => w32 (packBits [nthB s.host.own 0, nthB s.host.own 1])
  | 0x60 => s.host.irqStatus
  | 0x64 => s.host.irqEnable
  | 0x68 => w32 (b2n s.host.crcEn + 2 * b2n (s.agrees 9))
  | 0x6C => s.pwr.resetCause
  | 0x70 => s.host.aliveCfg
  | 0x74 => w32 (b2n s.armed * 0x10000)
  | 0x78 => s.handoverState
  | 0x7C => w32 s.host.collideAddr
  | 0x80 => s.faultSummary
  | 0x84 => w32 s.kiln.cap.msg.toNat
  | 0x88 => w32 (s.kiln.cap.msg.toNat / 2 ^ 32)
  | 0x8C => w32 (s.kiln.cap.master % 16 + s.kiln.cap.access % 8 * 16 + s.kiln.cap.conseq * 0x10000)
  | 0x90 => w32 s.kiln.cap.time
  | 0x94 => w32 (s.kiln.cap.time / 2 ^ 32)
  | _ => 0

/-- What a read of an address returns (R353, R354). -/
def State.hostRead (s : State) (addr : Nat) : Word :=
  let a := addr / 4 * 4
  if a < 0x100 then s.directReg a
  else if 0x10000 ≤ a ∧ a < 0x20000 then s.mbx ((a - 0x10000) / 4)
  else 0

/-! ### Delivered words (R354, R363) -/

/-- A host error sets its STATUS bit and IRQ_STATUS.HOST_ERR. -/
def State.addrErr (s : State) : State := { s.irq 9 with host.addrErr := true }
def State.frameErr (s : State) : State := { s.irq 9 with host.frameErr := true }
def State.crcErr (s : State) : State := { s.irq 9 with host.crcErr := true }

/-- Half h is handed over: OWNh and the doorbell bit set at once; nothing while OWNh is 1 already (R373). -/
def State.handHalf (s : State) (h : Nat) : State :=
  if nthB s.host.own h then s
  else { s with host.own := s.host.own.set h true, host.bellBulk := s.host.bellBulk.set h true }

/-- FAULT_ACK (R337): the current SEQ releases the capture set and cancels every pending action. -/
def State.ackFault (s : State) (v : Word) : State :=
  if v.toNat % 256 = s.kiln.cap.seq then
    { s with kiln.cap.valid := false, kiln.acts := [], kiln.ready := [] }
  else s

/-- A word of the direct registers, by its access codes. Ring registers and DOORBELL before READY set ADDR_ERR (R367). -/
def State.directWrite (s : State) (o : Nat) (v : Word) : State :=
  let ring := o == 0x40 || o == 0x44 || o == 0x50 || o == 0x58
  if ring && !s.isReady then s.addrErr else
  match o with
  | 0x08 => { s with
      host.mbxCollide := s.host.mbxCollide && !v.getLsbD 8
      host.crcErr := s.host.crcErr && !v.getLsbD 9
      host.addrErr := s.host.addrErr && !v.getLsbD 10
      host.frameErr := s.host.frameErr && !v.getLsbD 11 }
  | 0x40 => { s with host.cmdHead := v.toNat % 4096 }
  | 0x44 =>
    let s := if v.getLsbD 1 then s.handHalf 0 else s
    let s := if v.getLsbD 2 then s.handHalf 1 else s
    if v.getLsbD 0 then { s with host.bellCmd := true } else s
  | 0x50 => { s with host.rspTail := v.toNat % 2048 }
  | 0x58 => { s with host.evtTail := v.toNat % 2048 }
  | 0x60 => { s with host.irqStatus := s.host.irqStatus &&& ~~~v }
  | 0x64 => { s with host.irqEnable := v &&& 0x7FF }
  | 0x68 => { s with host.crcEn := v.getLsbD 0 && s.agrees 9 }
  | 0x6C => { s with pwr.resetCause := s.pwr.resetCause &&& ~~~(v &&& 0x7F) }
  | 0x70 => { s with
      host.aliveCfg := v &&& 0xFF01
      pwr.alive := s.pwr.alive && v.getLsbD 0 }
  | 0x98 => s.ackFault v
  | _ => s

/-- A word of the mailbox (R354); nothing reaches it before READY (R367). -/
def State.mailboxWrite (s : State) (a : Nat) (v : Word) : State :=
  let i := (a - 0x10000) / 4
  if !s.isReady then s.addrErr
  else if i < 4096 then s.setMbx i v
  else if i < 8192 then s.addrErr
  else if nthB s.host.own ((i - 8192) / 4096) then s.addrErr
  else s.setMbx i v

/-- Any delivered word but the second key disarms SOFT_RESET (R378). -/
def State.disarm (s : State) : State := { s with host.softArmed := none }

/-- A delivered word, and whether it is the key that starts a soft reset (R361, R378, R617). -/
def State.deliver (s : State) (addr : Nat) (v : Word) : State × Bool :=
  let a := addr / 4 * 4
  let was := s.armed
  let s := s.disarm
  if a = 0x74 then
    match v.toNat % 65536 with
    | 0x5A5A => ({ s with host.softArmed := some s.time }, false)
    | 0xA5A5 => (s, was)
    | 0x3C3C => (if was then { s with pwr.standbyReq := true } else s, false)
    | _ => (s, false)
  else if a < 0x100 then (s.directWrite a v, false)
  else if 0x10000 ≤ a ∧ a < 0x20000 then (s.mailboxWrite a v, false)
  else (s.addrErr, false)

/-- A soft reset (R378, R622). -/
def State.softReset (s : State) : State := s.beginReset 6 true false

/-- One word written by the host outside a full transfer's account: nothing before PLL lock (R367); in standby the edge of
HS_CS_N wakes the device and the word has no effect (R369). -/
def State.hostWord (s : State) (addr : Nat) (v : Word) : State :=
  match s.pwr.phase with
  | .inReset => s
  | .released => s
  | .standby => s.wake none
  | _ =>
    let (s, reset) := s.deliver addr v
    if reset then s.softReset else s

/-! ### Transfers (R352, R361 to R366) -/

def hdrRead (h : Word) : Bool := h.getLsbD 31
def hdrCount (h : Word) : Nat := bits h.toNat 24 7 + 1
def hdrAddr (h : Word) : Nat := bits h.toNat 0 24

/-- The bytes a trailer covers. -/
def crcOver (header : Word) (ws : List Word) : Nat := crc8 ((header :: ws).flatMap beBytes)

/-- The control processor writes the mailbox word of data word k in the same cycle: its write lands (R380). -/
def State.collision (s : State) (a : Nat) (x : Word) : State :=
  if 0x10000 ≤ a ∧ a < 0x20000 ∧ s.isReady then
    let s1 := (s.setMbx ((a - 0x10000) / 4) x).irq 8
    { s1 with
      host.mbxCollide := true
      host.collideAddr := if s.host.mbxCollide then s.host.collideAddr else a }
  else s

/-- The first `k` data words take effect in address order from word `i`; the flag says whether a soft reset was keyed. -/
def State.deliverAll (s : State) (x : Transfer) (addr : Nat) : Nat → Nat → State × Bool
  | 0, _ => (s, false)
  | k + 1, i =>
    let a := (addr + 4 * i) / 4 * 4
    let (s1, r1) := s.deliver a (nthW x.data i)
    let s1 := match x.collide with
      | some (j, v) => if j = i then s1.collision a v else s1
      | none => s1
    let (s2, r2) := s1.deliverAll x addr k (i + 1)
    (s2, r1 || r2)

/-- Device time d ticks on, within the present block. -/
def State.ticksOn (s : State) (d : Nat) : State :=
  { s with time := max s.time (min (s.time + d) (4096 * (s.lastBlock + 1) - 1)) }

/-- The first `bits` bits of a stream of words, most significant first, as words; a last partial word is filled up with 0. -/
def cutBits (bits : Nat) (ws : List Word) : List Word :=
  (List.range ((bits + 31) / 32)).map fun i => nthW ws i &&& w32 (2 ^ 32 - 2 ^ (32 - min 32 (bits - 32 * i)))

/-- The words of a read at their capture edges (R358). -/
def State.readWords (s : State) (x : Transfer) : List Word :=
  (List.range (hdrCount x.header)).map fun k => (s.ticksOn (nth x.ticks k)).hostRead (hdrAddr x.header + 4 * k)

/-- What the device shifts out on HS_SDO, bit for bit: STATUS, in a read the words and the trailer, and 0 for everything else
(R352, R356, R364). -/
def State.shiftOut (s : State) (x : Transfer) : List Word :=
  let ws := if hdrRead x.header then s.readWords x else []
  let crc : List Word := if hdrRead x.header && s.host.crcEn then [w32 (crcOver x.header ws * 2 ^ 24)] else []
  cutBits x.bits (s.statusReg :: (ws ++ crc))

/-- A write transfer: its words, FRAME_ERR, CRC_ERR and XFER_CNT. -/
def State.writeTransfer (s : State) (x : Transfer) : State :=
  let n := hdrCount x.header
  let full := 32 + 32 * n
  let countUp (t : State) : State := { t with host.xferCnt := (t.host.xferCnt + 1) % 256 }
  let finish (r : State × Bool) : State := if r.2 then r.1.softReset else r.1
  if s.host.crcEn then
    if x.bits ≠ full + 8 then s.frameErr
    else if crcOver x.header ((List.range n).map fun i => nthW x.data i) ≠ x.trailer.toNat then s.crcErr
    else
      let r := s.deliverAll x (hdrAddr x.header) n 0
      finish (countUp r.1, r.2)
  else
    let done := min n ((x.bits - 32) / 32)
    let r := s.deliverAll x (hdrAddr x.header) done 0
    let t := if x.bits ≠ full then r.1.frameErr else r.1
    finish (if done = n then countUp t else t, r.2)

/-- HOST_TRANSFER. -/
def State.hostTransfer (s : State) (x : Transfer) : State :=
  match s.pwr.phase with
  | .inReset => { s with host.sdo := [] }
  | .released => { s with host.sdo := [] }
  | .standby => { s.wake none with host.sdo := cutBits x.bits [s.statusReg] }
  | _ =>
    let s := { s with host.sdo := s.shiftOut x }
    if x.bits < 32 then s.frameErr
    else if hdrRead x.header then
      let need := 32 + 32 * hdrCount x.header + (if s.host.crcEn then 8 else 0)
      let s := s.ticksOn ((x.ticks.take (hdrCount x.header)).foldl max 0)
      if x.bits < need then s.frameErr else s
    else s.writeTransfer x

def execHostTransfer (x : Transfer) (s : State) : Host.Outcome State Fault Refusal :=
  s.done (s.hostTransfer x)

/-! ### Single words -/

/-- REGISTER_WRITE (R354). -/
def execRegisterWrite (addr : Nat) (value : Word) (s : State) : Host.Outcome State Fault Refusal :=
  s.done (s.hostWord addr value)

/-- DOORBELL_CMD (R384). -/
def execDoorbellCmd (s : State) : Host.Outcome State Fault Refusal :=
  s.done (s.hostWord 0x44 1)

/-- DOORBELL_BULK (R373). -/
def execDoorbellBulk (h : Nat) (s : State) : Host.Outcome State Fault Refusal :=
  s.done (s.hostWord 0x44 (if h = 0 then 2 else if h = 1 then 4 else 0))

/-- FAULT_ACK (R337). -/
def execFaultAck (value : Word) (s : State) : Host.Outcome State Fault Refusal :=
  s.done (s.hostWord 0x98 value)

/-- SOFT_RESET_ARM (R378). -/
def execSoftResetArm (s : State) : Host.Outcome State Fault Refusal :=
  s.done (s.hostWord 0x74 0x5A5A)

/-- SOFT_RESET (R378): the second key, which acts only as the next delivered word after arming. -/
def execSoftReset (s : State) : Host.Outcome State Fault Refusal :=
  s.done (s.hostWord 0x74 0xA5A5)

/-- STANDBY_REQUEST (R617). -/
def execStandbyRequest (s : State) : Host.Outcome State Fault Refusal :=
  s.done (s.hostWord 0x74 0x3C3C)

/-- SOFT_RESET_DISARM (R378): 1 ms after arming. -/
def State.lapse (s : State) : State :=
  if s.armed then s else s.disarm

def execSoftResetDisarm (s : State) : Host.Outcome State Fault Refusal :=
  s.done s.lapse

end Sys2Proof.Machine
end

