-- ==== Sys2Proof/Machine/Protocol.lean ====
section
/-! DEFINITION. Taking a command, the checks of 11 R394, and the protocol commands 0x01 to 0x07 (chapter 11). -/
namespace Sys2Proof.Machine

/-! ### The command table (R404, R413) -/

structure CmdRule where
  opcode   : Nat
  sess0    : Bool
  lenLo    : Nat
  lenHi    : Nat
  needs    : Option Nat
  deferred : Bool
  safe     : Bool
deriving DecidableEq, Repr

/-- A command that any open session may send. -/
def anyCmd (op lo hi : Nat) (safe : Bool) : CmdRule := ⟨op, false, lo, hi, none, false, safe⟩
/-- A command of session 0. -/
def zeroCmd (op lo hi : Nat) : CmdRule := ⟨op, true, lo, hi, none, false, false⟩
/-- A deferred command of session 0. -/
def deferCmd (op lo hi : Nat) : CmdRule := ⟨op, true, lo, hi, none, true, false⟩

def protocolRules : List CmdRule :=
  [⟨0x01, true, 3, 3, none, false, true⟩, anyCmd 0x02 0 0 true, zeroCmd 0x03 1 1, zeroCmd 0x04 1 1, zeroCmd 0x05 1 1,
   zeroCmd 0x06 2 255, anyCmd 0x07 2 2 true]

def taskRules : List CmdRule :=
  [anyCmd 0x10 7 7 false, anyCmd 0x11 4 4 false, anyCmd 0x12 4 4 false, anyCmd 0x13 6 6 false, anyCmd 0x14 6 6 false,
   zeroCmd 0x15 8 8, anyCmd 0x16 4 4 false, anyCmd 0x17 1 1 false, zeroCmd 0x20 1 1, anyCmd 0x21 1 1 true, anyCmd 0x22 0 0 true]

def contentRules : List CmdRule :=
  [deferCmd 0x30 1 1, zeroCmd 0x31 1 1, deferCmd 0x32 1 1, deferCmd 0x33 1 1, zeroCmd 0x34 1 1, anyCmd 0x35 0 0 true,
   zeroCmd 0x40 7 7, deferCmd 0x48 0 0, deferCmd 0x49 3 3, deferCmd 0x4A 3 254, deferCmd 0x4B 0 0, zeroCmd 0x4C 0 0,
   anyCmd 0x4D 1 1 true, deferCmd 0x4E 3 3]

def serviceRules : List CmdRule :=
  [⟨0x50, true, 1, 1, some 1, true, false⟩, ⟨0x51, true, 1, 1, some 10, false, false⟩, ⟨0x52, true, 2, 254, some 1, false, false⟩,
   deferCmd 0x58 2 2, anyCmd 0x59 0 0 true, zeroCmd 0x5A 0 0, zeroCmd 0x5C 1 1, zeroCmd 0x5D 0 0, anyCmd 0x60 2 2 true,
   zeroCmd 0x61 1 1, anyCmd 0x68 0 0 true, zeroCmd 0x69 16 16, deferCmd 0x70 3 3, deferCmd 0x71 1 1,
   ⟨0x72, true, 0, 0, some 7, false, false⟩, zeroCmd 0x73 0 0]

def cmdRules : List CmdRule := protocolRules ++ taskRules ++ contentRules ++ serviceRules

/-- The rule of an opcode; none for an opcode that is no command (R391, R413). -/
def cmdRule (op : Nat) : Option CmdRule := cmdRules.find? fun r => r.opcode == op

/-! ### Checks 2 to 8 of R394 -/

/-- A session that commands may name: open, and no close of it taken (R405). -/
def State.sessionOpen (s : State) (k : Nat) : Bool :=
  let x := s.fw.sessions.getD k Session.closed
  x.opened && !x.closing

/-- A TIMEBASE write sets a SOURCE field to 2 (R407). -/
def setsQuadrature (off : Nat) (ws : List Word) : Bool :=
  (writeWords off ws).any fun e =>
    decide (0x40 ≤ e.1) && decide (e.1 < 0x140) && e.1 % 0x40 == 0 && bits e.2.toNat 0 3 == 2

/-- Step 7: a feature that the command needs is not agreed. -/
def State.lacksFeature (s : State) (r : CmdRule) (c : Cmd) : Bool :=
  let table := match r.needs with
    | some k => !s.agrees k
    | none => false
  let own :=
    if c.opcode = 0x06 then
      match bits (c.w 0) 0 8 with
      | 0x04 => !s.agrees 5
      | 0x05 => !s.agrees 4
      | 0x09 => !s.agrees 3
      | 0x0C => setsQuadrature (bits (c.w 0) 16 16) (c.words.drop 1) && !s.agrees 8
      | _ => false
    else if 0x10 ≤ c.opcode ∧ c.opcode ≤ 0x16 then bits (c.w 1) 0 2 == 3 && !s.agrees 5
    else if c.opcode = 0x58 then !s.agrees (if bit (c.w 0) 0 then 12 else 11)
    else false
  table || own

/-- The bulk half that a command names (R390). -/
def Cmd.half (c : Cmd) : Option Nat :=
  if c.opcode = 0x49 ∨ c.opcode = 0x4E ∨ c.opcode = 0x70 then some (bits (c.w 0) 0 1) else none

/-- The opcodes that exclude a GRIST_COMMIT and are excluded by one (R414). -/
def commitGroup : List Nat := [0x30, 0x32, 0x33, 0x50, 0x4E]

/-- The running diagnostic job holds what the command would touch (R533). -/
def State.diagHolds (s : State) (c : Cmd) : Bool :=
  match s.fw.diag with
  | none => false
  | some d =>
    let writes := writeWords (bits (c.w 0) 16 16) (c.words.drop 1)
    let dacWord (o : Nat) : Bool := decide (0x10 ≤ o) && d.dacs.contains ((o - 0x10) / 0x20)
    let enables (e : Nat × Word) : Bool := e.1 == 0 &&
      d.senses.any fun k => [k, 8 + k, 16 + k].any fun i => e.2.getLsbD i != bit (s.futureReg bSPARGE [] 0) i
    match c.opcode with
    | 0x50 => true
    | 0x51 => true
    | 0x61 => decide (8 ≤ bits (c.w 0) 0 4) && decide (bits (c.w 0) 0 4 ≤ 10)
    | 0x06 =>
      (bits (c.w 0) 0 8 == bDAC && writes.any fun e => dacWord e.1)
        || (bits (c.w 0) 0 8 == bSPARGE && writes.any fun e => e.1 == 4 || enables e)
    | _ => false

/-- Operations of a command's own kind that are in progress (R437, R442, R444, R446). -/
def State.ownBusy (s : State) (c : Cmd) : Bool :=
  match c.opcode with
  | 0x50 => s.cop.swapLen.isSome
  | 0x5C => s.fw.capture.isSome
  | 0x61 => s.kiln.windows.any fun w => w.target == bits (c.w 0) 0 4
  | 0x70 => s.host.hoStep == 2 || s.host.hoStep == 4 || s.host.hoStep == 5
      || (s.host.hoStep == 6 && s.store.anchor.fwSlot != s.host.activeSlot)
  | _ => false

/-- A conflicting operation is in progress (R414, R442, R533). -/
def State.conflicts (s : State) (r : CmdRule) (c : Cmd) : Bool :=
  (r.deferred && ((s.jobOf c.opcode).isSome
    || (c.opcode == 0x4B && commitGroup.any fun op => (s.jobOf op).isSome)
    || (commitGroup.contains c.opcode && (s.jobOf 0x4B).isSome)))
  || (c.half.isSome && s.fw.capture.isSome) || s.diagHolds c || s.ownBusy c

/-- The first of the checks 2 to 8 that fails, and the conflicts of R414. -/
def State.refusal (s : State) (c : Cmd) : Option Nat :=
  match cmdRule c.opcode with
  | none => some stBadOpcode
  | some r =>
    if c.words.length < r.lenLo ∨ r.lenHi < c.words.length then some stBadLength
    else if !s.sessionOpen c.session || (r.sess0 && c.session != 0) then some stBadSession
    else if !s.fw.helloDone && !r.safe then some stNoHello
    else if s.kiln.safe && !r.safe then some stSafeState
    else if s.lacksFeature r c then some stNotAgreed
    else if (match c.half with | some h => !nthB s.host.own h | none => false) then some stBulkNotOwned
    else if s.conflicts r c then some stBusy
    else none

/-! ### Taking (R384, R388, R411) -/

/-- Words of ring responses that are taken and not yet posted. -/
def State.queuedWords (s : State) : Nat :=
  s.fw.replies.foldl (fun acc r => acc + if r.origin = .ring then 1 + (match r.words with | some ws => ws.length | none => 2) else 0) 0

/-- At least 257 words of the response ring are free, one of which stays unused (R388). -/
def State.responseRoom (s : State) : Bool := decide (256 + s.queuedWords ≤ s.rspFree)

/-- The firmware takes commands: not while a handover waits for its boundary (R411). -/
def State.canTake (s : State) : Bool := s.fwTakes && s.host.hoStep != 4

/-- A command is taken: the first failing check answers it, else its work is done (R394). A ring command is taken only while
the response ring has room. -/
def State.takeWith (s : State) (c : Cmd) (work : Cmd → State → State) : State :=
  if !s.canTake || (c.origin == .ring && !s.responseRoom) then s
  else match s.refusal c with
    | some st => s.answer c st 0
    | none => work c s

/-! ### HELLO (R399 to R403) -/

/-- The agreed set that host bits give (R400). -/
def agreedSet (offered host : Word) : Word :=
  let a := offered &&& host
  let need (a : Word) (k : Nat) (req : List Nat) : Word :=
    if req.all fun j => a.getLsbD j then a else a &&& ~~~(1#32 <<< k)
  let a := if a.getLsbD 0 && a.getLsbD 6 then a else a &&& ~~~0x41#32
  need (need (need (need a 10 [1]) 11 [4, 5]) 12 [5]) 14 [5]

/-- A bit that a later HELLO may not drop now (R401, R403). -/
def State.locked (s : State) (k : Nat) : Bool :=
  match k with
  | 0 => true
  | 2 => true
  | 3 => true
  | 5 => true
  | 6 => true
  | 13 => true
  | 8 => (List.range 4).any fun t => bits (s.futureReg bTIMEBASE [] (tbReg t 0)) 0 3 == 2
  | 11 => s.fw.diag.isSome
  | 12 => s.fw.diag.isSome
  | 14 => bits (s.futureReg bSPARGE [] 0) 8 8 != 0
  | _ => false

/-- HELLO: the agreement it answers with comes into force as its response is posted (R402). -/
def State.cmdHello (c : Cmd) (s : State) : State :=
  if bits (c.w 0) 16 16 ≠ 1 then s.answer c stBadVersion 0
  else if c.w 2 ≠ 0 then s.answer c stBadFeature 0
  else
    let offered := s.part.variant.features
    let a := agreedSet offered (nthW c.words 1)
    if s.fw.helloDone && (List.range 16).any fun k => s.agrees k && !a.getLsbD k && s.locked k then
      s.answer c stFeatureLocked 0
    else ({ s with fw.replies := s.fw.replies ++ [Reply.mk c.opcode c.session c.seq c.origin
      (some [statusWord stOk 0, 0x00010000, offered, 0, a, 0, Config.fwVersion]) (some a)] }).flushReplies

/-! ### Sessions (R405) -/

/-- PING: device time at taking. -/
def State.cmdPing (c : Cmd) (s : State) : State := s.ok c (timeWords s.time)

def Session.ofWord (w : Nat) : Session := ⟨true, false, bits w 8 3, bits w 16 16⟩

/-- The session number SESSION_OPEN uses: the one named, or the lowest free. -/
def State.freeSession (s : State) : Option Nat :=
  (List.range 32).find? fun k => !(s.fw.sessions.getD k Session.closed).opened && k != 0

/-- SESSION_OPEN. -/
def State.cmdSessionOpen (c : Cmd) (s : State) : State :=
  let k := bits (c.w 0) 0 8
  if s.part.variant.voices < bits (c.w 0) 16 16 then s.answer c stBadParam 0
  else if k = 0 then
    match s.freeSession with
    | some j => { s with fw.sessions := s.fw.sessions.set j (Session.ofWord (c.w 0)) }.ok c [w32 j]
    | none => s.answer c stSessionLimit 0
  else if 31 < k ∨ (s.fw.sessions.getD k Session.closed).opened then s.answer c stBadParam 0
  else { s with fw.sessions := s.fw.sessions.set k (Session.ofWord (c.w 0)) }.ok c [w32 k]

/-- SESSION_SET. -/
def State.cmdSessionSet (c : Cmd) (s : State) : State :=
  let k := bits (c.w 0) 0 8
  if k = 0 ∨ !s.sessionOpen k then s.answer c stBadSession 0
  else if s.part.variant.voices < bits (c.w 0) 16 16 then s.answer c stBadParam 0
  else { s with fw.sessions := s.fw.sessions.set k (Session.ofWord (c.w 0)) }.ok c []

/-- SESSION_CLOSE: applied at the next boundary, answered after it (R223, R405). -/
def State.cmdSessionClose (c : Cmd) (s : State) : State :=
  let k := bits (c.w 0) 0 8
  if k = 0 ∨ !s.sessionOpen k then s.answer c stBadSession 0
  else { s with fw.sessions := modAt s.fw.sessions k fun x => { x with closing := true } }.awaitReply c

/-! ### Register images (R406 to R408) -/

/-- A word that acts at taking: TMR_GSTART and DACd_PUSH (R521, R551). -/
def actsAtOnce (b o : Nat) : Bool :=
  (b == bTIMER && o == 0) || (b == bDAC && decide (0x10 ≤ o) && (o - 0x10) % 0x20 == 8)

/-- Its action. -/
def State.actNow (s : State) (b : Nat) (e : Nat × Word) : State :=
  if b = bTIMER then
    if e.2.getLsbD 8 then { s with chain.ownStart := some ((s.chain.ownStart.getD 0) ||| bits e.2.toNat 0 7) }
    else s.globalStart (bits e.2.toNat 0 7)
  else { s with dacs := modAt s.dacs ((e.1 - 0x10) / 0x20) fun d => { d with queue := d.queue ++ [bits e.2.toNat 0 12] } }

/-- The accepted words of a write: those that act at once do, the rest wait for the next boundary. -/
def State.schedule (s : State) (b : Nat) (extra : List (Nat × Word)) : State :=
  let now := extra.filter fun e => actsAtOnce b e.1
  let later := extra.filter fun e => !actsAtOnce b e.1
  let s := now.foldl (fun (s : State) e => s.actNow b e) s
  { s with fw.writes := s.fw.writes ++ later.map fun (e : Nat × Word) => PendingWrite.mk b e.1 e.2 s.nextBlock }

/-- IMAGE_WRITE. -/
def State.cmdImageWrite (c : Cmd) (s : State) : State :=
  let b := bits (c.w 0) 0 8
  let off := bits (c.w 0) 16 16
  let ws := c.words.drop 1
  if imageSize b = 0 then s.answer c stBadBlock 0
  else match s.imageFault b off ws with
    | some i => s.answer c stImageRejected i
    | none =>
      let extra := writeWords off ws
      let n : Word := if extra.any fun e => actsAtOnce b e.1 then 0xFFFFFFFF else w32 s.nextBlock
      (s.schedule b extra).ok c [n]

/-- IMAGE_READ. -/
def State.cmdImageRead (c : Cmd) (s : State) : State :=
  let b := bits (c.w 0) 0 8
  let off := bits (c.w 0) 16 16
  let n := c.w 1
  if imageSize b = 0 then s.answer c stBadBlock 0
  else if off % 4 ≠ 0 then s.answer c stBadParam 0
  else if n < 1 ∨ 254 < n then s.answer c stBadParam 1
  else if imageSize b < off + 4 * n then s.answer c stBadParam 0
  else
    let waiting := s.fw.writes.any fun p => p.block == b
    s.respond c (w32 (b2n waiting * 0x100) :: (List.range n).map fun i => s.liveReg b (off + 4 * i))

/-! ### The rows -/

/-- HELLO (R399 to R403). -/
def execHello (m : Msg) (s : State) : Host.Outcome State Fault Refusal :=
  s.done (s.takeWith (cmdOf 0x01 m) State.cmdHello)

/-- PING (R404). -/
def execPing (m : Msg) (s : State) : Host.Outcome State Fault Refusal :=
  s.done (s.takeWith (cmdOf 0x02 m) State.cmdPing)

/-- SESSION_OPEN (R405). -/
def execSessionOpen (m : Msg) (s : State) : Host.Outcome State Fault Refusal :=
  s.done (s.takeWith (cmdOf 0x03 m) State.cmdSessionOpen)

/-- SESSION_SET (R405). -/
def execSessionSet (m : Msg) (s : State) : Host.Outcome State Fault Refusal :=
  s.done (s.takeWith (cmdOf 0x04 m) State.cmdSessionSet)

/-- SESSION_CLOSE (R405). -/
def execSessionClose (m : Msg) (s : State) : Host.Outcome State Fault Refusal :=
  s.done (s.takeWith (cmdOf 0x05 m) State.cmdSessionClose)

/-- IMAGE_WRITE (R407). -/
def execImageWrite (m : Msg) (s : State) : Host.Outcome State Fault Refusal :=
  s.done (s.takeWith (cmdOf 0x06 m) State.cmdImageWrite)

/-- IMAGE_READ (R408). -/
def execImageRead (m : Msg) (s : State) : Host.Outcome State Fault Refusal :=
  s.done (s.takeWith (cmdOf 0x07 m) State.cmdImageRead)

/-- GLOBAL_START (R551): the IMAGE_WRITE that carries TMR_GSTART is taken. -/
def execGlobalStart (m : Msg) (s : State) : Host.Outcome State Fault Refusal :=
  s.done (s.takeWith (cmdOf 0x06 m) State.cmdImageWrite)

/-- DAC_PUSH (R521): the IMAGE_WRITE that carries a PUSH word is taken. -/
def execDacPush (m : Msg) (s : State) : Host.Outcome State Fault Refusal :=
  s.done (s.takeWith (cmdOf 0x06 m) State.cmdImageWrite)

end Sys2Proof.Machine
end

