-- ==== Sys2Proof/Machine/Tasks.lean ====
section
/-! DEFINITION. Task commands, CANCEL, and the allocator and status commands (12 R417 to R427). -/
namespace Sys2Proof.Machine

/-! ### Task commands (R417 to R422) -/

/-- Fields of payload words 0 and 1 (R417). -/
def Cmd.note (c : Cmd) : Nat := bits (c.w 0) 0 16
def Cmd.flow (c : Cmd) : Nat := bits (c.w 0) 16 10
def Cmd.prio? (c : Cmd) : Option Nat := if bit (c.w 0) 29 then some (bits (c.w 0) 26 3) else none
def Cmd.dueCode (c : Cmd) : Nat := bits (c.w 1) 0 2

/-- The due condition of a task command. -/
def Cmd.due (c : Cmd) : Due :=
  let w := c.w 1
  match c.dueCode with
  | 0 => .now
  | 1 => .time (c.w 2 + c.w 3 * 2 ^ 32)
  | 2 => .angle (bits w 2 2) (bits w 8 4) (bits w 12 3) (c.w 2) (bits w 15 2) (bit w 17)
  | _ => .sense (bits w 2 3) (bits w 5 1) (bits w 6 2) (bit w 17)

/-- A field of the due condition is outside its range (R418): always a field of word 1. -/
def Cmd.dueBad (c : Cmd) : Bool :=
  let w := c.w 1
  match c.dueCode with
  | 2 => decide (bits w 8 4 < 1) || decide (8 < bits w 8 4) || decide (bits w 8 4 ≤ bits w 12 3) || bits w 15 2 == 3
  | 3 => bits w 6 2 == 3
  | _ => bit w 17

/-- The due point that a condition has from the start (R195). -/
def Due.point (d : Due) (next : Nat) : Option (Nat × Nat) :=
  match d with
  | .now => some (next, 0)
  | .time t => some (t / 4096, t / 256 % 16)
  | _ => none

/-- The ranges of a PARAM value (R58, R111, R114, R129, R144). -/
def paramOk (o v : Nat) : Bool :=
  match paramSize o with
  | none => false
  | some n =>
    let x := signed (8 * n) v
    decide (v < 256 ^ n) &&
      (if o = 0x0E then decide (v ≤ 0x8000)
       else if o = 0xC4 ∨ o = 0xD4 then decide (-3735552 ≤ x) && decide (x ≤ 5111808)
       else if o = 0xCA ∨ o = 0xDA then decide (0x1000 ≤ v)
       else true)

/-- The session's ceiling. -/
def State.ceiling (s : State) (k : Nat) : Nat := (s.fw.sessions.getD k Session.closed).ceiling

/-- The named priority lowered to the ceiling, the ceiling where none is named (R192). -/
def State.namedPrio (s : State) (c : Cmd) : Nat :=
  match c.prio? with
  | some p => min p (s.ceiling c.session)
  | none => s.ceiling c.session

/-- A task entry of the kind a priority needs is free (R189). -/
def State.entryFree (s : State) (prio : Nat) : Bool :=
  decide (s.hop.tasks.length < 4096) &&
    (decide (6 ≤ prio) || decide ((s.hop.tasks.filter fun e => decide (e.2.prio < 6)).length < 3840))

/-- The flow belongs to another session, or to session 0 alone (R199). -/
def State.flowBusy (s : State) (session flow : Nat) : Bool :=
  (decide (flow < 16) && session != 0) || s.hop.tasks.any fun e => e.2.flow == flow && e.2.session != session

/-- The free entry that is used: the manual does not say which, so a free value chooses (log 23). -/
def State.chooseEntry (s : State) : Nat × State :=
  let (x, s) := drawFree s
  let free := (List.range 4096).filter fun i => (sfind s.hop.tasks i).isNone
  (nth free (x % max 1 free.length), s)

/-- A task is made ready (R200, R201, R202). -/
def State.makeReady (s : State) (c : Cmd) (kind : TaskKind) (prio : Nat) (primed : List Nat) : State :=
  let (i, s) := s.chooseEntry
  let gen := (s.genOf i + 1) % 16
  let behind := s.hop.tasks.any fun e => e.2.flow == c.flow
  let t : Task :=
    { kind := kind, session := c.session, flow := c.flow, note := c.note, prio := prio, stamp := s.fw.stamp, due := c.due
      st := if behind then .pending else .armed, examined := none, point := c.due.point s.nextBlock, cross := 0
      fired := none, words := c.words, primed := primed
      quota := if c.session = 0 then none else some (s.fw.sessions.getD c.session Session.closed).quota }
  let s := { s with
    hop.tasks := sinsert s.hop.tasks i t
    hop.gen := sput (fun _ => 0) s.hop.gen i gen
    fw.stamp := (s.fw.stamp + 1) % 2 ^ 32 }
  s.ok c [w32 (i + 4096 * gen)]

/-- The checks common to every task, then the task. -/
def State.postTask (s : State) (c : Cmd) (kind : TaskKind) (prio : Nat) : State :=
  if s.flowBusy c.session c.flow then s.answer c stFlowBusy 0
  else if !s.entryFree prio then s.answer c stTaskFull 0
  else s.makeReady c kind prio []

/-! ### Priming (R271) -/

/-- The streams primed for a note, SMP oscillator by oscillator, up to the first for which there is no ring. -/
def State.primeRings (s : State) (r : Recipe) (n prio : Nat) : List Nat → State × List Nat
  | [] => (s, [])
  | i :: rest =>
    match s.streamFor r i 0 n prio, s.freeRing with
    | some st, some q =>
      let st : Stream := { st with id := s.store.nextStream, ring := q, voice := none, primed := true }
      let r1 := ((s.addStream st).queueRead st 3 ((n - 1) * 4096) (openWindow st 32)).primeRings r n prio rest
      (r1.1, st.id :: r1.2)
    | _, _ => (s, [])

/-- A note-on is primed: TIME due at the third boundary or later, PRIME_EN, and fewer than 256 notes primed. -/
def State.prime (s : State) (c : Cmd) (r : Recipe) (prio : Nat) : State × List Nat :=
  match c.due with
  | .time t =>
    let n := t / 4096
    if s.nextBlock + 2 ≤ n ∧ bit (s.regN bGRIST 0) 24 ∧ (s.hop.tasks.filter fun e => !e.2.primed.isEmpty).length < 256 then
      s.primeRings r n prio r.smpOscs
    else (s, [])
  | _ => (s, [])

/-! ### The commands -/

/-- Every table a recipe names is resident now (R103). -/
def State.tablesResident (s : State) (r : Recipe) : Bool :=
  r.tableObjects.all fun o => s.fw.tables.any fun t => t.object == o && t.gone.isNone

/-- NOTE_ON (R421). -/
def State.cmdNoteOn (c : Cmd) (s : State) : State :=
  if c.dueBad then s.answer c stBadParam 1 else
  match s.fw.banks.getD (bits (c.w 4) 0 2) none with
  | none => s.answer c stNotResident 0
  | some b =>
    match b.recipes[bits (c.w 4) 8 8]? with
    | none => s.answer c stNotResident 0
    | some r =>
      let prio := min (c.prio?.getD r.priority) (s.ceiling c.session)
      if !s.tablesResident r then s.answer c stNotResident 0
      else if 6 ≤ prio ∧ !s.objectsSafe r then s.answer c stSafetyObject 0
      else if s.flowBusy c.session c.flow then s.answer c stFlowBusy 0
      else if !s.entryFree prio then s.answer c stTaskFull 0
      else
        let (s, primed) := s.prime c r prio
        s.makeReady c .noteOn prio primed

/-- The priority of a task on a note (R192): its voice's, or the named one where it has no voice. -/
def State.notePrio (s : State) (c : Cmd) : Nat :=
  match s.noteVoices c.session c.note with
  | e :: _ => e.2.prio
  | [] => s.namedPrio c

/-- RELEASE. -/
def State.cmdRelease (c : Cmd) (s : State) : State :=
  if c.dueBad then s.answer c stBadParam 1 else s.postTask c .release (s.notePrio c)

/-- KILL. -/
def State.cmdKill (c : Cmd) (s : State) : State :=
  if c.dueBad then s.answer c stBadParam 1 else s.postTask c .kill (s.notePrio c)

/-- PARAM (R422). -/
def State.cmdParam (c : Cmd) (s : State) : State :=
  let o := bits (c.w 4) 0 9
  if c.dueBad then s.answer c stBadParam 1
  else if (paramSize o).isNone then s.answer c stBadParam 4
  else if !paramOk o (c.w 5) then s.answer c stBadParam 5
  else s.postTask c .param (s.notePrio c)

/-- CONTROLLER. -/
def State.cmdController (c : Cmd) (s : State) : State :=
  if c.dueBad then s.answer c stBadParam 1 else s.postTask c .controller (s.namedPrio c)

/-- PROFILE. -/
def State.cmdProfile (c : Cmd) (s : State) : State :=
  if c.dueBad then s.answer c stBadParam 1 else s.postTask c .profile (s.namedPrio c)

/-- EVENT. -/
def State.cmdEvent (c : Cmd) (s : State) : State :=
  if c.dueBad then s.answer c stBadParam 1 else s.postTask c .event (s.namedPrio c)

/-- CANCEL (R205, R424). -/
def State.cmdCancel (c : Cmd) (s : State) : State :=
  let i := bits (c.w 0) 0 12
  if s.genOf i ≠ bits (c.w 0) 12 4 then s.answer c stStaleHandle 0 else
  match sfind s.hop.tasks i with
  | some t =>
    if c.session ≠ 0 ∧ t.session ≠ c.session then s.answer c stNotOwner 0
    else ((s.unprime t).freeTask i false).answer c stOk 0
  | none =>
    match sfind s.hop.left i with
    | some l => s.answer c (if c.session ≠ 0 ∧ l.2 ≠ c.session then stNotOwner else if l.1 then stAlreadyApplied else stOk) 0
    | none => s.answer c stOk 0

/-! ### Allocator and status (R425 to R427) -/

/-- ALLOC_CFG: the fade takes effect from the next boundary (R215). -/
def State.cmdAllocCfg (c : Cmd) (s : State) : State :=
  let r := bits (c.w 0) 0 1
  let k := bits (c.w 0) 8 5
  if s.part.variant.regionCount ≤ r ∨ k < 1 ∨ 16 < k then s.answer c stBadParam 0
  else { s with hop.fadeNext := (s.hop.fadeNext.filter fun (x : Nat × Nat) => x.1 != r) ++ [(r, k)] }.ok c []

/-- FADE_BLOCKS of a region as last set. -/
def State.fadeBlocks (s : State) (r : Nat) : Nat :=
  match s.hop.fadeNext.find? fun (x : Nat × Nat) => x.1 == r with
  | some x => x.2
  | none => nth s.hop.fade r

/-- HOPPER_STATUS. -/
def State.cmdHopperStatus (c : Cmd) (s : State) : State :=
  let r := bits (c.w 0) 0 1
  if s.part.variant.regionCount ≤ r then s.answer c stBadParam 0
  else
    let k := s.hop.counts.getD r RegionCounts.zero
    let late (i : Nat) : Word := w32 (nth k.lateMax (2 * i) + 0x10000 * nth k.lateMax (2 * i + 1))
    s.ok c ([w32 s.hop.tasks.length, w32 k.carried, late 0, late 1, late 2, late 3]
      ++ [k.orphans, k.steals, k.hardSteals, k.streamSteals, k.quotaSteals, k.refusedVoice, k.refusedQuota,
          k.refusedStream, s.fadeBlocks r].map w32)

/-- A count of each region in the halves of a word. -/
def perRegion (f : Nat → Nat) : Word := w32 (f 0 + 0x10000 * f 1)

/-- Copper cycles as a percentage of 4,608. -/
def copperPercent (cycles : Nat) : Nat := min 255 (cycles * 100 / 4608)

/-- The Copper runs on one core (R313). -/
def State.copperSingle (s : State) : Bool := s.mash.disabled.any fun i => i == 12 || i == 13

/-- DEVICE_STATUS; the largest Copper use since the last read restarts. -/
def State.cmdDeviceStatus (c : Cmd) (s : State) : State :=
  let present (r : Nat) : Bool := decide (r < s.part.variant.regionCount)
  let spare (r : Nat) : Bool := present r && ((List.range 2).any fun k => nth s.mash.clusterOf (2 * r + k) == 3 * r + 2)
  let open' := (s.fw.sessions.filter fun x => x.opened).length
  let w1 := packBits [s.regionUp 0, s.regionUp 1, spare 0, spare 1, s.copperSingle, s.kiln.safe] + 0x100 * (open' % 32)
  let sounding (r : Nat) : Nat := (s.mash.voices.filter fun e => vRegion e.1 == r).length
  let up (r : Nat) (x : Nat) : Nat := if present r then x else 0
  let free (r : Nat) : Nat := up r (s.clusterFree r 0 + s.clusterFree r 1)
  let reserve (r : Nat) : Nat := up r (s.reserveOf r 0 + s.reserveOf r 1)
  let primed := (s.hop.tasks.filter fun e => !e.2.primed.isEmpty).length
  let temp := w32 ((s.pwr.tempDig % 0x10000).toNat + 0x10000 * (s.pwr.tempAna % 0x10000).toNat)
  let ws := [w32 w1, perRegion sounding, perRegion free, perRegion reserve, w32 (s.openStreams + 0x10000 * primed), temp,
    w32 (copperPercent s.cop.used + 0x100 * copperPercent s.cop.usedMax), s.fw.agreed] ++ timeWords s.time
  ({ s with cop.usedMax := 0 }).ok c ws

/-! ### The rows -/

/-- NOTE_ON (R421). -/
def execNoteOn (m : Msg) (s : State) : Host.Outcome State Fault Refusal :=
  s.done (s.takeWith (cmdOf 0x10 m) State.cmdNoteOn)

/-- RELEASE (R190). -/
def execRelease (m : Msg) (s : State) : Host.Outcome State Fault Refusal :=
  s.done (s.takeWith (cmdOf 0x11 m) State.cmdRelease)

/-- KILL (R190). -/
def execKill (m : Msg) (s : State) : Host.Outcome State Fault Refusal :=
  s.done (s.takeWith (cmdOf 0x12 m) State.cmdKill)

/-- PARAM (R422). -/
def execParam (m : Msg) (s : State) : Host.Outcome State Fault Refusal :=
  s.done (s.takeWith (cmdOf 0x13 m) State.cmdParam)

/-- CONTROLLER (R190). -/
def execController (m : Msg) (s : State) : Host.Outcome State Fault Refusal :=
  s.done (s.takeWith (cmdOf 0x14 m) State.cmdController)

/-- PROFILE (R191). -/
def execProfile (m : Msg) (s : State) : Host.Outcome State Fault Refusal :=
  s.done (s.takeWith (cmdOf 0x15 m) State.cmdProfile)

/-- EVENT (R190). -/
def execEvent (m : Msg) (s : State) : Host.Outcome State Fault Refusal :=
  s.done (s.takeWith (cmdOf 0x16 m) State.cmdEvent)

/-- CANCEL (R424). -/
def execCancel (m : Msg) (s : State) : Host.Outcome State Fault Refusal :=
  s.done (s.takeWith (cmdOf 0x17 m) State.cmdCancel)

/-- ALLOC_CFG (R425). -/
def execAllocCfg (m : Msg) (s : State) : Host.Outcome State Fault Refusal :=
  s.done (s.takeWith (cmdOf 0x20 m) State.cmdAllocCfg)

/-- HOPPER_STATUS (R426). -/
def execHopperStatus (m : Msg) (s : State) : Host.Outcome State Fault Refusal :=
  s.done (s.takeWith (cmdOf 0x21 m) State.cmdHopperStatus)

/-- DEVICE_STATUS (R427). -/
def execDeviceStatus (m : Msg) (s : State) : Host.Outcome State Fault Refusal :=
  s.done (s.takeWith (cmdOf 0x22 m) State.cmdDeviceStatus)

end Sys2Proof.Machine
end

