-- ==== Sys2Proof/Machine/Content.lean ====
section
/-! DEFINITION. Banks, speaker vectors, wavetables, host updates and Grist content (12 R428 to R436, 07 R283 to R285). -/
namespace Sys2Proof.Machine

/-! ### Objects through checked reads (R264, R279) -/

/-- An object of a type, read whole: its bytes, or the failing status. -/
def State.fetchObject (s : State) (rd : List PageFault) (i type : Nat) : Except Nat (List Byte) × State :=
  if s.scratchFails then (.error stScratchError, s.scratchRead) else
  let (e, s) := s.loadEntry rd i
  match e with
  | .failed => (.error stLoadFailed, s)
  | .missing => (.error stObjectMissing, s)
  | .found e =>
    if e.type ≠ type then (.error stWrongType, s)
    else
      let (bs, s) := s.loadObject rd e
      match bs with
      | some b => (.ok b, s)
      | none => (.error stLoadFailed, s)

/-- A deferred command fails without words of its own: word 3 carries the detail value 0 (R396). -/
def State.failPlain (s : State) (j : Job) (status : Nat) : State := s.complete j status [0]

/-! ### Banks (R428, R429, R433) -/

/-- A ready task names the slot. -/
def State.slotNamed (s : State) (slot : Nat) : Bool := s.hop.tasks.any fun e => e.2.kind == .noteOn && e.2.bank == slot

/-- BANK_LOAD. -/
def State.cmdBankLoad (c : Cmd) (s : State) : State :=
  if s.slotNamed (bits (c.w 0) 0 2) then s.answer c stInUse 0 else s.deferWork c

/-- Frames of a table resident now. -/
def State.residentFrames (s : State) (obj : Nat) : Option Nat :=
  (s.fw.tables.find? fun t => t.object == obj && t.gone.isNone).map fun t => t.frames

/-- Objects that recipes name, with the type each must have (R58, R261). -/
def Recipe.objects (r : Recipe) : List (Nat × Nat × Nat) :=
  (List.range 4).filterMap fun i =>
    if r.usesTable i then some (0x42 + 32 * i, r.object i, 2)
    else if r.mode i = mSMP then some (0x42 + 32 * i, r.object i, 1)
    else none

/-- Every object of some banks, without repeats (R264). -/
def bankObjects (bs : List (Option Bank)) : List Nat :=
  (bs.flatMap fun b => match b with
    | some b => b.recipes.flatMap fun r => r.objects.map fun (x : Nat × Nat × Nat) => x.2.1
    | none => []).foldl (fun acc o => if acc.contains o then acc else acc ++ [o]) []

/-- The directory entries of a recipe's objects: failing OBJECT fields with their status, or LOAD_FAILED. -/
def State.objectFaults (s : State) (rd : List PageFault) : List (Nat × Nat × Nat) → Except Nat (List (Nat × Nat)) × State
  | [] => (.ok [], s)
  | (off, obj, type) :: rest =>
    let (e, s1) := s.loadEntry rd obj
    match e with
    | .failed => (.error stLoadFailed, s1)
    | .missing =>
      let (l, s2) := s1.objectFaults rd rest
      (l.map fun l => (off, stObjectMissing) :: l, s2)
    | .found e =>
      let (l, s2) := s1.objectFaults rd rest
      (l.map fun l => if e.type = type then l else (off, stWrongType) :: l, s2)

/-- The recipes of a bank are checked in order; the first failing field of the first failing recipe decides (R428). -/
def State.checkRecipes (s : State) (rd : List PageFault) (format : Nat) : List (List Byte) → Nat → Option BankFault × State
  | [], _ => (none, s)
  | raw :: rest, i =>
    let r := if format = 1 then importRecipe raw else raw
    let shape := if format = 1 then qkFaults raw else r.faults s.residentFrames
    let (objs, s1) := s.objectFaults rd r.objects
    match objs with
    | .error st => (some ⟨st, 0xFFFF, noField⟩, s1)
    | .ok objs =>
      let named (off : Nat) : Nat := if format = 1 then (if off = 0x42 then 6 else 0xE) else off
      let all := (shape.map fun o => (o, stBankInvalid)) ++ objs.map fun (x : Nat × Nat) => (named x.1, x.2)
      match minBy (fun a b => decide (a.1 < b.1)) all with
      | some x => (some ⟨x.2, i, x.1⟩, s1)
      | none => s1.checkRecipes rd format rest (i + 1)

/-- The bank slots as the coming boundary leaves them: loads that have completed stand in their slots. -/
def State.banksAhead (s : State) : List (Option Bank) :=
  s.fw.bankNext.foldl (fun bs (x : Nat × Option Bank) => bs.set x.1 x.2) s.fw.banks

/-- The whole check of a bank object for a slot: the bank, or why not. -/
def State.checkBank (s : State) (rd : List PageFault) (slot obj : Nat) (b : List Byte) : Except BankFault Bank × State :=
  if b.length < 0x20 then (.error ⟨stBankInvalid, 0xFFFF, noField⟩, s) else
  match bankHeaderFault b with
  | some o => (.error ⟨stBankInvalid, 0xFFFF, o⟩, s)
  | none =>
    let format := u8 b 0xC
    let raws := rawRecipes b
    if b.length < 0x20 + recipeSize format * u16 b 6 then (.error ⟨stBankInvalid, 0xFFFF, noField⟩, s) else
    let (f, s) := s.checkRecipes rd format raws 0
    match f with
    | some f => (.error f, s)
    | none =>
      let bank : Bank := ⟨obj, w32 (u32 b 8), format, raws.map fun q => if format = 1 then importRecipe q else q⟩
      if 4096 < (bankObjects (s.banksAhead.set slot (some bank))).length then (.error ⟨stDirFull, 0xFFFF, noField⟩, s)
      else (.ok bank, s)

/-- BANK_LOAD_DONE. -/
def State.bankLoadDone (s : State) (rd : List PageFault) : State :=
  match s.jobOf 0x30 with
  | none => s
  | some j =>
    let slot := bits (j.w 0) 0 2
    let obj := bits (j.w 0) 16 16
    let (r, s) := s.fetchObject rd obj 3
    match r with
    | .error st => s.complete j st [0, 0xFFFF0000, 0xFFFFFFFF]
    | .ok b =>
      let id := if b.length < 0xC then 0 else w32 (u32 b 8)
      let count := if b.length < 8 then 0 else u16 b 6 % 512
      let (v, s) := s.checkBank rd slot obj b
      match v with
      | .error f => s.complete j f.status [id, w32 (count + f.recipe * 0x10000), w32 f.offset]
      | .ok bank =>
        let s := { s with fw.bankNext := (s.fw.bankNext.filter fun (x : Nat × Option Bank) => x.1 != slot) ++ [(slot, some bank)] }
        s.complete j stOk [id, w32 (count + 0xFFFF0000), 0xFFFFFFFF]

/-- BANK_UNLOAD. -/
def State.cmdBankUnload (c : Cmd) (s : State) : State :=
  let slot := bits (c.w 0) 0 2
  if s.slotNamed slot then s.answer c stInUse 0
  else if (s.fw.banks.getD slot none).isNone then s.answer c stNotResident 0
  else
    { s with fw.banks := s.fw.banks.set slot none }.ok c []

/-- Tables resident now. -/
def State.residentTables (s : State) : Nat := (s.fw.tables.filter fun t => t.gone.isNone).length

/-- BANK_STATUS. -/
def State.cmdBankStatus (c : Cmd) (s : State) : State :=
  let slot (k : Nat) : List Word :=
    match s.fw.banks.getD k none with
    | some b => [w32 (1 + 2 * b.format + 0x10000 * b.recipes.length), b.bankId, w32 b.object]
    | none => [0, 0, 0]
  s.ok c (slot 0 ++ slot 1 ++ slot 2 ++ slot 3 ++ [w32 (s.residentTables + 0x10000 * s.fw.svtObject.getD 0xFFFF)])

/-! ### Speaker vectors (R139, R430) -/

/-- SVT_LOAD_DONE: the table takes effect at the next boundary (R140). -/
def State.svtLoadDone (s : State) (rd : List PageFault) : State :=
  match s.jobOf 0x32 with
  | none => s
  | some j =>
    let obj := bits (j.w 0) 16 16
    let (r, s) := s.fetchObject rd obj 4
    match r with
    | .error st => s.complete j st [0xFFFFFFFF]
    | .ok b =>
      if b.length ≠ 8192 then s.complete j stWrongType [0xFFFFFFFF]
      else
        let gains := (List.range 4096).map fun i => u16 b (2 * i)
        { s with fw.svtNext := some (obj, gains) }.complete j stOk [w32 s.nextBlock]

/-! ### Wavetables (R100 to R103, R431, R432) -/

/-- WT_LOAD. -/
def State.cmdWtLoad (c : Cmd) (s : State) : State :=
  if (s.residentFrames (bits (c.w 0) 16 16)).isSome then s.answer c stInUse 0 else s.deferWork c

/-- The frames of a wavetable source, none where its header breaks R266. -/
def wavetableFrames (b : List Byte) : Option Nat :=
  let n := u16 b 6
  if 0x40 ≤ b.length ∧ u32 b 0 = 0x57474B51 ∧ u16 b 4 = 0x0100 ∧ crc32 (b.take 0x3C) = u32 b 0x3C ∧ 1 ≤ n ∧ n ≤ 64
      ∧ b.length = 0x40 + 8192 * n then some n
  else none

/-- Every frame's CRC word matches (R66). -/
def frameCrcsOk (b : List Byte) (n : Nat) : Bool :=
  (List.range n).all fun f =>
    let x := (b.drop (0x40 + 8192 * f)).take 8192
    crc32 (x.take 8188) == u32 x 8188

/-- The first run of free frame slots (R101). A freed run is free from its boundary. -/
def State.freeRun (s : State) (n : Nat) : Option Nat :=
  let busy := (s.fw.tables.filter fun t => match t.gone with
    | none => true
    | some g => decide (s.lastBlock < g)).map fun (t : Table) => (t.first, t.frames)
  (List.range (257 - n)).find? fun q => busy.all fun x => decide (q + n ≤ x.1 ∨ x.1 + x.2 ≤ q)

/-- The words of a table enter both copies, or the one (R101). -/
def State.writeTable (s : State) (first : Nat) (b : List Byte) (n : Nat) : State :=
  let ws := bytesWords (2048 * n) (b.drop 0x40)
  let put (m : Sparse Word) : Sparse Word := sputs (fun _ => 0) m (first * 2048) ws
  { s with mash.wave := [put (s.mash.wave.getD 0 []), if s.part.variant.regionCount = 2 then put (s.mash.wave.getD 1 []) else []] }

/-- WT_LOAD_DONE. -/
def State.wtLoadDone (s : State) (rd : List PageFault) : State :=
  match s.jobOf 0x33 with
  | none => s
  | some j =>
    let obj := bits (j.w 0) 16 16
    let failed : Word := w32 (0x10000 * s.residentTables)
    let (r, s) := s.fetchObject rd obj 2
    match r with
    | .error st => s.complete j st [failed]
    | .ok b =>
      match wavetableFrames b with
      | none => s.complete j stWrongType [failed]
      | some n =>
        match (if 128 ≤ s.residentTables ∨ !frameCrcsOk b n then none else s.freeRun n) with
        | none => s.complete j stNoSpace [failed]
        | some q =>
          let s := s.writeTable q b n
          let s := { s with fw.tables := s.fw.tables ++ [Table.mk obj q n s.nextBlock none] }
          s.complete j stOk [w32 (q + 0x100 * n + 0x10000 * s.residentTables)]

/-- A sounding voice or a ready task references the table (R103). -/
def State.tableUsed (s : State) (obj : Nat) : Bool :=
  (s.allVoices.any fun e => e.2.ctx.recipe.tableObjects.contains obj)
    || s.hop.tasks.any fun e => e.2.kind == .noteOn && match s.recipeOf e.2 with
      | some r => r.tableObjects.contains obj
      | none => false

/-- A resident bank names the table (R432). -/
def State.tableNamed (s : State) (obj : Nat) : Bool :=
  s.fw.banks.any fun b => match b with
    | some b => b.recipes.any fun r => r.tableObjects.contains obj
    | none => false

/-- WT_UNLOAD. -/
def State.cmdWtUnload (c : Cmd) (s : State) : State :=
  let obj := bits (c.w 0) 16 16
  if (s.residentFrames obj).isNone then s.answer c stNotResident 0
  else if s.tableUsed obj || s.tableNamed obj then s.answer c stInUse 0
  else
    { s with fw.tables := s.fw.tables.map fun (t : Table) =>
      if t.object = obj ∧ t.gone = none then { t with gone := some s.nextBlock } else t }.ok c []

/-! ### Host updates (R434, R598) -/

/-- TB_UPDATE. -/
def State.cmdTbUpdate (c : Cmd) (s : State) : State :=
  let t := bits (c.w 0) 0 2
  let speed := signed 32 (c.w 5)
  if bits (s.regN bTIMEBASE (tbReg t 0)) 0 3 ≠ 3 || (s.agrees 3 && bit (s.regN bCHAIN 0x14) (8 * t)) then s.answer c stBadState 0
  else if 1000 * 65536 < speed.natAbs then s.answer c stBadParam 5
  else
    let u : TbUpdate :=
      { t := c.w 1 + c.w 2 * 2 ^ 32, valid := bit (c.w 0) 8, angle := signed 32 (c.w 4) * 2 ^ 32 + (c.w 3 : Int), speed := speed
        accel := signed 32 (c.w 6), arrived := s.time }
    { s with fw.tbUpdates := s.fw.tbUpdates ++ [(t, u)] }.ok c []

/-! ### Content update (R283 to R286, R435) -/

/-- Bytes [a, a + n) of a flash device copied to address b. -/
def State.flashCopy (s : State) (a b n : Nat) : State :=
  let moved := (s.store.flash.filter fun e => decide (a ≤ e.1) && decide (e.1 < a + n)).map fun (e : Nat × Byte) => (b + (e.1 - a), e.2)
  let s := s.flashErase b n
  { s with store.flash := moved.foldl (fun m e => sput flashErased m e.1 e.2) s.store.flash }

/-- Bytes written over what is there, and over its mirror (R258). -/
def State.metaWrite (s : State) (a : Nat) (bs : List Byte) : State :=
  (s.flashWrite a bs).flashWrite (s.mirrorNow + a) bs

/-- GRIST_PREPARE. -/
def State.cmdGristPrepare (c : Cmd) (s : State) : State :=
  if s.fw.update ≠ 0 then s.answer c stBadState 0 else s.deferWork c

/-- GRIST_PREPARE_DONE: both tables are copied into the inactive copies (R283 step 1). -/
def State.gristPrepareDone (s : State) : State :=
  match s.jobOf 0x48 with
  | none => s
  | some j =>
    if s.metaSuspended then s else
    let k := s.store.anchor.copy
    let m := s.mirrorNow
    let s := (s.flashCopy (dirBase k) (dirBase (1 - k)) 0x200000).flashCopy (checkBase k) (checkBase (1 - k)) 0x400000
    let s := (s.flashCopy (dirBase k) (m + dirBase (1 - k)) 0x200000).flashCopy (checkBase k) (m + checkBase (1 - k)) 0x400000
    ({ s with fw.update := 1, fw.changed := [] }).complete j stOk []

/-- A page lies where objects may lie: above the metadata and its mirror, inside the device (R258). -/
def State.inUpdateArea (s : State) (page : Nat) : Bool :=
  let a := page * 4096
  let o := a % 2 ^ 31
  let p := portOf a
  let low := if p = 0 then (if s.m0Only then 0x02000000 else 0x01000000) else 0x01000000
  s.portOn p && decide (low ≤ o) && decide (o < 2 ^ bits (s.regN bGRIST (0x10 + 4 * p)) 16 5)

/-- Pages that bytes [a, a + n) touch. -/
def pagesOf (a n : Nat) : List Nat := (List.range ((a % 4096 + n + 4095) / 4096)).map fun i => a / 4096 + i

/-- The byte count of a bulk command: 4 to 16,384, a multiple of 4. -/
def bulkCountOk (n : Nat) : Bool := decide (4 ≤ n) && decide (n ≤ 16384) && n % 4 == 0

/-- GRIST_WRITE. -/
def State.cmdGristWrite (c : Cmd) (s : State) : State :=
  if s.fw.update ≠ 1 then s.answer c stBadState 0
  else if c.w 1 % 4096 ≠ 0 then s.answer c stBadParam 1
  else if !bulkCountOk (c.w 2) then s.answer c stBadParam 2
  else if (pagesOf (c.w 1) (c.w 2)).any fun p => !s.inUpdateArea p || s.pageInUse p then s.answer c stEraseRefused 0
  else s.deferWork c

/-- Bytes of a bulk half. -/
def State.bulkBytes (s : State) (h n : Nat) : List Byte := wordBytes (s.bulkWords h (n / 4))

/-- GRIST_WRITE_DONE: each sector is erased, the bytes are programmed, unless a commit has made one of the pages active (R284). -/
def State.gristWriteDone (s : State) : State :=
  match s.jobOf 0x49 with
  | none => s
  | some j =>
    if s.eraseSuspended (portOf (j.w 1)) then s else
    let h := bits (j.w 0) 0 1
    let n := j.w 2
    if (pagesOf (j.w 1) n).any s.pageInUse then (s.returnHalf h).failPlain j stEraseRefused else
    let s := (s.flashErase (j.w 1) ((n + 4095) / 4096 * 4096)).flashWrite (j.w 1) (s.bulkBytes h n)
    (s.returnHalf h).complete j stOk []

/-- GRIST_META. -/
def State.cmdGristMeta (c : Cmd) (s : State) : State :=
  if s.fw.update ≠ 1 then s.answer c stBadState 0
  else if bit (c.w 0) 0 then
    let n := c.words.length - 2
    if 251 < n then s.answer c stBadParam 2
    else if 1048576 < c.w 1 + n then s.answer c stBadParam 1
    else s.deferWork c
  else if 65535 < c.w 1 then s.answer c stBadParam 1
  else if c.words.length ≠ 10 then s.answer c stBadParam 2
  else s.deferWork c

/-- GRIST_META_DONE: the inactive copies take the words (R283 step 3). -/
def State.gristMetaDone (s : State) : State :=
  match s.jobOf 0x4A with
  | none => s
  | some j =>
    if s.metaSuspended then s else
    let k := 1 - s.store.anchor.copy
    let bs := wordBytes (j.words.drop 2)
    if bit (j.w 0) 0 then (s.metaWrite (checkBase k + 4 * j.w 1) bs).complete j stOk []
    else
      let changed := if s.fw.changed.contains (j.w 1) then s.fw.changed else insertNat (j.w 1) s.fw.changed
      { s.metaWrite (dirBase k + 32 * j.w 1) bs with fw.changed := changed }.complete j stOk []

/-- GRIST_COMMIT. -/
def State.cmdGristCommit (c : Cmd) (s : State) : State :=
  if s.fw.update ≠ 1 then s.answer c stBadState 0 else { s with fw.update := 2 }.deferWork c

/-- A sample header keeps R77, R78 and R267. -/
def State.sampleOk (s : State) (b : List Byte) (size : Nat) : Bool :=
  let i := parseSample b
  let len := i.length
  let l := i.le - i.ls
  let cap := ringCap i.wide
  let room := if i.wide then 160 else 208
  u32 b 0 == 0x53474B51 && u16 b 4 == 0x0100 && crc32 (b.take 0x3C) == u32 b 0x3C && decide (u8 b 6 ≤ 1)
    && decide (8000 ≤ i.rate) && decide (i.rate ≤ 192000) && decide (16 ≤ len) && decide (4 ≤ i.ls) && decide (i.le + 5 ≤ len)
    && decide (i.ls + 16 ≤ i.le) && size == 0x40 + len * i.width && (!i.wide || s.agrees 13)
    && (decide (l < cap) || l % cap == 0 || decide (room ≤ l % cap))

/-- The magic word of an object type with a header of 64 bytes or of a bank (R112, R265, R266, R477, R522). -/
def State.headerOk (s : State) (type : Nat) (b : List Byte) (size : Nat) : Bool :=
  match type with
  | 5 => u32 b 0 == 0x43504B51 && u16 b 4 == 0x0100 && crc32 (b.take 0x3C) == u32 b 0x3C
      && size == 0x44 + 8 * u32 b 8 + 4 * u16 b 6
  | 6 => u32 b 0 == 0x44504B51 && u16 b 4 == 0x0100 && crc32 (b.take 0x3C ++ (b.drop 0x40).take 0x300) == u32 b 0x3C && size == 832
  | 1 => s.sampleOk b size
  | 2 => u32 b 0 == 0x57474B51 && u16 b 4 == 0x0100 && crc32 (b.take 0x3C) == u32 b 0x3C
      && decide (1 ≤ u16 b 6) && decide (u16 b 6 ≤ 64) && size == 0x40 + 8192 * u16 b 6
  | 3 => (bankHeaderFault b).isNone && size == 0x20 + recipeSize (u8 b 0xC) * u16 b 6
  | 4 => size == 8192
  | 0 => true
  | _ => false

/-- A page's content agrees with a copy's page-check entry, read at most twice (R279), on a port that serves. -/
def State.pageGood (s : State) (rd : List PageFault) (copy page : Nat) : Bool :=
  s.portServes (portOf (page * 4096)) && decide (failsOf rd page ≤ 1)
    && crc32 (s.flashBytes (page * 4096) 4096) == u32 (s.flashBytes (checkBase copy + 4 * page) 4) 0

/-- R262 for an entry. -/
def State.mirrorRule (s : State) (e : DirEntry) : Bool :=
  if e.safety then e.mirror != noMirror && (if s.m0Only then portOf e.mirror == 0 else portOf e.mirror != portOf e.addr)
  else e.mirror == noMirror

/-- A changed entry of the inactive copy passes R283 step 4 and R285. -/
def State.entryGood (s : State) (rd : List PageFault) (i : Nat) : Bool :=
  let k := 1 - s.store.anchor.copy
  match s.entryIn k i with
  | none => false
  | some e =>
    let old := match s.object i with
      | some o => o.type
      | none => 0
    let pages := if e.type = 0 then [] else
      pagesOf e.addr e.size ++ if e.safety then pagesOf e.mirror e.size else []
    !(old != e.type && (bankObjects s.fw.banks).contains i)
      && (e.type == 0 || s.mirrorRule e)
      && pages.all (s.pageGood rd k)
      && s.headerOk e.type (s.flashBytes e.addr (if e.type = 6 then 832 else 64)) e.size

/-- GRIST_COMMIT_DONE: the changed entries are verified and the new anchor and its mirror are written (R283 steps 4 and 5);
the new directory is active from the next boundary on. What was accepted before it for the inactive copies ends first, so that
nothing unverified becomes active. -/
def State.gristCommitDone (s : State) (rd : List PageFault) : State :=
  match s.jobOf 0x4B with
  | none => s
  | some j =>
    if s.metaSuspended || [0x49, 0x4A].any (fun op => (s.jobOf op).isSome) then s else
    match s.fw.changed.find? fun i => !s.entryGood rd i with
    | some i => { s with fw.update := 1 }.complete j stCommitRefused [w32 i, 0]
    | none =>
      let a := s.store.anchor
      let top := match s.fw.changed.getLast? with
        | some i => i + 1
        | none => 0
      let b : Anchor := { s.placed a with copy := 1 - a.copy, generation := (a.generation + 1) % 2 ^ 32, entries := max a.entries top }
      let s := s.writeAnchor b
      { s with store.nextAnchor := some b, fw.update := 3 }.complete j stOk [w32 b.generation, w32 s.nextBlock]

/-- GRIST_ABORT. -/
def State.cmdGristAbort (c : Cmd) (s : State) : State :=
  if s.fw.update = 2 ∨ s.fw.update = 3 then s.answer c stBadState 0 else { s with fw.update := 0 }.ok c []

/-- GRIST_STATUS (R436). -/
def State.cmdGristStatus (c : Cmd) (s : State) : State :=
  s.ok c ([0x34, 0x38, 0x3C, 0x40].map (s.liveReg bGRIST)
    ++ ((s.store.bad.drop (c.w 0)).take 240).map fun p => w32 (p * 4096))

/-- GRIST_READ. -/
def State.cmdGristRead (c : Cmd) (s : State) : State :=
  if !bulkCountOk (c.w 2) then s.answer c stBadParam 2 else s.deferWork c

/-- Where a page's mirror lies, for a page of the active directory or of an object; none for a page that is not checked. -/
def State.pageMirror (s : State) (page : Nat) : Option (Option Nat) :=
  let k := s.store.anchor.copy
  if pageInObject page (dirBase k) 0x200000 then some (some (s.mirrorNow / 4096 + page))
  else
    (List.range s.store.anchor.entries).findSome? fun i =>
      match s.object i with
      | some e =>
        if pageInObject page e.addr e.size then
          some (e.mirror?.map fun m => m / 4096 + (page - e.addr / 4096))
        else if e.mirror ≠ noMirror ∧ pageInObject page e.mirror e.size then some none
        else none
      | none => none

/-- The bytes of pages for the host, each checked where it holds an object or the directory (R263, R279). -/
def State.hostPages (s : State) (rd : List PageFault) : List Nat → Option (List Byte) × State
  | [] => (some [], s)
  | page :: rest =>
    let (src, s) := match s.pageMirror page with
      | none => (if s.portServes (portOf (page * 4096)) then some page else none, s)
      | some m =>
        let (ok, s) := s.checkPage rd page 2
        if ok then (some page, s)
        else match m with
          | none => (none, s)
          | some q =>
            let (ok, s) := s.checkPage rd q 2
            (if ok then some q else none, s)
    match src with
    | none => (none, s)
    | some q =>
      let bs := s.flashBytes (q * 4096) 4096
      let (more, s) := s.hostPages rd rest
      (more.map fun l => bs ++ l, s)

/-- GRIST_READ_DONE: the bytes are in the half, which is returned (R390, R435). -/
def State.gristReadDone (s : State) (rd : List PageFault) : State :=
  match s.jobOf 0x4E with
  | none => s
  | some j =>
    let h := bits (j.w 0) 0 1
    if s.scratchFails then (s.scratchRead.returnHalf h).failPlain j stScratchError else
    let (bs, s) := s.hostPages rd (pagesOf (j.w 1) (j.w 2))
    match bs with
    | none => (s.returnHalf h).failPlain j stLoadFailed
    | some l => ((s.bulkWrite h 0 (bytesWords (j.w 2 / 4) (l.drop (j.w 1 % 4096)))).returnHalf h).complete j stOk []

/-! ### The rows -/

/-- BANK_LOAD (R428). -/
def execBankLoad (m : Msg) (s : State) : Host.Outcome State Fault Refusal :=
  s.done (s.takeWith (cmdOf 0x30 m) State.cmdBankLoad)

/-- BANK_UNLOAD (R429). -/
def execBankUnload (m : Msg) (s : State) : Host.Outcome State Fault Refusal :=
  s.done (s.takeWith (cmdOf 0x31 m) State.cmdBankUnload)

/-- SVT_LOAD (R430). -/
def execSvtLoad (m : Msg) (s : State) : Host.Outcome State Fault Refusal :=
  s.done (s.takeWith (cmdOf 0x32 m) (fun c t => t.deferWork c))

/-- WT_LOAD (R431). -/
def execWtLoad (m : Msg) (s : State) : Host.Outcome State Fault Refusal :=
  s.done (s.takeWith (cmdOf 0x33 m) State.cmdWtLoad)

/-- WT_UNLOAD (R432). -/
def execWtUnload (m : Msg) (s : State) : Host.Outcome State Fault Refusal :=
  s.done (s.takeWith (cmdOf 0x34 m) State.cmdWtUnload)

/-- BANK_STATUS (R433). -/
def execBankStatus (m : Msg) (s : State) : Host.Outcome State Fault Refusal :=
  s.done (s.takeWith (cmdOf 0x35 m) State.cmdBankStatus)

/-- TB_UPDATE (R434). -/
def execTbUpdate (m : Msg) (s : State) : Host.Outcome State Fault Refusal :=
  s.done (s.takeWith (cmdOf 0x40 m) State.cmdTbUpdate)

/-- GRIST_PREPARE (R435). -/
def execGristPrepare (m : Msg) (s : State) : Host.Outcome State Fault Refusal :=
  s.done (s.takeWith (cmdOf 0x48 m) State.cmdGristPrepare)

/-- GRIST_WRITE (R435). -/
def execGristWrite (m : Msg) (s : State) : Host.Outcome State Fault Refusal :=
  s.done (s.takeWith (cmdOf 0x49 m) State.cmdGristWrite)

/-- GRIST_META (R435). -/
def execGristMeta (m : Msg) (s : State) : Host.Outcome State Fault Refusal :=
  s.done (s.takeWith (cmdOf 0x4A m) State.cmdGristMeta)

/-- GRIST_COMMIT (R435). -/
def execGristCommit (m : Msg) (s : State) : Host.Outcome State Fault Refusal :=
  s.done (s.takeWith (cmdOf 0x4B m) State.cmdGristCommit)

/-- GRIST_ABORT (R435). -/
def execGristAbort (m : Msg) (s : State) : Host.Outcome State Fault Refusal :=
  s.done (s.takeWith (cmdOf 0x4C m) State.cmdGristAbort)

/-- GRIST_STATUS (R436). -/
def execGristStatus (m : Msg) (s : State) : Host.Outcome State Fault Refusal :=
  s.done (s.takeWith (cmdOf 0x4D m) State.cmdGristStatus)

/-- GRIST_READ (R435). -/
def execGristRead (m : Msg) (s : State) : Host.Outcome State Fault Refusal :=
  s.done (s.takeWith (cmdOf 0x4E m) State.cmdGristRead)

/-- BANK_LOAD_DONE (R428). -/
def execBankLoadDone (rd : List PageFault) (s : State) : Host.Outcome State Fault Refusal :=
  s.ends (s.bankLoadDone rd)

/-- SVT_LOAD_DONE (R430). -/
def execSvtLoadDone (rd : List PageFault) (s : State) : Host.Outcome State Fault Refusal :=
  s.ends (s.svtLoadDone rd)

/-- WT_LOAD_DONE (R101). -/
def execWtLoadDone (rd : List PageFault) (s : State) : Host.Outcome State Fault Refusal :=
  s.ends (s.wtLoadDone rd)

/-- GRIST_PREPARE_DONE (R283). -/
def execGristPrepareDone (s : State) : Host.Outcome State Fault Refusal :=
  s.done (s.gristPrepareDone)

/-- GRIST_WRITE_DONE (R435). -/
def execGristWriteDone (s : State) : Host.Outcome State Fault Refusal :=
  s.done (s.gristWriteDone)

/-- GRIST_META_DONE (R435). -/
def execGristMetaDone (s : State) : Host.Outcome State Fault Refusal :=
  s.done (s.gristMetaDone)

/-- GRIST_COMMIT_DONE (R283). -/
def execGristCommitDone (rd : List PageFault) (s : State) : Host.Outcome State Fault Refusal :=
  s.ends (s.gristCommitDone rd)

/-- GRIST_READ_DONE (R435). -/
def execGristReadDone (rd : List PageFault) (s : State) : Host.Outcome State Fault Refusal :=
  s.ends (s.gristReadDone rd)

end Sys2Proof.Machine
end

