-- ==== Sys2Proof/Machine/Services.lean ====
section
/-! DEFINITION. Copper, diagnostics, capture, fault log, resets, lifetime counters and firmware update (12 R437 to R449, 11 R410 to R412). -/
namespace Sys2Proof.Machine

/-! ### The Copper (R437 to R439, 13 R478) -/

/-- A Copper program object that breaks R478 or R465. -/
def copperBad (b : List Byte) : Bool :=
  let words := u32 b 8
  let params := u16 b 6
  let size := 0x44 + 8 * words + 4 * params
  decide (b.length < 0x44) || u32 b 0 != 0x43504B51 || u16 b 4 != 0x0100 || crc32 (b.take 0x3C) != u32 b 0x3C
    || decide (256 < params) || decide (words < 20) || decide (16384 < words) || decide (65536 < u16 b 0xC + params)
    || b.length != size || crc32 ((b.drop 0x40).take (size - 0x44)) != u32 b (size - 4)
    || !programOk (programWords words (b.drop 0x40))

/-- COPPER_LOAD_DONE: the inactive bank holds the program. A load that was taken before a swap ends after it, so that the bank
it writes stays the inactive one (DESIGN CHOICE, log 81). -/
def State.copperLoadDone (s : State) (rd : List PageFault) : State :=
  if s.cop.swapLen.isSome then s else
  match s.jobOf 0x50 with
  | none => s
  | some j =>
    let (r, s) := s.fetchObject rd (bits (j.w 0) 16 16) 5
    match r with
    | .error st => s.complete j st [0]
    | .ok b =>
      if copperBad b then s.complete j stProgramInvalid [0]
      else
        let k := 1 - s.cop.active
        let words := u32 b 8
        let params := u16 b 6
        let c := s.cop
        { s with cop := { c with
            loaded := true
            prog := c.prog.set k (sputs (fun _ => fillWord) [] 0 (programWords words (b.drop 0x40)))
            pwords := c.pwords.set k words
            prmBase := c.prmBase.set k (u16 b 0xC)
            prmVals := c.prmVals.set k (bytesWords params (b.drop (0x40 + 8 * words))) } }.complete j stOk [w32 words]

/-- COPPER_SWAP: at the next boundary, answered after it. -/
def State.cmdCopperSwap (c : Cmd) (s : State) : State :=
  let len := bits (c.w 0) 0 16
  if 4096 < len then s.answer c stBadParam 0
  else if !s.cop.loaded then s.answer c stBadState 0
  else { s with cop.loaded := false, cop.swapLen := some len }.awaitReply c

/-- COPPER_PARAM. -/
def State.cmdCopperParam (c : Cmd) (s : State) : State :=
  let first := bits (c.w 0) 16 16
  let ws := c.words.drop 1
  if 65536 < first + ws.length then s.answer c stBadParam 0
  else
    let new := (List.range ws.length).map fun i => (bit (c.w 0) 0, first + i, nthW ws i)
    { s with cop.params := s.cop.params ++ new }.ok c [w32 ((frameOf s.time + 1) * 256)]

/-! ### Diagnostics (R440, R441, 16 R524) -/

/-- The job begins with its first masked line; the boundary starts the step. -/
def DiagJob.start (kind mask : Nat) (profile : List Byte) : DiagJob where
  kind := kind
  mask := mask
  profile := profile
  channel := 0
  stepSeq := 0
  going := false
  begun := 0
  saved := []
  re1 := 0
  im1 := 0
  re2 := 0
  im2 := 0
  dc2 := 0
  ovl := false
  results := []

/-- The failing COMPLETION of DIAG_START: word 3 holds a detail, the result words are 0 (R396). -/
def State.diagFail (s : State) (j : Job) (status detail : Nat) : State :=
  s.complete j status (w32 detail :: List.replicate 31 0)

/-- DIAG_START: the profile is read and checked; a sound one starts the job. -/
def State.cmdDiagStart (rd : List PageFault) (c : Cmd) (s : State) : State :=
  let s := s.deferWork c
  match s.jobOf 0x58 with
  | none => s
  | some j =>
    let (e, s) := s.loadEntry rd (bits (c.w 1) 0 16)
    match e with
    | .failed => s.diagFail j stLoadFailed 0
    | .missing => s.diagFail j stObjectMissing 0
    | .found e =>
      if e.type ≠ 6 ∨ e.size ≠ 832 then s.diagFail j stBadParam 0
      else
        let (b, s) := s.loadObject rd e
        match b with
        | none => s.diagFail j stLoadFailed 0
        | some p =>
          let mask := bits (c.w 0) 16 16
          match profileFault p mask with
          | some o => s.diagFail j stBadParam o
          | none => { s with fw.diag := some (DiagJob.start (bits (c.w 0) 0 1) mask p) }

/-- DIAG_READ: kind, valid and mask, then the results, 0 where no job has completed. -/
def State.cmdDiagRead (c : Cmd) (s : State) : State :=
  match s.fw.diagLast with
  | none => s.ok c (List.replicate 33 0)
  | some r => s.ok c (w32 (r.kind + 2 + 0x10000 * r.mask) :: r.words)

/-- DIAG_ABORT. -/
def State.cmdDiagAbort (c : Cmd) (s : State) : State :=
  if s.fw.diag.isNone then s.answer c stBadState 0 else (s.ok c []).endDiag stBadState

/-! ### Capture (R442) -/

/-- CAPTURE_START. -/
def State.cmdCaptureStart (c : Cmd) (s : State) : State :=
  let mask := bits (c.w 0) 0 8
  let n := bits (c.w 0) 16 16
  if mask = 0 then s.answer c stBadParam 0
  else if !(nthB s.host.own 0 && nthB s.host.own 1) then s.answer c stBadState 0
  else
    let cap : Capture :=
      { mask := mask, left := if n = 0 then none else some n, start := s.nextBlock, half := 0, fill := 0, first := s.nextBlock, stop := false }
    { s with fw.capture := some cap }.ok c []

/-- CAPTURE_STOP: at the next boundary, answered after it. -/
def State.cmdCaptureStop (c : Cmd) (s : State) : State :=
  match s.fw.capture with
  | none => s.answer c stBadState 0
  | some k => { s with fw.capture := some { k with stop := true } }.awaitReply c

/-! ### Fault log and block resets (R443, R444) -/

/-- A record as 8 words (R330); one that cannot be read reads as all ones (R325). -/
def LogRec.wordsOf (r : LogRec) : List Word :=
  if r.bad then List.replicate 8 0xFFFFFFFF else
  [w32 r.msg.toNat, w32 (r.msg.toNat / 2 ^ 32), w32 r.time, w32 (r.time / 2 ^ 32),
   w32 (r.master + 0x100 * r.access + 0x10000 * r.flags + 0x1000000 * r.action), w32 r.seq, 0, 0]

/-- FAULT_LOG_READ; word 1 without a record is a free value. -/
def State.cmdFaultLogRead (c : Cmd) (s : State) : State :=
  let n := bits (c.w 0) 0 5
  if n = 0 then s.answer c stBadParam 0
  else
    let rs := (s.kiln.log.filter fun r => decide (c.w 1 ≤ r.seq)).take n
    match rs with
    | [] => let (v, s) := drawFree s; s.ok c [w32 v]
    | r :: _ => s.ok c (w32 r.seq :: rs.flatMap LogRec.wordsOf)

/-- The table of R444: a target that is refused, with its status. -/
def State.resetRefused (s : State) (t : Nat) : Option Nat :=
  let bad (b : Bool) : Option Nat := if b then some stBadParam else none
  match t with
  | 0 => bad (!s.portOn 0)
  | 1 => bad (!s.portOn 1)
  | 2 => if !s.agrees 1 then some stBadParam else if s.mash.disabled.contains 13 then some stBadState else none
  | 3 => if !s.agrees 1 then some stBadParam else if s.mash.disabled.contains 12 then some stBadState else none
  | 4 => bad (!s.agrees 3)
  | 5 => bad (!s.agrees 3)
  | 6 => none
  | 7 => none
  | 8 => bad (!s.agrees 5)
  | 9 => bad (!s.agrees 4)
  | 10 => bad (s.part.variant == .qk1024n)
  | _ => some stBadParam

/-- BLOCK_RESET: from the next boundary, answered after it. -/
def State.cmdBlockReset (c : Cmd) (s : State) : State :=
  let t := bits (c.w 0) 0 4
  match s.resetRefused t with
  | some st => s.answer c st 0
  | none => { s with kiln.resetReq := s.kiln.resetReq ++ [t] }.awaitReply c

/-! ### Lifetime counters (R445) -/

/-- LIFETIME_READ. -/
def State.cmdLifetimeRead (c : Cmd) (s : State) : State := s.ok c (s.pwr.life.map w32)

/-- The host's value added to a count; word 11 takes the larger of two signed values. -/
def lifeMerge (k own host : Nat) : Nat :=
  if k = 11 then (if signed 32 own < signed 32 host then host else own) else satAdd 32 own host

/-- LIFETIME_SET, once per power-on. -/
def State.cmdLifetimeSet (c : Cmd) (s : State) : State :=
  if s.pwr.lifeSet then s.answer c stBadState 0
  else
    { s with
      pwr.lifeSet := true
      pwr.life := (List.range 16).map fun k => lifeMerge k (nth s.pwr.life k) (c.w k) }.ok c []

/-! ### Firmware update (R410 to R412, R446 to R449) -/

/-- Byte address of a firmware slot (R258). -/
def slotBase (slot : Nat) : Nat := 0x00100000 + 0x00100000 * slot

/-- The slot that does not hold the running firmware. -/
def State.inactiveSlot (s : State) : Nat := 1 - s.host.activeSlot

/-- STEP and RESULT change: interrupt and HANDOVER event (R411). -/
def State.stepTo (s : State) (step result : Nat) : State :=
  (s.setHandoverStep step result).event 0x87 0 [w32 (step + 0x100 * result)]

/-- FW_LOAD: a load after STEP 0, 3, 6 or 7 begins anew. -/
def State.cmdFwLoad (c : Cmd) (s : State) : State :=
  if c.w 1 % 4096 ≠ 0 ∨ 458752 ≤ c.w 1 then s.answer c stBadParam 1
  else if !bulkCountOk (c.w 2) then s.answer c stBadParam 2
  else
    let s := s.deferWork c
    if s.host.hoStep = 1 then s else s.stepTo 1 0

/-- A slice of n bytes lies at flash address a, over what the sectors held. -/
def State.sliceWrite (s : State) (a n : Nat) (bs : List Byte) : State :=
  let size := (n + 4095) / 4096 * 4096
  (s.flashErase a size).flashWrite a (overlay (s.flashBytes a size) 0 bs)

/-- FW_LOAD_DONE: the slice is in the slot and in the slot's mirror (R258, R446), unless a slot page failed twice (R412). The
programming waits while reads of tier 1 to 3 are queued (R286). -/
def State.fwLoadDone (s : State) (fails : Bool) : State :=
  match s.jobOf 0x70 with
  | none => s
  | some j =>
    if s.metaSuspended then s else
    let h := bits (j.w 0) 0 1
    let a := slotBase s.inactiveSlot + j.w 1
    if s.scratchFails then (s.scratchRead.returnHalf h).failPlain j stScratchError
    else if fails then ((s.returnHalf h).stepTo 7 6).failPlain j stLoadFailed
    else
      let bs := s.bulkBytes h (j.w 2)
      let s := (s.sliceWrite a (j.w 2) bs).sliceWrite (s.mirrorNow + a) (j.w 2) bs
      (s.returnHalf h).complete j stOk []

/-- FW_VERIFY: step 3 of R411 runs. -/
def State.cmdFwVerify (c : Cmd) (s : State) : State := (s.deferWork c).stepTo 2 0

/-- FW_VERIFY_DONE: `result` is 0 or a code of R412; a length outside 448 KiB is a FORMAT error whatever it is. -/
def State.fwVerifyDone (s : State) (result : Nat) : State :=
  match s.jobOf 0x71 with
  | none => s
  | some j =>
    if 4 < result then s
    else
      let result := if j.w 0 = 0 ∨ 458752 < j.w 0 then 1 else result
      if result = 0 then (s.stepTo 3 0).complete j stOk [3, 0]
      else (s.stepTo 7 result).complete j stBadState [7, w32 result]

/-- HANDOVER: accepted, the old firmware takes no further command (R411 step 4). -/
def State.cmdHandover (c : Cmd) (s : State) : State :=
  if s.host.hoStep ≠ 3 then s.answer c stBadState 0
  else if !s.fw.jobs.isEmpty || s.fw.update ≠ 0 then s.answer c stBusy 0
  else (s.awaitReply c).stepTo 4 0

/-- An anchor that names a firmware slot, with GENERATION + 1 and the same COPY (R411 step 7, R449). A directory that waits
for its boundary keeps waiting. -/
def State.writeFwAnchor (s : State) (slot : Nat) : State :=
  match s.store.nextAnchor with
  | none =>
    let b : Anchor := { s.placed s.store.anchor with generation := (s.store.anchor.generation + 1) % 2 ^ 32, fwSlot := slot }
    { s.writeAnchor b with store.anchor := b }
  | some a =>
    let old := s.store.anchor
    let b : Anchor := { s.placed a with generation := (a.generation + 1) % 2 ^ 32, fwSlot := slot }
    let s := { s with store.anchor := a }.writeAnchor b
    { s with store.anchor := { old with fwSlot := slot }, store.nextAnchor := some b }

/-- FW_SELECT. -/
def State.cmdFwSelect (c : Cmd) (s : State) : State :=
  if s.host.hoStep ≠ 3 then s.answer c stBadState 0
  else ((s.writeFwAnchor s.inactiveSlot).stepTo 0 0).ok c []

/-- The firmware stops and the mailbox pauses (R326, R411 step 5). -/
def State.pauseFw (s : State) : State := { s with fw.paused := true, fw.pausedAt := s.time }

/-- Hardware restarts the firmware from the active slot (R326). -/
def State.restartFw (s : State) : State := { (s.life 9 1).pauseFw with fw.restart := true }

/-- FIRMWARE_RESUME: the new firmware takes over (R411 step 6); or a restarted one resumes, with ACTIVE_SLOT unchanged, and
answers a HANDOVER that failed (R379, R412). -/
def State.firmwareResume (s : State) : State :=
  if !s.isReady || !s.fw.paused then s
  else
    let s := { s with fw.paused := false, kiln.hbLast := s.time, kiln.hbMissed := none, host.hoCount := satAdd 8 s.host.hoCount 1 }
    if s.fw.restart then
      let s := { s with fw.restart := false }
      (if s.host.hoStep = 5 then s.stepTo 6 0 else s).formReplies 0x72 [statusWord stBadState s.host.hoResult]
    else
      let s := { s with host.activeSlot := s.inactiveSlot, fw.anchorDue := true }
      ((s.life 8 1).stepTo 6 0).formReplies 0x72 [statusWord stOk 0]

/-- A handover fails with a RESULT and the previous firmware restarts (R412). -/
def State.handoverFails (s : State) (result : Nat) : State := s.restartFw.stepTo 7 result

/-- CPU_CHECK restarts the firmware through STEP 5; a diagnostic job ends (R326, R379, 16 R534). New firmware that fails in a
handover gives way to the previous one. -/
def State.cpuRestart (s : State) : State :=
  if s.fw.paused then (if s.fw.restart then s else s.handoverFails 5)
  else ((s.endDiag stBadState).restartFw).stepTo 5 0

/-- HANDOVER_TIMEOUT: 2 ms after the switch (R412). -/
def State.handoverTimeout (s : State) : State :=
  if s.isReady && s.fw.paused && !s.fw.restart && decide (s.fw.pausedAt + 49152 ≤ s.time) then s.handoverFails 5 else s

/-- FW_ANCHOR_WRITTEN (R411 step 7), once no read of tier 1 to 3 suspends the writing (R286). -/
def State.fwAnchorWritten (s : State) : State :=
  if s.isReady && s.fw.anchorDue && !s.metaSuspended then { s.writeFwAnchor s.host.activeSlot with fw.anchorDue := false } else s

/-! ### The rows -/

/-- COPPER_LOAD (R437). -/
def execCopperLoad (m : Msg) (s : State) : Host.Outcome State Fault Refusal :=
  s.done (s.takeWith (cmdOf 0x50 m) (fun c t => t.deferWork c))

/-- COPPER_SWAP (R438). -/
def execCopperSwap (m : Msg) (s : State) : Host.Outcome State Fault Refusal :=
  s.done (s.takeWith (cmdOf 0x51 m) State.cmdCopperSwap)

/-- COPPER_PARAM (R439). -/
def execCopperParam (m : Msg) (s : State) : Host.Outcome State Fault Refusal :=
  s.done (s.takeWith (cmdOf 0x52 m) State.cmdCopperParam)

/-- DIAG_START (R440). -/
def execDiagStart (m : Msg) (s : State) (rd : List PageFault := []) : Host.Outcome State Fault Refusal :=
  s.ends (s.takeWith (cmdOf 0x58 m) (State.cmdDiagStart rd))

/-- DIAG_READ (R441). -/
def execDiagRead (m : Msg) (s : State) : Host.Outcome State Fault Refusal :=
  s.done (s.takeWith (cmdOf 0x59 m) State.cmdDiagRead)

/-- DIAG_ABORT (R441). -/
def execDiagAbort (m : Msg) (s : State) : Host.Outcome State Fault Refusal :=
  s.done (s.takeWith (cmdOf 0x5A m) State.cmdDiagAbort)

/-- CAPTURE_START (R442). -/
def execCaptureStart (m : Msg) (s : State) : Host.Outcome State Fault Refusal :=
  s.done (s.takeWith (cmdOf 0x5C m) State.cmdCaptureStart)

/-- CAPTURE_STOP (R442). -/
def execCaptureStop (m : Msg) (s : State) : Host.Outcome State Fault Refusal :=
  s.done (s.takeWith (cmdOf 0x5D m) State.cmdCaptureStop)

/-- FAULT_LOG_READ (R443). -/
def execFaultLogRead (m : Msg) (s : State) : Host.Outcome State Fault Refusal :=
  s.done (s.takeWith (cmdOf 0x60 m) State.cmdFaultLogRead)

/-- BLOCK_RESET (R444). -/
def execBlockReset (m : Msg) (s : State) : Host.Outcome State Fault Refusal :=
  s.done (s.takeWith (cmdOf 0x61 m) State.cmdBlockReset)

/-- LIFETIME_READ (R445). -/
def execLifetimeRead (m : Msg) (s : State) : Host.Outcome State Fault Refusal :=
  s.done (s.takeWith (cmdOf 0x68 m) State.cmdLifetimeRead)

/-- LIFETIME_SET (R445). -/
def execLifetimeSet (m : Msg) (s : State) : Host.Outcome State Fault Refusal :=
  s.done (s.takeWith (cmdOf 0x69 m) State.cmdLifetimeSet)

/-- FW_LOAD (R446). -/
def execFwLoad (m : Msg) (s : State) : Host.Outcome State Fault Refusal :=
  s.done (s.takeWith (cmdOf 0x70 m) State.cmdFwLoad)

/-- FW_VERIFY (R447). -/
def execFwVerify (m : Msg) (s : State) : Host.Outcome State Fault Refusal :=
  s.done (s.takeWith (cmdOf 0x71 m) State.cmdFwVerify)

/-- HANDOVER (R448). -/
def execHandover (m : Msg) (s : State) : Host.Outcome State Fault Refusal :=
  s.done (s.takeWith (cmdOf 0x72 m) State.cmdHandover)

/-- FW_SELECT (R449). -/
def execFwSelect (m : Msg) (s : State) : Host.Outcome State Fault Refusal :=
  s.done (s.takeWith (cmdOf 0x73 m) State.cmdFwSelect)

/-- COPPER_LOAD_DONE (R437). -/
def execCopperLoadDone (rd : List PageFault) (s : State) : Host.Outcome State Fault Refusal :=
  s.ends (s.copperLoadDone rd)

/-- FW_LOAD_DONE (R446). -/
def execFwLoadDone (s : State) (fails : Bool := false) : Host.Outcome State Fault Refusal :=
  s.done (s.fwLoadDone fails)

/-- FW_VERIFY_DONE (R447). -/
def execFwVerifyDone (result : Nat) (s : State) : Host.Outcome State Fault Refusal :=
  s.done (s.fwVerifyDone result)

/-- FIRMWARE_RESUME (R411). -/
def execFirmwareResume (s : State) : Host.Outcome State Fault Refusal :=
  s.done (s.firmwareResume)

/-- HANDOVER_TIMEOUT (R412). -/
def execHandoverTimeout (s : State) : Host.Outcome State Fault Refusal :=
  s.done (s.handoverTimeout)

/-- FW_ANCHOR_WRITTEN (R411). -/
def execFwAnchorWritten (s : State) : Host.Outcome State Fault Refusal :=
  s.done (s.fwAnchorWritten)

end Sys2Proof.Machine
end

