-- ==== Sys2Proof/Machine/MashOps.lean ====
section
/-! DEFINITION. Clusters, regions and their faults: sums, lasting faults, quarantine, loss (02 R52, 01 R21, 06 R227, chapter 08). -/
namespace Sys2Proof.Machine

/-! ### Clusters -/

/-- Logical cluster of a voice, region by region. -/
def logicalOf (v : Nat) : Nat := 2 * vRegion v + vCluster v

/-- The physical cluster that carries a logical one (R52). -/
def State.physOf (s : State) (l : Nat) : Nat := nth s.mash.clusterOf l

/-- The logical cluster that a physical one carries, if any. -/
def State.carriedBy (s : State) (phys : Nat) : Option Nat :=
  (List.range (2 * s.part.variant.regionCount)).find? fun l => s.physOf l == phys && !s.mash.lost.contains l

/-- The region's spare carries a logical cluster. -/
def State.spareBusy (s : State) (r : Nat) : Bool :=
  (List.range 2).any fun k => s.physOf (2 * r + k) == 3 * r + 2

/-- The logical cluster computes nothing: it stopped in this block, or nothing carries it. -/
def State.clusterDown (s : State) (l : Nat) : Bool :=
  (s.mash.stopped.any fun x => x.1 == l) || s.mash.lost.contains l

/-- How a physical cluster is supplied (R47, R303): on; its clock gated and its context memory in retention, as a spare that waits;
or its clock gated and its context memory off, as a quarantined one and every one of a region that is off. -/
inductive ClusterPower where
  | on | gated | off
deriving DecidableEq, Repr

def State.clusterPower (s : State) (phys : Nat) : ClusterPower :=
  if !s.regionUp (phys / 3) then .off
  else if (s.carriedBy phys).isSome then .on
  else if phys % 3 = 2 ∧ !(s.spareBusy (phys / 3)) then .gated
  else .off

/-! ### Sums (R227, R228) -/

/-- A voice-block's contribution, channel by channel, 16 samples each: 16 speakers and the aux sends' channels (R141, R142). -/
def sendBlock (r : Recipe) (sends : List (List Int)) : List Int :=
  (List.range 32).flatMap fun ch => (List.range 16).map fun j =>
    let x := sends.getD j []
    if ch < 16 then nthI x ch
    else (List.range 4).foldl (fun acc i => if r.auxDest i = ch then acc + nthI x (16 + i) else acc) 0

/-- The sends of a session's voice as they enter the sums: muted or faded for a guard (R599 to R601). -/
def State.guarded (s : State) (sess n : Nat) (sends : List (List Int)) : List (List Int) :=
  (List.range 16).map fun j =>
    let x := sends.getD j []
    match s.guardGain sess n j with
    | none => x
    | some g => x.map fun v => mul31 v g

/-- A released voice-block's sends join the sums of its logical cluster. -/
def State.addSends (s : State) (n l sess : Nat) (r : Recipe) (sends : List (List Int)) : State :=
  let add := sendBlock r (s.guarded sess n sends)
  let here (x : ClusterSum) : Bool := x.block == n && x.cluster == l
  if s.mash.sums.any here then
    { s with mash.sums := s.mash.sums.map fun (x : ClusterSum) =>
      if here x then { x with vals := List.zipWith (fun a b => a + b) x.vals add } else x }
  else { s with mash.sums := s.mash.sums ++ [ClusterSum.mk n l add] }

/-- The sums and held sends of a cluster in one block are discarded (R298). -/
def State.dropSums (s : State) (n l : Nat) : State :=
  { s with
    mash.sums := s.mash.sums.filter fun (x : ClusterSum) => !(x.block == n && x.cluster == l)
    mash.twins := s.mash.twins.filter fun (x : TwinResult) => !(x.block == n && logicalOf x.v == l) }

/-! ### Voices that leave -/

/-- The partner of a twin goes on alone (R311). -/
def State.unpair (s : State) (v : Nat) : State :=
  let f (e : Nat × Voice) : Nat × Voice := if e.2.twin = some v then (e.1, { e.2 with twin := none }) else e
  { s with
    mash.voices := s.mash.voices.map f
    mash.queued := s.mash.queued.map f }

/-- A voice's context becomes free; a stream that its twin still plays passes to the twin. -/
def State.freeVoice (s : State) (v : Nat) : State :=
  match sfind s.mash.voices v with
  | none => s
  | some x =>
    let keep (st : Stream) : Stream :=
      match x.twin with
      | some t => if st.voice = some v ∧ (sfind s.mash.voices t).isSome then { st with voice := some t } else st
      | none => st
    ({ s with store.streams := s.store.streams.map keep }).freeContext v

/-- A context position is retired (R302, R316). -/
def State.retire (s : State) (v : Nat) : State :=
  if s.mash.retired.contains v then s
  else { s with
    mash.retired := s.mash.retired ++ [v]
    mash.reserve := s.mash.reserve.map (List.filter (· != v)) }

/-- Voices that satisfy a test leave at once, their twins going on alone. -/
def State.dropVoices (s : State) (f : Nat → Bool) : State :=
  ((s.mash.voices.filter fun e => f e.1).map fun (e : Nat × Voice) => e.1).foldl (fun (s : State) v => (s.unpair v).freeVoice v)
    { s with
      mash.queued := s.mash.queued.filter fun (e : Nat × Voice) => !(f e.1)
      mash.ending := s.mash.ending.filter fun (e : Nat × Voice) => !(f e.1) }

/-! ### Lasting faults (R298, R299, R316) -/

/-- The covering posts of a cluster that stops in block n: every voice whose block was not computed (R299). -/
def State.coverPosts (s : State) (l n : Nat) : State :=
  (s.mash.voices.filter fun e => logicalOf e.1 == l && e.2.next == n).foldl
    (fun (s : State) e => s.postVoice e.1 e.2.twin e.2.ctx n 48) s

/-- First row of R316: nothing carries the cluster any more from block n on. -/
def State.clusterLost (s : State) (l n : Nat) : State :=
  let s := s.dropSums n l
  let vs := (s.mash.voices.filter fun e => logicalOf e.1 == l).map fun (e : Nat × Voice) => e.1
  let s := vs.foldl State.unpair s
  let s := { s with
    mash.lost := s.mash.lost ++ [l]
    mash.stopped := s.mash.stopped.filter fun x => x.1 != l
    mash.ending := s.mash.ending.filter fun (e : Nat × Voice) => logicalOf e.1 != l
    mash.catchups := s.mash.catchups.filter fun (c : Catchup) => c.cluster != l }
  s.report (mkMsg 4 (s.physOf l) kClusterLost 2 0 n) 0 0

/-- A lasting fault of a logical cluster in block n, with its message (R298, R306). -/
def State.lastingFault (s : State) (l n : Nat) (m : BitVec 64) : State :=
  if s.clusterDown l then s
  else if s.spareBusy (l / 2) || s.mash.stopped.any fun x => x.1 / 2 == l / 2 then s.clusterLost l n
  else
    let s := (s.coverPosts l n).dropSums n l
    { s with mash.stopped := s.mash.stopped ++ [(l, n, m)] }

/-- A voice of the cluster that finished block k goes back to its checkpoint of that block; one that had not, or has one older
block or more to compute, stays where it is (R298, R303). -/
def rollBack (l k : Nat) (e : Nat × Voice) : Nat × Voice :=
  if logicalOf e.1 = l then
    (e.1, if e.2.ckptAt = some k ∧ e.2.next = k + 1 then { e.2 with ctx := e.2.ckpt, next := k, failed := none } else { e.2 with failed := none })
  else e

/-- VOICE_LOST: a voice contributes 0 from block n on and is ended, its twin going on alone (third row of R316). -/
def State.voiceLost (s : State) (v n : Nat) : State :=
  (if (sfind s.mash.ending v).isSome then { s with mash.ending := serase s.mash.ending v } else s.dropVoices fun u => u == v).report (mkMsg 4 (s.physOf (logicalOf v)) kVoiceLost 2 (v % 2048) n) 1 1

/-- A voice's checkpoint entry cannot be read: its read-back failed, or its position is retired (R302). -/
def State.noCover (s : State) (e : Nat × Voice) : Bool := e.2.ckptBad || s.mash.retired.contains e.1

/-- The replay of block k needs a checkpoint entry that cannot be read. -/
def State.uncovered (s : State) (l k : Nat) (e : Nat × Voice) : Bool :=
  logicalOf e.1 == l && s.noCover e && e.2.ckptAt == some k && (e.2.next == k + 1 || e.2.failed.isSome)

/-- Quarantine takes effect at B(m): the spare carries the logical cluster and replays block m - 1 (R52, R298, R303); a voice
without replay cover is lost (R302, R316). -/
def State.quarantine (s : State) (l m : Nat) (msg : BitVec 64) : State :=
  let r := l / 2
  if s.mash.lost.contains l then s
  else if s.spareBusy r then s.clusterLost l m
  else
    let s := s.dropSums (m - 1) l
    let bare := (s.mash.voices.filter (s.uncovered l (m - 1))).map fun (e : Nat × Voice) => e.1
    let s := bare.foldl (fun (s : State) v => s.voiceLost v (m - 1)) s
    { s with
      mash.clusterOf := s.mash.clusterOf.set l (3 * r + 2)
      mash.stopped := s.mash.stopped.filter fun x => x.1 != l
      mash.catchups := s.mash.catchups ++ [⟨l, m - 1, 0, msg⟩]
      mash.voices := s.mash.voices.map (rollBack l (m - 1)) }

/-! ### Regions (R21, R316) -/

/-- REGION_QUARANTINE of a region in block n. -/
def State.reportRegion (s : State) (r cls n : Nat) : State := s.report (mkMsg 3 r kRegionQuarantine cls 0 n) 0 0

/-- A region's voices stop in block n, on the QK2048A the safety voices going on from their twins (R3, R316). -/
def State.stopRegion (s : State) (r n : Nat) : State :=
  let s := { s with mash.regions := modAt s.mash.regions r fun g => { g with quarantined := true } }
  ((s.dropSums n (2 * r)).dropSums n (2 * r + 1)).dropVoices fun v => vRegion v == r

/-- The Kiln's action at B(n): non-safety voices fade over 16 samples, safety voices continue from their twins (R21). -/
def State.quarantineRegion (s : State) (r n : Nat) : State :=
  let s := { s with mash.regions := modAt s.mash.regions r fun g => { g with quarantined := true } }
  let s := s.dropVoices fun v => vRegion v == r && ((sfind s.mash.voices v).map fun x => decide (6 ≤ x.prio) && x.twin.isSome) == some true
  let fade (e : Nat × Voice) : Nat × Voice :=
    if vRegion e.1 = r then (e.1, { e.2 with note := none, stolen := true }.op n (.fade (Fade.mk 16 (16 * n) false))) else e
  let s := { s with
    mash.voices := s.mash.voices.map fade
    mash.queued := s.mash.queued.filter fun (e : Nat × Voice) => vRegion e.1 != r }
  s.reportRegion r 2 n

/-- A region without power from block n on (R21, R316); without a second region this is class C3 (R3). -/
def State.regionLost (s : State) (r n : Nat) : State :=
  (s.stopRegion r n).reportRegion r (if s.part.variant = .qk2048a then 2 else 3) n

/-! ### Copies (R310, R312, R313) -/

/-- A copy, named by its INDEX at level 5, is disabled until reset. -/
def State.disable (s : State) (i : Nat) : State :=
  if s.mash.disabled.contains i then s else { s with mash.disabled := s.mash.disabled ++ [i] }

end Sys2Proof.Machine
end

