-- ==== Sys2Proof/Machine/Memories.lean ====
section
/-! DEFINITION. On-chip memories: scrubbing, atomic operations, banks that leave retention or off (chapter 19). -/
namespace Sys2Proof.Machine

/-! ### Scrubbing (R577, R325) -/

/-- Level, index and class of an uncorrectable word of a memory, by its ID (R325; wavetable R18). Which Copper core reads a word of
memories 9 to 11 is left open (log 80). -/
def memPlace (mem bank word : Nat) : Nat × Nat × Nat :=
  match mem with
  | 0 => (4, bank, 0)
  | 1 => (3, bank, 0)
  | 2 => (3, bank / 2, 1)
  | 4 => (3, bank, 0)
  | 5 => (3, bank, 0)
  | 9 => (5, 12 + b2n (Config.copperReader mem word), 0)
  | 10 => (5, 12 + b2n (Config.copperReader mem word), 0)
  | 11 => (5, 12 + b2n (Config.copperReader mem word), 0)
  | 12 => (5, 32, 1)
  | 13 => (2, 0, 1)
  | 14 => (2, 0, 1)
  | _ => (2, 0, 0)

/-- Banks of a memory (R574). -/
def memBanks (v : Variant) (mem : Nat) : Nat :=
  let r := v.regionCount
  match mem with
  | 0 => 3 * r
  | 1 => r
  | 2 => 2 * r
  | 3 => 4
  | 4 => r
  | 5 => r
  | 9 => if v.hasCopper then 2 else 0
  | 10 => if v.hasCopper then 1 else 0
  | 11 => if v.hasCopper then 1 else 0
  | 12 => 8
  | 13 => 4
  | _ => if mem < 16 then 6 else 0

/-- The memory's bank is powered and can be read; one in retention is not (R47, R577). -/
def State.memPowered (s : State) (mem bank : Nat) : Bool :=
  s.clocked && s.pwr.phase != .standby && decide (bank < memBanks s.part.variant mem) &&
  match mem with
  | 0 => s.clusterPower bank == .on
  | 1 => s.regionUp bank
  | 2 => s.regionUp (bank / 2)
  | 4 => s.regionUp bank
  | 5 => s.regionUp bank
  | 9 => s.cop.on
  | 10 => s.cop.on
  | 11 => s.cop.on
  | 12 => s.bank bank == .on
  | 13 => s.bank (8 + bank) == .on
  | _ => true

/-- Memories whose words are each written to two banks (R325). -/
def pairedMem (mem : Nat) : Bool := mem == 6 || mem == 8

/-- The bank that holds the other copy of a word: the banks pair off in order (DESIGN CHOICE, log 80). -/
def otherBank (bank : Nat) : Nat := if bank % 2 = 0 then bank + 1 else bank - 1

/-- What an uncorrectable word that the scrubber found leads to (R325): a checkpoint entry is without cover, a wavetable without a
second copy disables its region (R22), a scratch word or a log record reads as uncorrectable from now on. `word` is an address in
the memory: 96 words a checkpoint entry, 4 a log record, the oldest first (log 80). -/
def State.scrubbed (s : State) (mem bank word : Nat) : State :=
  match mem with
  | 1 =>
    let v := 1024 * bank + word / 96
    { s with mash.voices := s.mash.voices.map fun (e : Nat × Voice) => if e.1 = v ∧ word / 96 < 1024 then (e.1, { e.2 with ckptBad := true }) else e }
  | 2 => if s.part.variant.regionCount = 1 then s.regionLost 0 s.lastBlock else s
  | 13 => { s with mem.badScratch := (s.mem.badScratch.filter (· != word)) ++ [word] }
  | 15 => { s with kiln.log := modAt s.kiln.log (word / 4) fun r => { r with bad := true } }
  | _ => s

/-- An uncorrectable word of a doubly written memory: the other bank serves, unless its copy is uncorrectable too (R325). -/
def State.pairClass (s : State) (mem bank word : Nat) : Nat :=
  if s.mem.pairBad.contains (mem, otherBank bank, word) then 2 else 0

/-- MEMORY_SCRUB: a good word, one wrong bit, corrected and reported as C0, or more, which are uncorrectable; an uncorrectable word
of system SRAM is CPU_CHECK (R325, R326). -/
def State.memoryScrub (s : State) (mem bank word errors : Nat) : State :=
  if !s.memPowered mem bank then s
  else
    let (lv, ix, cls) := memPlace mem bank word
    let detail := mem * 256 + bank
    let t := { s with mem.pairBad := s.mem.pairBad.filter (· != (mem, bank, word)) }
    if errors = 0 then t
    else if errors = 1 then t.report (mkMsg lv ix kMemCorrected 0 detail word) 0 1
    else if mem = 12 then (s.report (mkMsg 5 32 kCpuCheck 1 1 word) 0 1).cpuRestart
    else if pairedMem mem then
      { t with mem.pairBad := t.mem.pairBad ++ [(mem, bank, word)] }.report
        (mkMsg lv ix kMemUncorrectable (s.pairClass mem bank word) detail word) 0 1
    else (s.report (mkMsg lv ix kMemUncorrectable cls detail word) 0 1).scrubbed mem bank word

def execMemoryScrub (mem bank word errors : Nat) (s : State) : Host.Outcome State Fault Refusal :=
  s.ends (s.memoryScrub mem bank word errors)

/-! ### Atomic operations (R579, R580) -/

def State.scratchWord (s : State) (w : Nat) : Word := sget (fun _ => 0) s.mem.scratch w

/-- Bank of a shared-scratch word, numbered as MEM_STATE orders the banks. -/
def scratchBank (w : Nat) : Nat := 8 + w / 8192

/-- An atomic operation runs: the old value is returned, the new one written. An uncorrectable read writes nothing. -/
def State.runAtomic (s : State) (o : StalledOp) : State :=
  if o.bad || s.mem.badScratch.contains o.word then s.report (mkMsg 2 0 kMemUncorrectable 1 (13 * 256 + o.word / 8192) o.word) 3 1
  else
    let old := s.scratchWord o.word
    { s with
      mem.scratch := sput (fun _ => 0) s.mem.scratch o.word (if o.swap then o.value else old + o.value)
      mem.lastOld := old }

/-- It is issued: a bank that is not on is woken, and the operation waits for it (R582, R583). -/
def State.atomic (s : State) (a : Nat) (swap : Bool) (v : Word) (bad : Bool) : State :=
  let w := a / 4
  if !s.clocked || s.pwr.phase == .standby || a % 4 ≠ 0 || decide (32768 ≤ w) then s
  else
    let o : StalledOp := ⟨w, swap, v, bad⟩
    if s.bank (scratchBank w) = .on then s.runAtomic o
    else { s.accessBank (scratchBank w) with mem.stalled := s.mem.stalled ++ [o] }

/-- ATOMIC_ADD (R579). -/
def execAtomicAdd (a : Nat) (v : Word) (bad : Bool) (s : State) : Host.Outcome State Fault Refusal :=
  s.ends (s.atomic a false v bad)

/-- ATOMIC_SWAP (R579). -/
def execAtomicSwap (a : Nat) (v : Word) (bad : Bool) (s : State) : Host.Outcome State Fault Refusal :=
  s.ends (s.atomic a true v bad)

/-! ### Banks that become usable (R582, R583) -/

/-- The accesses that waited for a bank proceed in order. -/
def State.resumeBank (s : State) (b : Nat) : State :=
  let mine := s.mem.stalled.filter fun o => scratchBank o.word == b
  let s := { s with mem.stalled := s.mem.stalled.filter fun o => scratchBank o.word != b }
  mine.foldl State.runAtomic s

/-- BANK_POWER_UP_END: out of retention the bank is on; out of off its clear begins. -/
def execBankPowerUpEnd (b : Nat) (s : State) : Host.Outcome State Fault Refusal :=
  s.ends (if decide (12 ≤ b) || !s.clocked then s
    else match s.bank b with
      | .exiting => (s.setBank b .on).resumeBank b
      | .powering => (s.setBank b .clearing).loseBank b
      | _ => s)

/-- BANK_CLEAR_DONE: every word is 0, and the bank is on. -/
def execBankClearDone (b : Nat) (s : State) : Host.Outcome State Fault Refusal :=
  s.ends (if decide (b < 12) && s.bank b == .clearing then ((s.loseBank b).setBank b .on).resumeBank b else s)

/-- Words of the MEMCTL image were applied: a request register clears WAKES (R585). -/
def State.memctlApplied (s : State) (offs : List Nat) : State :=
  if offs.contains 0 || offs.contains 4 then s.setReg bMEMCTL 0x10 (setField (s.reg bMEMCTL 0x10) 16 16 0) else s

end Sys2Proof.Machine
end

