-- ==== Sys2Proof/Machine/Tdm.lean ====
section
/-! DEFINITION. The TDM output lanes and input lanes (06 R233 to R246, 13 R475, R476). -/
namespace Sys2Proof.Machine

/-! ### Formats -/

/-- Slots of a frame by the SLOTS code. -/
def slotCount (ctrl : Nat) : Nat := 2 ^ bits ctrl 4 3

/-- Bits of a slot. -/
def slotWidth (ctrl : Nat) : Nat :=
  match bits ctrl 2 2 with
  | 0 => 16
  | 1 => 24
  | _ => 32

/-- A 1.31 value as a slot carries it, left-justified (R235). -/
def narrow (width : Nat) (v : Int) : Int :=
  let k := 32 - width
  satI (-(2 ^ (width - 1))) (2 ^ (width - 1) - 1) (rndShift v k) * 2 ^ k

/-! ### The half-band decimator (R238) -/

/-- Tap k; the centre is exactly one half. -/
def halfbandTap (k : Nat) : Int :=
  let d : Int := (k : Int) - 31
  if d = 0 then 0x40000000
  else if d % 2 = 0 then 0
  else
    let s : Int := if d.natAbs % 4 = 1 then 1 else -1
    let q (x : Int) : Int := 16 * fpOne * (961 - x * x) / 961
    let win := fpBessel (q d) * fpOne / fpBessel (q 0)
    rndShift (s * win * fpOne / (fpPi * (d.natAbs : Int))) 65

/-- Output of the decimator whose newest sample is x. -/
def State.decimate (s : State) (x ch : Nat) : Int :=
  let acc := (List.range 63).foldl (fun (acc : Int) k =>
    if x < k then acc else acc + halfbandTap k * s.wortAt (x - k) ch) 0
  sat31 (rndShift acc 31)

/-! ### Output frames (R236, R237, R239, R475, R476) -/

/-- What a direct lane's slot carries in frame f. -/
def State.directSlot (s : State) (f lane k : Nat) : Int :=
  let m := bits (s.regN bTDMO (0x10 + 0x10 * lane + k / 4 * 4)) (8 * (k % 4)) 8
  let ch := bits m 0 5
  let back := 48 + s.depth
  if !bit m 7 || decide (f < back) then 0
  else if bit (s.regN bTDMO 0) 1 then s.decimate (f - back + 1) ch
  else s.wortAt (f - back) ch

/-- What a Copper-sourced slot carries in frame f: the frame path before the block path, else what it last sent. -/
def State.copperSlot (s : State) (f k : Nat) : Int :=
  let block := if bit (s.regN bTDMO 0) 1 then f + 1 else f
  let due (fast : Bool) (t : Nat) : Option Word :=
    (s.cop.outq.find? fun e => e.1 == t && e.2.1 == k && e.2.2.1 == fast).map fun (e : Nat × Nat × Bool × Word) => e.2.2.2
  if !s.cop.on then 0
  else match due true f with
    | some w => w.toInt
    | none => match due false block with
      | some w => w.toInt
      | none => nthI s.tdm.sent k

/-- Slot k (lane k / 16) of output frame f. -/
def State.outSlot (s : State) (f k : Nat) : Int :=
  let ctrl := s.regN bTDMO 0
  let lane := k / 16
  if s.kiln.safe || !bit ctrl (12 + lane) || decide (slotCount ctrl ≤ k % 16) then 0
  else narrow (slotWidth ctrl) (if bit ctrl (16 + lane) then s.directSlot f lane (k % 16) else s.copperSlot f k)

/-- The output frame whose turn it is; at 48 kHz frames begin with even sample frames. -/
def State.outTurn (s : State) : Option Nat :=
  let f := max s.tdm.outNext (16 * s.lastBlock)
  let f := if bit (s.regN bTDMO 0) 1 then (f + 1) / 2 * 2 else f
  if s.isReady && s.tdm.running && decide (f < 16 * s.lastBlock + 16) then some f else none

/-- TDMO_FRAME (R236). -/
def State.tdmoFrame (s : State) : State :=
  match s.outTurn with
  | none => s
  | some f =>
    let s := s.atFrame f
    { s with tdm := { s.tdm with
        sent := (List.range 64).map (s.outSlot f)
        outNext := f + if bit (s.regN bTDMO 0) 1 then 2 else 1 } }

def execTdmoFrame (s : State) : Host.Outcome State Fault Refusal :=
  s.done s.tdmoFrame

/-! ### Input frames (R242 to R246) -/

/-- Input capture runs: EN, and a part that reads its inputs (R246). -/
def State.inputOn (s : State) : Bool :=
  s.isReady && bit (s.regN bTDMI 0) 0 && s.part.variant != .qk1024n && !(s.kiln.windows.any fun w => w.target == 10 && w.inReset)

/-- The captured words as the slots hold them: slots beyond the format carry nothing, bits beyond the width are 0. -/
def captured (ctrl : Nat) (ws : List Word) : List Word :=
  let low := 32 - slotWidth ctrl
  (List.range 32).map fun k =>
    if k % 16 < slotCount ctrl then w32 ((nthW ws k).toNat / 2 ^ low * 2 ^ low) else 0

/-- The first sample frame that presents an input frame which completes now. -/
def State.inputPhase (s : State) : Nat :=
  let f := frameOf s.time + 1
  if bit (s.regN bTDMI 0) 1 then (f + 1) / 2 * 2 else f

/-- TDMI_FRAME (R243): a frame of the expected length completes. -/
def State.tdmiFrame (s : State) (slots : List Word) : State :=
  if !s.inputOn then s else
  let ws := captured (s.regN bTDMI 0) slots
  let t := s.tdm
  if t.locked then { s with tdm := { t with inPrev := t.inLast, inLast := ws, inFrame := t.inFrame + 1 } }
  else if t.good = 0 then { s with tdm := { t with good := 1 } }
  else { s with tdm := { t with good := 0, locked := true, inLast := ws, inFrame := 0, inPhase := s.inputPhase } }

def execTdmiFrame (slots : List Word) (s : State) : Host.Outcome State Fault Refusal :=
  s.done (s.tdmiFrame slots)

/-- TDMI_SLIP (R244): the last complete frame stands; an event. -/
def State.tdmiSlip (s : State) : State :=
  if !s.inputOn then s else
  let t := s.tdm
  let s := { s with tdm := { t with good := 0, locked := false, inPrev := if t.locked then t.inLast else t.inPrev } }
  let w := s.reg bTDMI 4
  let n := satAdd 16 (bits w.toNat 16 16) 1
  (s.setReg bTDMI 4 (setField (setBit w 1) 16 16 n)).event 0x85 0 [w32 n]

def execTdmiSlip (s : State) : Host.Outcome State Fault Refusal :=
  s.done s.tdmiSlip

end Sys2Proof.Machine
end

