-- ==== Sys2Proof/Machine/Timebase.lean ====
section
/-! DEFINITION. Accepted TB-pin edges, stalls, and image writes of the TIMEBASE block (04 R148 to R165, R175, R186). -/
namespace Sys2Proof.Machine

/-- Trackers take edges: from PLL lock on, standby apart. -/
def State.tracksEdges (s : State) : Bool := s.clocked && s.pwr.phase != .standby

/-- The active edge of pin p: 0 rising, 1 falling. -/
def State.pinPol (s : State) (p : Nat) : Bool := bit (s.regN bTIMEBASE 0) (8 * p)

/-- A new level is the pin's active edge (R152). -/
def State.pinActive (s : State) (p : Nat) (level : Bool) : Bool := level != s.pinPol p

def State.pinOf (s : State) (p : Nat) : Bool × Nat := s.tbPins.getD p (false, 0)

/-- A tooth pin's edge: the active one is the tooth, but with DIR_MODE the edge that ends the pulse decides its direction and
the tooth keeps the time of its active edge (R159). -/
def Tracker.toothPin (c : TbCfg) (active : Bool) (t : Nat) (k : Tracker) : Tracker :=
  if !c.dirMode then (if active then k.toothEdge c t false else k)
  else if active then { k with rise := some t }
  else match k.rise with
    | some t0 => { k with rise := none }.toothEdge c t0 (decide (16 * c.dirPw < t - t0))
    | none => k

/-- A quadrature edge: pin A where `onA`, with both levels after it (R160). -/
def Tracker.quadPin (c : TbCfg) (onA : Bool) (a b : Bool) (t : Nat) (k : Tracker) : Tracker :=
  let forward := if onA then a != b else a == b
  k.quadCount c t (forward == c.quadInv)

/-- A and B changed in the same core cycle: an error while SYNCED, in SYNCING a new start of the count (R161). -/
def Tracker.quadBoth (t : Nat) (k : Tracker) : Tracker :=
  let k := { k with lastInput := t, quiet := false }
  if k.now = 3 then k.lose t 4 else { k with quad := [], valid := 0 }

/-- The edge pins of a tracker. -/
def TbCfg.edgePin (c : TbCfg) (p : Nat) : Bool :=
  (c.source == 1 && p == c.pin) || (c.source == 2 && (p == c.pin || p == c.pin + 1))

/-- What an edge on pin p does to tracker n; `both` says that the other pin of its pair changes in the same core cycle. -/
def State.trackerEdge (s : State) (p : Nat) (level both : Bool) (t n : Nat) : State :=
  let c := s.tbCfg n
  let k := s.tracker n
  let active := s.pinActive p level
  let k1 :=
    if !c.edgePin p then k
    else if c.source = 1 then k.toothPin c active t
    else if both then (if p = c.pin then k.quadBoth t else k)
    else if p = c.pin then k.quadPin c true level (s.pinOf (p + 1)).1 t
    else k.quadPin c false (s.pinOf c.pin).1 level t
  let k2 :=
    if c.refEn && active && p == c.refPin then
      if c.source = 1 then k1.toothRef c else if c.source = 2 then k1.quadIndex c t else k1
    else k1
  let s := s.setTracker n k2
  if k2.reverse != k.reverse then s.tbEvent n 8 else s

/-- FILTp in core cycles: how long a level holds before it is accepted (R151). -/
def State.pinHold (s : State) (p : Nat) : Nat := 4 * bits (s.regN bTIMEBASE 0) (8 * p + 1) 7 + 1

/-- An edge that pin p can show at a core-cycle time of this block: a change of its level, once it has had an edge, and no sooner after
that edge than the filter passes (R151). -/
def State.edgeFits (s : State) (p : Nat) (level : Bool) (cycle : Nat) : Bool :=
  decide (p < 4) && decide (cycle < (s.lastBlock + 1) * 73728) &&
    ((s.pinOf p).2 == 0 || (level != (s.pinOf p).1 && decide ((s.pinOf p).2 + s.pinHold p ≤ cycle)))

/-- An accepted edge reaches every tracker that uses its pin (R149, R152). -/
def State.oneEdge (s : State) (p : Nat) (level both : Bool) (cycle : Nat) : State :=
  let s := (List.range 4).foldl (fun (s : State) n => s.trackerEdge p level both cycle n) s
  { s with tbPins := s.tbPins.set p (level, cycle) }

/-- The other pin of a quadrature pair. -/
def otherPin (p : Nat) : Nat := if p % 2 = 0 then p + 1 else p - 1

/-- TB_EDGE: an edge captured before the next boundary, or one on each pin of a pair in the same core cycle (R150, R161). -/
def State.tbEdge (s : State) (p : Nat) (level : Bool) (cycle : Nat) (both : Bool) : State :=
  let q := otherPin p
  let other := !(s.pinOf q).1
  if !s.tracksEdges || !s.edgeFits p level cycle then s
  else
    let t := { s with time := max s.time (cycle / 18) }
    if both && s.edgeFits q other cycle then (t.oneEdge (min p q) (if p < q then level else other) true cycle).oneEdge (max p q) (if p < q then other else level) true cycle
    else t.oneEdge p level false cycle

def execTbEdge (pin : Nat) (level : Bool) (cycle : Nat) (s : State) (both : Bool := false) : Host.Outcome State Fault Refusal :=
  s.done (s.tbEdge pin level cycle both)

/-- TB_STALL (R175): the timeout of tracker n has run out; its state changes at the next boundary. -/
def execTbStall (n : Nat) (s : State) : Host.Outcome State Fault Refusal :=
  s.done (if s.tracksEdges && decide (n < 4) then s.setTracker n ((s.tracker n).stall (s.tbCfg n) (18 * s.time)) else s)

/-! ### Image writes (R186, R188) -/

/-- Registers whose write restarts an enabled tracker. -/
def tbConfigRegs : List Nat := [0x00, 0x04, 0x08, 0x0C, 0x10, 0x24]

/-- A write of tracker n's configuration: UNSYNCED, or OFF; updates on their way are void. A write of TBn_SRC clears the counts. -/
def State.trackerApplied (s old : State) (offs : List Nat) (n : Nat) : State :=
  let src := offs.contains (tbReg n 0)
  let hit := tbConfigRegs.any fun r => offs.contains (tbReg n r)
  let was := (old.tbCfg n).source != 0
  let now := (s.tbCfg n).source != 0
  if hit && (was || now) then
    { s.setTracker n ((s.tracker n).configured (s.tbCfg n) src) with fw.tbUpdates := s.fw.tbUpdates.filter fun u => u.1 != n }
  else if src then s.setTracker n { s.tracker n with losses := 0, lates := 0 }
  else s

def State.timebaseApplied (s old : State) (offs : List Nat) : State :=
  (List.range 4).foldl (fun (s : State) n => s.trackerApplied old offs n) s

end Sys2Proof.Machine
end

