-- ==== Sys2Proof/Machine/Dac.lean ====
section
/-! DEFINITION. The resistor-string DACs (15 R514 to R519). -/
namespace Sys2Proof.Machine

def dacReg (d r : Nat) : Nat := 0x10 + 0x20 * d + r
def State.dacN (s : State) (d r : Nat) : Nat := s.regN bDAC (dacReg d r)

/-- DAC is under block reset (R519). -/
def State.dacReset (s : State) : Bool := s.kiln.windows.any fun w => w.target == 9 && w.inReset

/-- The raw code of a code (R514). -/
def rawCode (bipolar : Bool) (code : Nat) : Nat := if bipolar then code % 4096 ^^^ 0x800 else code % 4096

/-- q[k] of R517. -/
def sineQuarter (k : Nat) : Int := rndDiv (32767 * fpSin (fpPi * (2 * (k : Int) + 1) / 4096)) fpOne

/-- s of R517 for a phase. -/
def sineStep (phase : Nat) : Int :=
  let x := phase / 2 ^ 20 % 4096
  let k := x % 1024
  let q := if bit x 10 then sineQuarter (1023 - k) else sineQuarter k
  if bit x 11 then -q else q

/-- The sine generator's code (R517). -/
def sineCode (bipolar : Bool) (amp center phase : Nat) : Nat :=
  let c : Int := if bipolar then signed 12 center else (center : Nat)
  let v := c + rndDiv ((amp : Int) * sineStep phase) 32768
  ((if bipolar then satI (-2048) 2047 v else satI 0 4095 v) % 4096).toNat

/-- What the string gives, in 4,096ths of its reference, and whether that is DAC_REF (R514). -/
def DacState.output (k : DacState) : Nat × Bool := ((if k.gain2 then 2 else 1) * k.raw, k.refExt)

/-- A DAC takes its next code and its range at an update tick (R516, R517). -/
def State.dacTick (s : State) (d tick : Nat) : State :=
  let k := s.dac d
  let cfg := s.dacN d 0
  let bip := bit cfg 3
  let k := { k with
    lastTick := some tick
    gain2 := if bits cfg 0 2 = 0 then s.pwr.shadow.dacRange.testBit d else bit cfg 2
    refExt := bits cfg 0 2 != 0 && bit (s.regN bDAC 0) 0 }
  let put (s : State) (k : DacState) : State := { s with dacs := s.dacs.set d k }
  match bits cfg 0 2 with
  | 0 => put s { k with raw := nth s.pwr.shadow.dacPwrup d, cask := true, sine := false }
  | 1 => put s { k with raw := rawCode bip (s.dacN d 4), cask := false, sine := false }
  | 2 =>
    match k.queue with
    | c :: rest => put s { k with raw := rawCode bip c, queue := rest, cask := false, sine := false }
    | [] => (put s { k with cask := false, sine := false }).countReg bDAC (dacReg d 0xC) 16 16 1
  | _ =>
    let phase := if k.sine then k.phase else s.dacN d 0x18
    let samp := s.dacN d 0x14
    put s { k with
      raw := rawCode bip (sineCode bip (bits samp 0 12) (bits samp 16 12) phase)
      phase := (phase + s.dacN d 0x10) % 2 ^ 32
      cask := false
      sine := true }

/-- The DAC follows its image: DAC agreed, no safe state, no block reset (R518, R519). -/
def State.dacRuns (s : State) (d : Nat) : Bool :=
  s.isReady && decide (d < 4) && s.unitOn 4 && !(s.dac d).faulted && !s.dacReset

/-- Ticks between updates for UPD 0 to 2 (R515). -/
def updStep (cfg : Nat) : Option Nat :=
  match bits cfg 4 2 with
  | 0 => some 256
  | 1 => some 128
  | 2 => some 64
  | _ => none

/-- The next update tick of a DAC that does not follow a timer, within the block that has begun. -/
def State.dacTurn (s : State) (d : Nat) : Option Nat :=
  match updStep (s.dacN d 0) with
  | none => none
  | some step =>
    let start := s.lastBlock * 4096
    let t := match (s.dac d).lastTick with
      | some l => max ((l / step + 1) * step) start
      | none => start
    if t < start + 4096 then some t else none

/-- DAC_UPDATE (R515). -/
def execDacUpdate (d : Nat) (s : State) : Host.Outcome State Fault Refusal :=
  s.done (if !s.dacRuns d then s else match s.dacTurn d with
    | some t => { s with time := max s.time t }.dacTick d t
    | none => s)

/-- A timer compare event reaches the DACs with UPD 3: fewer than 64 ticks after the last update it is ignored and counted (R515). -/
def State.dacTimer (s : State) (ev : Nat) : State :=
  (List.range 4).foldl (fun (s : State) d =>
    let cfg := s.dacN d 0
    if !s.dacRuns d || bits cfg 4 2 != 3 || bits cfg 8 4 != ev then s
    else match (s.dac d).lastTick with
      | some l => if s.time < l + 64 then s.countReg bDAC (dacReg d 0x1C) 16 16 1 else s.dacTick d s.time
      | none => s.dacTick d s.time) s

/-- DAC enters its block reset: outputs hold, queues are emptied (R519). -/
def State.dacStop (s : State) : State := { s with dacs := s.dacs.map fun (k : DacState) => { k with queue := [] } }

/-- DAC leaves its block reset: each sine restarts from PHASE (R519). -/
def State.dacRestart (s : State) : State := { s with dacs := s.dacs.map fun (k : DacState) => { k with sine := false } }

end Sys2Proof.Machine
end

