-- ==== Sys2Proof/Machine/Timers.lean ====
section
/-! DEFINITION. Timer steps, captures, standby ticks and image writes of the TIMER block (17 R536 to R554). -/
namespace Sys2Proof.Machine

/-- Units and clusters run on the core clock: from PLL lock on, standby apart (R536, R538). -/
def State.timersRun (s : State) : Bool := s.clocked && s.pwr.phase != .standby

/-- Compare events reach the DACs in the cycle of their match (R543). -/
def State.toDacs (s : State) (evs : List Nat) : State := evs.foldl State.dacTimer s

/-- A unit makes m steps, and its compare events are delivered. -/
def State.stepUnit (s : State) (u m : Nat) : State :=
  let r := s.unitStep u m
  r.1.toDacs r.2

/-- `edges` source edges at a unit: phase, carries, steps (R537). -/
def State.feedUnit (s : State) (u edges : Nat) : State :=
  let r := s.prescale u edges
  r.1.stepUnit u r.2

/-- Source edges up to the next carry. -/
def State.edgesToCarry (s : State) (u : Nat) : Nat := (2 ^ 32 - (s.unit u).phase + s.unitInc u - 1) / s.unitInc u

/-- TIMER_STEP: the source edges up to and including the one that carries (R537, R539). Units on capture edges step with
their edge. -/
def execTimerStep (u : Nat) (s : State) : Host.Outcome State Fault Refusal :=
  s.done (if !s.timersRun || decide (3 < u) || decide (3 < bits (s.tmrN u 0) 1 3) then s else s.feedUnit u (s.edgesToCarry u))

/-- An accepted edge also feeds a unit on capture edges (R537). -/
def State.captureFeed (s : State) (u : Nat) : State := if bits (s.tmrN u 0) 1 3 = 4 then s.feedUnit u 1 else s

/-- The edge is accepted: CAP_EDGE selects its direction, and the part is not in standby (R538, R544). -/
def State.captureOn (s : State) (u : Nat) (rising : Bool) : Bool :=
  s.timersRun && decide (u < 4) && (match bits (s.tmrN u 0) 6 2 with
    | 0 => rising
    | 1 => !rising
    | 2 => true
    | _ => false)

/-- CAPTURE_INPUT_EDGE: an accepted edge that the divider drops (R544). -/
def execCaptureInputEdge (u : Nat) (s : State) (rising : Bool := true) : Host.Outcome State Fault Refusal :=
  s.done (if !s.captureOn u rising || decide (bits (s.tmrN u 0) 16 8 ≤ (s.unit u).edges) then s
    else { s with tmr := modAt s.tmr u fun x => { x with edges := x.edges + 1 } }.captureFeed u)

/-- The capture itself: the count of the cycle in which the first sample showed the new level, `late` steps of the unit before
the filter lets the edge through (R545). -/
def State.captureNow (s : State) (u late : Nat) : State :=
  let ovf := bit (s.regN bTIMER 0xC) (16 + u)
  let s := s.setReg bTIMER (tmrReg u 0xC) (s.reg bTIMER (tmrReg u 8) - w32 late)
  let s := s.timerEvent (16 + u)
  let s := if ovf then s.timerEvent (20 + u) else s
  { s with tmr := modAt s.tmr u fun x => { x with edges := 0 } }

/-- TIMER_CAPTURE: the (CAP_DIV + 1)-th accepted edge. Its filter holds it for 16 CAP_FILT core cycles, in which no source but
the edges themselves makes more than CAP_FILT steps (R537, R544, R545). -/
def execTimerCapture (u : Nat) (s : State) (rising : Bool := true) (late : Nat := 0) : Host.Outcome State Fault Refusal :=
  s.done (if !s.captureOn u rising || decide ((s.unit u).edges < bits (s.tmrN u 0) 16 8)
      || decide (bits (s.tmrN u 0) 8 8 < late) then s
    else (s.captureNow u late).captureFeed u)

/-- One LF tick at a unit (R538). -/
def State.lfUnit (s : State) (t0 : Nat) (u : Nat) : State :=
  match bits (s.tmrN u 0) 1 3 with
  | 0 => s.feedUnit u 750
  | 2 => s.feedUnit u 1
  | 3 => s.feedUnit u (frameOf (t0 + 750) - frameOf t0)
  | _ => s

/-- STANDBY_LF_TICK: device time advances by 750 and the units follow (R538). -/
def execStandbyLfTick (s : State) : Host.Outcome State Fault Refusal :=
  s.done (if s.pwr.phase != .standby then s
    else (List.range 4).foldl (fun (t : State) u => t.lfUnit s.time u) { s with time := s.time + 750 })

/-! ### Image writes (R540, R544, R547 to R550, R554) -/

/-- A unit's part of an applied write. -/
def State.unitApplied (s : State) (offs : List Nat) (u : Nat) : State :=
  let has (r : Nat) : Bool := offs.contains (tmrReg u r)
  let s := if has 0 then
      { s.setReg bTIMER (tmrReg u 0x30) (setField (s.reg bTIMER (tmrReg u 0x30)) 16 16 0) with
        tmr := modAt s.tmr u fun x => { x with edges := 0 } }
    else s
  let r := s.judgeWrite u (if has 8 || (List.range 4).any fun k => has (0x10 + 8 * k) then List.range 4 else [])
  r.1.toDacs r.2

/-- A cluster's part of an applied write: values held under SYNC (R550), a start at count 0 (R547). -/
def State.clusterApplied (s old : State) (offs : List Nat) (c : Nat) : State :=
  let has (r : Nat) : Bool := offs.contains (tclReg c r)
  let sync := bit (s.tclN c 0) 3
  let hold (s : State) (r : Nat) (f : Nat → TimerCluster → TimerCluster) : State :=
    if has r && sync then
      { s.setReg bTIMER (tclReg c r) (old.reg bTIMER (tclReg c r)) with tcl := modAt s.tcl c (f (s.tclN c r)) }
    else s
  let s := hold s 4 fun x k => { k with heldReload := some x }
  let s := hold s 8 fun x k => { k with heldDuty := some x }
  if bit (s.tclN c 0) 0 && !bit (old.tclN c 0) 0 then
    { s.setReg bTIMER (tclReg c 0xC) 0 with tcl := modAt s.tcl c fun k => { k with down := false } }
  else s

/-- Words of the TIMER image were applied; `old` is the state before them. -/
def State.timerApplied (s old : State) (offs : List Nat) : State :=
  let s := (List.range 3).foldl (fun (s : State) c => s.clusterApplied old offs c) s
  (List.range 4).foldl (fun (s : State) u => s.unitApplied offs u) s

end Sys2Proof.Machine
end

