-- ==== Sys2Proof/Machine/Taking.lean ====
section
/-! DEFINITION. The command ring as the firmware takes it (11 R384 to R388, R397). -/
namespace Sys2Proof.Machine

/-- What a command does once its checks have passed, by opcode (R404, R413); `rd` holds store pages whose reads fail in it. -/
def workOf (rd : List PageFault) (op : Nat) : Cmd → State → State :=
  match op with
  | 0x01 => State.cmdHello
  | 0x02 => State.cmdPing
  | 0x03 => State.cmdSessionOpen
  | 0x04 => State.cmdSessionSet
  | 0x05 => State.cmdSessionClose
  | 0x06 => State.cmdImageWrite
  | 0x07 => State.cmdImageRead
  | 0x10 => State.cmdNoteOn
  | 0x11 => State.cmdRelease
  | 0x12 => State.cmdKill
  | 0x13 => State.cmdParam
  | 0x14 => State.cmdController
  | 0x15 => State.cmdProfile
  | 0x16 => State.cmdEvent
  | 0x17 => State.cmdCancel
  | 0x20 => State.cmdAllocCfg
  | 0x21 => State.cmdHopperStatus
  | 0x22 => State.cmdDeviceStatus
  | 0x30 => State.cmdBankLoad
  | 0x31 => State.cmdBankUnload
  | 0x32 => fun c s => s.deferWork c
  | 0x33 => State.cmdWtLoad
  | 0x34 => State.cmdWtUnload
  | 0x35 => State.cmdBankStatus
  | 0x40 => State.cmdTbUpdate
  | 0x48 => State.cmdGristPrepare
  | 0x49 => State.cmdGristWrite
  | 0x4A => State.cmdGristMeta
  | 0x4B => State.cmdGristCommit
  | 0x4C => State.cmdGristAbort
  | 0x4D => State.cmdGristStatus
  | 0x4E => State.cmdGristRead
  | 0x50 => fun c s => s.deferWork c
  | 0x51 => State.cmdCopperSwap
  | 0x52 => State.cmdCopperParam
  | 0x58 => State.cmdDiagStart rd
  | 0x59 => State.cmdDiagRead
  | 0x5A => State.cmdDiagAbort
  | 0x5C => State.cmdCaptureStart
  | 0x5D => State.cmdCaptureStop
  | 0x60 => State.cmdFaultLogRead
  | 0x61 => State.cmdBlockReset
  | 0x68 => State.cmdLifetimeRead
  | 0x69 => State.cmdLifetimeSet
  | 0x70 => State.cmdFwLoad
  | 0x71 => State.cmdFwVerify
  | 0x72 => State.cmdHandover
  | 0x73 => State.cmdFwSelect
  | _ => fun _ s => s

/-- A command is taken, whatever its opcode. -/
def State.takeCmd (s : State) (rd : List PageFault) (c : Cmd) : State := s.takeWith c (workOf rd c.opcode)

/-- The command that a header and `n` payload words from ring position `i` on spell. -/
def State.ringCmd (s : State) (h : Nat) (i n : Nat) : Cmd :=
  ⟨.ring, bits h 24 8, bits h 16 8, bits h 8 8, (List.range n).map fun k => s.mbx ((i + k) % 4096)⟩

/-- A response RING_ERROR that echoes a header (R386). -/
def State.ringError (s : State) (h : Nat) : State :=
  s.answer ⟨.ring, bits h 24 8, bits h 16 8, bits h 8 8, []⟩ stRingError 0

/-- A ring word cannot be read: MEM_UNCORRECTABLE of memory 14 (R325), and the header or payload is answered RING_ERROR (R386). -/
def State.ringUnread (s : State) (h w : Nat) : State :=
  (s.report (mkMsg 2 0 kMemUncorrectable 1 (14 * 256) w) 3 1).ringError h

/-- The message at CMD_TAIL is taken; `bad` holds the ring words that read as uncorrectable (R386). -/
def State.takeMessage (s : State) (bad : List Nat) (rd : List PageFault) : State :=
  let t := s.host.cmdTail
  let room := (s.fw.limit + 4096 - t) % 4096
  let h := (s.mbx t).toNat
  let n := bits h 0 8
  if bad.contains t then ({ s with host.cmdTail := s.fw.limit }).ringUnread 0 t
  else if room < n + 1 then ({ s with host.cmdTail := s.fw.limit }).ringError h
  else
    let s1 := { s with host.cmdTail := (t + n + 1) % 4096 }
    match ((List.range n).map fun k => (t + 1 + k) % 4096).find? bad.contains with
    | some w => s1.ringUnread h w
    | none => s1.takeCmd rd (s.ringCmd h (t + 1) n)

/-- Messages are taken in ring order up to the head that was read, as long as the response ring has room (R384, R388). -/
def State.takeMessages (s : State) (bad : List Nat) (rd : List PageFault) : Nat → State
  | 0 => s
  | fuel + 1 =>
    if s.host.cmdTail = s.fw.limit ∨ !s.canTake ∨ !s.responseRoom then s
    else (s.takeMessage bad rd).takeMessages bad rd fuel

/-! ### Line frames (18 R567 to R571) -/

/-- The firmware serves a line. -/
def State.lineServed (s : State) (x : Nat) : Bool :=
  bit (s.regN (bUART0 + x) 0) 0 && (x == 0 || (x == 1 && s.unitOn 15))

/-- A frame whose length and CRC fit (R569). -/
def frameGood (f : List Byte) : Bool :=
  let n := f.length
  decide (7 ≤ n) && n == 1 + 4 * (u8 f 1 + 1) + 2 && u16 f (n - 2) == crc16 (f.take (n - 2))

/-- The command of a good frame on line x. -/
def frameCmd (x pos : Nat) (f : List Byte) : Cmd :=
  let h := u32 f 1
  ⟨.line x pos (u8 f 0 != 0x0F), bits h 24 8, bits h 16 8, bits h 8 8, bytesWords (bits h 0 8) (f.drop 5)⟩

/-- Opcodes that the service line takes (R571). -/
def serviceOpcode (op : Nat) : Bool :=
  op == 0x02 || (decide (0x10 ≤ op) && (match cmdRule op with | some r => r.safe | none => false))

/-- A frame is taken: a bad one counts and is dropped, one for another position is ignored, a good one is executed. -/
def State.takeFrame (s : State) (x : Nat) (f : List Byte) (bad : Bool) (rd : List PageFault) : State :=
  let b := bUART0 + x
  if bad || !frameGood f then s.countReg b 0x14 16 16 1
  else if u8 f 0 ≠ 0x0F ∧ u8 f 0 ≠ s.ownPosition then s
  else
    let s := s.countReg b 0x14 0 16 1
    let c := frameCmd x s.ownPosition f
    if x = 1 ∧ !serviceOpcode c.opcode then s.answer c stBadOpcode 0
    else
      let old := s.fw.writes.length
      let t := s.takeCmd rd c
      let own := (t.fw.writes.drop old).any fun p => p.block == b && decide (p.off < 8)
      if own then { t with uarts := modAt t.uarts x fun u => { u with newSettings := true } } else t

/-- The oldest frame that line x has flushed. -/
def State.lineFrameTaken (s : State) (x : Nat) (rd : List PageFault) : State :=
  if !s.canTake || !s.lineServed x then s
  else match (s.uart x).ready with
    | [] => s
    | (f, bad) :: rest => { s with uarts := modAt s.uarts x fun u => { u with ready := rest } }.takeFrame x f bad rd

/-- Every frame flushed so far. -/
def State.lineFramesTaken (s : State) (rd : List PageFault) : State :=
  (List.range 2).foldl (fun (s : State) x =>
    (List.range (s.uart x).ready.length).foldl (fun (s : State) _ => s.lineFrameTaken x rd) s) s

/-! ### The doorbell -/

/-- TAKE_DOORBELL (R384): frames flushed before are taken first (R570), then the BULK bits (R390). -/
def State.takeDoorbell (s : State) (bad : List Nat) (rd : List PageFault) : State :=
  if !s.canTake then s
  else
    let s := s.lineFramesTaken rd
    let s := { s with host.bellBulk := [false, false] }
    if s.host.bellCmd then
      let s := ({ s with host.bellCmd := false }).irq 2
      ({ s with fw.limit := s.host.cmdHead }).takeMessages bad rd 4096
    else s

def execTakeDoorbell (bad : List Nat) (s : State) (rd : List PageFault := []) : Host.Outcome State Fault Refusal :=
  s.ends (s.takeDoorbell bad rd)

/-- TAKING_RESUME (R388). -/
def execTakingResume (s : State) (bad : List Nat := []) (rd : List PageFault := []) : Host.Outcome State Fault Refusal :=
  s.ends (s.takeMessages bad rd 4096)

/-- OVERFLOW (R397). -/
def execOverflow (s : State) : Host.Outcome State Fault Refusal :=
  s.done (if s.fwTakes then s.checkEvtTail.postOverflow else s)

end Sys2Proof.Machine
end

