-- ==== Sys2Proof/Machine/Uart.lean ====
section
/-! DEFINITION. The management and service lines: reception, DMA, transmission, image writes, block reset (18 R556 to R573). -/
namespace Sys2Proof.Machine

def State.onUart (s : State) (x : Nat) (f : Uart → Uart) : State := { s with uarts := modAt s.uarts x f }

/-- A line is under block reset (R566). -/
def State.uartReset (s : State) (x : Nat) : Bool := s.kiln.windows.any fun w => w.target == 6 + x && w.inReset

/-- A line that exists, in a part that is clocked and not in standby, outside a block reset (R566). -/
def State.lineUp (s : State) (x : Nat) : Bool :=
  s.clocked && s.pwr.phase != .standby && decide (x < 2) && !s.uartReset x

def State.lineOn (s : State) (x : Nat) : Bool := s.lineUp x && bit (s.regN (bUART0 + x) 0) 0

/-- Settings as written. -/
def State.lineSettings (s : State) (x : Nat) : List Word := [s.reg (bUART0 + x) 0, s.reg (bUART0 + x) 4]

/-- The receiver hears the line: not while DE is high, unless ECHO is set (R564). -/
def State.lineHears (s : State) (x : Nat) : Bool :=
  s.lineOn x && (!(s.uart x).de || bit (s.regN (bUART0 + x) 0) 5)

/-! ### Reception (R559 to R563) -/

/-- A start bit brings the receiver's new settings into force (R565). -/
def State.rxSettings (s : State) (x : Nat) : State :=
  if (s.uart x).newSettings then s
  else s.onUart x fun u => { u with active := s.lineSettings x ++ u.active.drop 2 }

/-- Flags and count of a character (R559, R561). -/
def State.charFlags (s : State) (x : Nat) (ch : RxChar) : State :=
  let b := bUART0 + x
  let ctrl := (nthW (s.uart x).active 0).toNat
  let parityBad := decide (bits ctrl 2 2 ≠ 0) && !ch.parityOk
  let w := s.reg b 0x10
  let w := if ch.stopOk then w else setBit w 9
  let w := if parityBad then setBit w 10 else w
  let w := if ch.noise && !bit ctrl 1 then setBit w 11 else w
  let s := s.setReg b 0x10 w
  if !ch.stopOk || parityBad then s.countReg b 0x18 16 16 1 else s

/-- A character is marked as an error (R561). -/
def State.charBad (s : State) (x : Nat) (ch : RxChar) : Bool :=
  !ch.stopOk || (decide (bits (nthW (s.uart x).active 0).toNat 2 2 ≠ 0) && !ch.parityOk)

/-- DMA takes what the FIFO holds (R563). -/
def State.lineDma (s : State) (x : Nat) : State :=
  let block := max 1 (bits (s.regN (bUART0 + x) 0xC) 16 11)
  s.onUart x fun u => { u with
    fifo := []
    frame := u.frame ++ u.fifo.map fun (e : Byte × Bool) => e.1
    frameBad := u.frameBad || u.fifo.any fun e => e.2
    partialBlock := (u.partialBlock + u.fifo.length) % block }

/-- A character enters the FIFO; in a full one it overwrites the newest (R562). -/
def State.linePush (s : State) (x : Nat) (b : Byte) (bad : Bool) : State :=
  let u := s.uart x
  if u.fifo.length < 32 then s.onUart x fun u => { u with fifo := u.fifo ++ [(b, bad)] }
  else
    let s := s.onUart x fun u => { u with fifo := u.fifo.take 31 ++ [(b, bad)], frameBad := true }
    (s.setReg (bUART0 + x) 0x10 (setBit (s.reg (bUART0 + x) 0x10) 8)).countReg (bUART0 + x) 0x18 0 16 1

/-- UART_CHARACTER (R559): what the FIFO held goes to DMA first, unless DMA was kept away. -/
def State.uartCharacter (s : State) (x : Nat) (ch : RxChar) : State :=
  if !s.lineHears x then s
  else
    let s := s.rxSettings x
    let s := s.charFlags x ch
    if ch.stalled then s.linePush x ch.byte (s.charBad x ch)
    else ((s.lineDma x).linePush x ch.byte (s.charBad x ch)).lineDma x

def execUartCharacter (x : Nat) (ch : RxChar) (s : State) : Host.Outcome State Fault Refusal :=
  s.done (s.uartCharacter x ch)

/-- A partial block is flushed and ends a frame; without one nothing happens (R563). -/
def State.lineFlush (s : State) (x : Nat) : State :=
  let s := s.lineDma x
  if (s.uart x).partialBlock = 0 then s
  else s.onUart x fun u => { u with ready := u.ready ++ [(u.frame, u.frameBad)], frame := [], frameBad := false, partialBlock := 0 }

/-- UART_TIMEOUT (R563). -/
def execUartTimeout (x : Nat) (s : State) : Host.Outcome State Fault Refusal :=
  s.done (if s.lineOn x then s.lineFlush x else s)

/-- UART_FRAME (R570). -/
def execUartFrame (x : Nat) (s : State) (rd : List PageFault := []) : Host.Outcome State Fault Refusal :=
  s.ends (s.lineFrameTaken x rd)

/-! ### Transmission (R564, R565) -/

/-- UART_TRANSMIT: the oldest queued frame goes out. The response to a write of the line's own settings goes out under the old
ones. -/
def State.uartTransmit (s : State) (x : Nat) : State :=
  if !s.lineOn x then s
  else match (s.uart x).outq with
    | [] => s
    | f :: rest =>
      let new := s.lineSettings x
      s.onUart x fun u => { u with
        outq := rest
        lastTx := f
        de := true
        active := if u.newSettings then u.active else u.active.take 2 ++ new
        newSettings := u.newSettings && !rest.isEmpty }

def execUartTransmit (x : Nat) (s : State) : Host.Outcome State Fault Refusal :=
  s.done (s.uartTransmit x)

/-- UART_DE_TAIL (R564). -/
def execUartDeTail (x : Nat) (s : State) : Host.Outcome State Fault Refusal :=
  s.done (if s.lineUp x then s.onUart x fun u => { u with de := false } else s)

/-! ### Image writes and block reset (R566, R573) -/

/-- Words of a UART image were applied: a write of UART_CTRL clears the counts; EN written 0 flushes the partial block. -/
def State.uartApplied (s old : State) (x : Nat) (offs : List Nat) : State :=
  let b := bUART0 + x
  let s := if offs.contains 0 then (s.setReg b 0x14 0).setReg b 0x18 0 else s
  if bit (old.regN b 0) 0 && !bit (s.regN b 0) 0 then s.lineFlush x else s

/-- A UART enters its block reset: DE falls, characters, FIFO and partial block are lost. -/
def State.uartStop (s : State) (x : Nat) : State :=
  s.onUart x fun u => { u with fifo := [], frame := [], frameBad := false, partialBlock := 0, outq := [], de := false, newSettings := false }

end Sys2Proof.Machine
end

