-- ==== Sys2Proof/Machine/KilnSteps.lean ====
section
/-! DEFINITION. Detector messages and what they contain, actions, block resets, ALIVE, heartbeat, watchdog, readback
(chapter 09, 22 R646). -/
namespace Sys2Proof.Machine

/-- Device time moves on to t, where t lies before the next boundary. -/
def State.reach (s : State) (t : Nat) : Option State :=
  if t < 4096 * (s.lastBlock + 1) then some { s with time := max s.time t } else none

/-! ### Containment by the hardware (chapter 08) -/

/-- The logical cluster of a message at level 4, or at level 5 with a VPE's index. -/
def State.clusterOfMsg (s : State) (m : BitVec 64) : Option Nat :=
  if msgLevel m = 4 ∧ msgIndex m < 6 then s.carriedBy (msgIndex m)
  else if msgLevel m = 5 ∧ msgIndex m < 12 then s.carriedBy (msgIndex m / 2)
  else none

/-- A switch half is stuck: open in a region in service, closed in one that is off. Both open take the region's power (R48). -/
def State.switchHalf (s : State) (r h : Nat) : State :=
  let on := (s.mash.regions.getD r (Region.reset false)).inService
  let s := { s with mash.regions := modAt s.mash.regions r fun g =>
    { g with halves := g.halves.set h (if on then .failedOpen else .failedClosed) } }
  match s.mash.regions[r]? with
  | some g =>
    if on ∧ g.halves.all (fun x => x == .failedOpen) ∧ !g.quarantined then s.regionLost r s.lastBlock else s
  | none => s

/-- A message of a unit built as two copies: its INDEX at level 5 names one of them (R320). -/
def copyMsg (m : BitVec 64) : Bool :=
  (msgKind m == kCopyCompare || msgKind m == kCopperCore) && msgLevel m == 5 && decide (12 ≤ msgIndex m ∧ msgIndex m < 32)

/-- The other copy of a unit. -/
def otherCopy (i : Nat) : Nat := if i % 2 = 0 then i + 1 else i - 1

/-- The message as its detector raises it. A fault in the last copy of a unit is LAST_COPY of class C3 (R316, R318); a Copper
mismatch within 16 frames of the one before disables its core, class C1, and so does every mismatch of the direct-lane copies (R313). -/
def State.asRaised (s : State) (m : BitVec 64) : BitVec 64 :=
  let i := msgIndex m
  if !copyMsg m then m
  else if s.mash.disabled.contains (otherCopy i) then mkMsg 5 i kLastCopy 3 (msgKind m) (blockOf s.time)
  else if msgClass m = 0 ∧ ((i < 14 ∧ s.mash.copperBad.any fun f => decide (s.cop.frame ≤ f + 16)) ∨ i / 2 = 14) then
    mkMsg 5 i (msgKind m) 1 1 (bits m.toNat 0 32)
  else m

/-- Containment in a unit of two copies: the copy that the message names is disabled, or a Copper mismatch is remembered (R313). -/
def State.containCopy (s : State) (m : BitVec 64) : State :=
  let s := if msgIndex m < 14 then { s with mash.copperBad := some s.cop.frame } else s
  if msgDetail m % 2 = 1 then s.disable (msgIndex m) else s

/-- Containment of a word that a memory could not correct: a lasting fault of a context memory or of the reads of a wavetable
stops the cluster, or the region where no second copy exists (R22, R298, R325). -/
def State.containMem (s : State) (m : BitVec 64) : State :=
  let id := bits (msgDetail m) 8 6
  if msgClass m = 0 then s
  else if id = 0 then
    match s.clusterOfMsg m with
    | some l => s.lastingFault l s.lastBlock m
    | none => s
  else if id = 2 ∧ s.part.variant.regionCount = 1 ∧ s.regionUp 0 then s.regionLost 0 s.lastBlock
  else s

/-- What the hardware does at once on a detector's message. -/
def State.contain (s : State) (m : BitVec 64) : State :=
  let k := msgKind m
  if k = kClusterMixer ∨ (k = kVpeCheck ∧ msgClass m = 1) then
    match s.clusterOfMsg m with
    | some l => s.lastingFault l s.lastBlock m
    | none => s
  else if k = kMemUncorrectable then s.containMem m
  else if k = kSwitchHalf then
    if msgLevel m = 3 ∧ msgIndex m < s.part.variant.regionCount then s.switchHalf (msgIndex m) (msgDetail m % 2) else s
  else if k = kRegionQuarantine then
    if msgLevel m = 3 ∧ s.regionUp (msgIndex m) then s.stopRegion (msgIndex m) s.lastBlock else s
  else if k = kDieLink then
    if msgLevel m = 2 ∧ msgClass m = 1 then { s with pwr.lanes := s.pwr.lanes.set (msgDetail m % 2) false } else s
  else if k = kCpuCheck then s.cpuRestart
  else if copyMsg m then s.containCopy m
  else s

/-- A detector raises a message (R319), and its unit's containment follows. Detectors inside a block under reset are masked (R340). A C0
message whose detector's queue is full is dropped and counted (R322). -/
def State.kilnMessage (s : State) (msg : BitVec 64) (master access : Nat) (full : Bool) : State :=
  if !s.isReady || s.masked msg then s.report msg master access
  else if full && msgClass msg == 0 then s.countReg bKILN 4 16 16 1
  else
    let m := s.asRaised msg
    (s.report m master access).contain m

/-- KILN_MESSAGE (R319). -/
def execKilnMessage (msg : BitVec 64) (master access : Nat) (s : State) (full : Bool := false) : Host.Outcome State Fault Refusal :=
  s.ends (s.kilnMessage msg master access full)

/-! ### Pending actions (R333, R334) -/

/-- The earliest deadline among pending actions. -/
def State.firstAct (s : State) : Option PendAct :=
  minBy (fun a b => decide (a.deadline < b.deadline)) s.kiln.acts

/-- Actions whose timer has expired by now wait for the boundary; SAFE_STATE is taken at once (R332). -/
def State.expireActs (s : State) : State :=
  let due := s.kiln.acts.filter fun a => decide (a.deadline ≤ s.time)
  ({ s with
    kiln.acts := s.kiln.acts.filter fun (a : PendAct) => !(decide (a.deadline ≤ s.time))
    kiln.ready := s.kiln.ready ++ due }).takeSafeActions

/-- ACTION_DEADLINE (R333). -/
def State.actionDeadline (s : State) : State :=
  match s.firstAct with
  | none => s
  | some a => match s.reach a.deadline with
    | some s => s.expireActs
    | none => s

def execActionDeadline (s : State) : Host.Outcome State Fault Refusal :=
  s.ends (if s.isReady then s.actionDeadline else s)

/-- The block of R338 that a message's level and index name, as targets of R444. -/
def resetTargets (m : BitVec 64) : List Nat :=
  (List.range 11).filter fun t => fromBlock t m &&
    !(msgKind m == kChainPartner) && !(msgLevel m == 0 && msgKind m != kChainBreak && msgKind m != kC0Rate && t == 5)

/-- A PERIPH_CHECK message of a peripheral that R338 does not list: the action refreshes its image (R339). -/
def refreshes (m : BitVec 64) : Bool :=
  msgKind m == kPeriphCheck && msgLevel m == 2 &&
    [bTIMER, bTDMO, bGRIST, bKILN, bMEMCTL, bTIMEBASE, bWORT].any fun b => msgIndex m == 5 + b

/-- A diagnostic job holds a resource of that block (R534). -/
def State.jobHolds (s : State) (target : Nat) : Bool :=
  match s.fw.diag with
  | some d => (target == 8 && !d.senses.isEmpty) || (target == 9 && !d.dacs.isEmpty)
  | none => false

/-- Boundaries that a block's reset lasts at most; a Copper core's ends with the frame before (R338). -/
def resetBlocks (target : Nat) : Nat := if target < 2 ∨ target = 4 ∨ target = 5 then 2 else 1

/-- A block's reset begins at B(n) and its consequential window opens (R338, R341). -/
def State.enterReset (s : State) (n target : Nat) : State :=
  let s := if s.jobHolds target then s.endDiag stBadState else s
  let s := { s with kiln.windows := (s.kiln.windows.filter fun (w : BlockWindow) => w.target != target)
      ++ [⟨target, true, n + resetBlocks target⟩] }
  match target with
  | 4 => { s with chain.rxGood := false }
  | 5 => { s with chain.txWords := [] }
  | 6 => s.uartStop 0
  | 7 => s.uartStop 1
  | 8 => s.spargeStop
  | 9 => s.dacStop
  | 10 => { s with tdm := { s.tdm with locked := false, good := 0 } }
  | _ => s

/-- The block is under reset. -/
def State.inReset (s : State) (target : Nat) : Bool := s.kiln.windows.any fun w => w.target == target && w.inReset

/-- A block leaves reset in block period n, restored from what R338 names; its window closes at the second boundary after. -/
def State.leaveReset (s : State) (n target : Nat) : State :=
  let s := { s with kiln.windows := s.kiln.windows.map fun (w : BlockWindow) =>
    if w.target = target ∧ w.inReset then { w with inReset := false, until_ := n + 2 } else w }
  match target with
  | 0 => { s with store.ports := modAt s.store.ports 0 fun p => { p with failed := false } }
  | 1 => { s with store.ports := modAt s.store.ports 1 fun p => { p with failed := false } }
  | 8 => s.spargeRestart n
  | 9 => s.dacRestart
  | _ => s

/-- BLOCK_RESET_END (R338). -/
def execBlockResetEnd (target : Nat) (s : State) : Host.Outcome State Fault Refusal :=
  s.done (if s.isReady && s.inReset target then s.leaveReset s.lastBlock target else s)

/-- An action has acted: the record and ACTED, then its ACTION message (R334). -/
def State.acted (s : State) (a : PendAct) (n : Nat) : State :=
  (s.markActed a).takeMsg (actionMsg a n) 0 0

/-- The region of a message at levels 3 to 5 inside a region. -/
def regionOfMsg (m : BitVec 64) : Option Nat :=
  match msgLevel m with
  | 3 => if msgIndex m < 2 then some (msgIndex m) else none
  | 4 => if msgIndex m < 6 then some (msgIndex m / 3) else none
  | 5 => if msgIndex m < 12 then some (msgIndex m / 6) else none
  | _ => none

/-- The block is off: a port not in use, the Copper domain without power, a unit that is not agreed or that the part lacks (R334). -/
def State.blockOff (s : State) (target : Nat) : Bool :=
  match target with
  | 0 => !s.portOn 0
  | 1 => !s.portOn 1
  | 2 => !s.cop.on
  | 3 => !s.cop.on
  | 4 => !s.unitOn 3
  | 5 => !s.unitOn 3
  | 8 => !s.unitOn 5
  | 9 => !s.unitOn 4
  | 10 => s.part.variant == .qk1024n
  | _ => false

/-- An action acts at B(n); on a unit that is reset, quarantined or off, or at a level it is not permitted for, it does nothing. -/
def State.act (s : State) (n : Nat) (a : PendAct) : State :=
  match a.action with
  | 1 =>
    let ts := (resetTargets a.msg).filter fun t => !s.inReset t && !s.blockOff t
    if refreshes a.msg then s.acted a n
    else if ts.isEmpty then s
    else (ts.foldl (fun (s : State) t => s.enterReset n t) (s.acted a n))
  | 2 =>
    match s.clusterOfMsg a.msg with
    | some l => if s.mash.lost.contains l || !s.regionUp (l / 2) then s else (s.quarantine l n a.msg).acted a n
    | none => s
  | 3 =>
    match regionOfMsg a.msg with
    | some r => if s.part.variant = .qk2048a ∧ s.regionUp r then (s.quarantineRegion r n).acted a n else s
    | none => s
  | _ => s

/-- Kiln work of B(n): expired actions act, reset requests of the host begin, resets at their limit end, windows close. -/
def State.kilnBoundary (s : State) (n : Nat) : State :=
  let s := s.expireActs
  let due := s.kiln.ready
  let s := due.foldl (fun (s : State) a => s.act n a) { s with kiln.ready := [] }
  let s := (s.kiln.windows.filter fun w => w.inReset && decide (w.until_ ≤ n)).foldl (fun (s : State) w => s.leaveReset n w.target) s
  let s := { s with kiln.windows := s.kiln.windows.filter fun (w : BlockWindow) => w.inReset || decide (n < w.until_) }
  let reqs := s.kiln.resetReq
  let s := reqs.foldl (fun (s : State) t => s.enterReset n t) { s with kiln.resetReq := [] }
  let s := if reqs.isEmpty then s else s.formReplies 0x61 [statusWord stOk 0]
  if n % 8192 = 0 then { s with
    kiln.c0Win := []
    kiln.c0Told := [] }
  else s

/-! ### ALIVE, heartbeat, watchdog (R342, R343) -/

/-- ALIVE_TOGGLE: the half-period edge of ALIVE, taken only while its conditions hold. -/
def State.aliveToggle (s : State) : State :=
  match s.pwr.aliveNext with
  | none => s
  | some t =>
    match s.reach t with
    | none => s
    | some s =>
      let s := { s with pwr.aliveNext := some (t + max 1 (bits s.host.aliveCfg.toNat 8 8) * 24576) }
      if s.host.aliveCfg.getLsbD 0 && s.kiln.hbMissed.isNone && !s.kiln.safe then { s with pwr.alive := !s.pwr.alive } else s

def execAliveToggle (s : State) : Host.Outcome State Fault Refusal :=
  s.done (if s.isReady then s.aliveToggle else s)

/-- FW_HEARTBEAT: HB_MS have passed without a heartbeat. -/
def State.fwHeartbeat (s : State) : State :=
  if s.kiln.hbMissed.isSome then s else
  match s.reach (s.kiln.hbLast + bits (s.regN bKILN 0) 8 8 * 24576) with
  | some s => { s with kiln.hbMissed := some s.time }.report (mkMsg 2 0 kFwHeartbeat 1 0 0) 3 0
  | none => s

def execFwHeartbeat (s : State) : Host.Outcome State Fault Refusal :=
  s.ends (if s.isReady then s.fwHeartbeat else s)

/-- WATCHDOG: WDT_MS after the miss still without a heartbeat, the device resets. -/
def State.watchdog (s : State) : State :=
  let ms := bits (s.regN bKILN 0) 16 16
  match s.kiln.hbMissed with
  | some t =>
    if ms = 0 then s else
    match s.reach (t + ms * 24576) with
    | some s => s.beginReset 5 true false
    | none => s
  | none => s

def execWatchdog (s : State) : Host.Outcome State Fault Refusal :=
  s.done (if s.isReady then s.watchdog else s)

/-- DIE_LINK_SILENCE (R345): the analog die sets the latch itself, as LAST_COPY of the die link, and the part is in the safe state. -/
def State.dieLinkSilence (s : State) : State :=
  if s.pwr.dieWatch then (s.setLatch (mkMsg 2 2 kLastCopy 3 kDieLink (blockOf s.time))).enterSafe else s

def execDieLinkSilence (s : State) : Host.Outcome State Fault Refusal :=
  s.done s.dieLinkSilence

/-! ### Readback (R593, R646) -/

/-- The pad is compared: pins 0 to 3 TDMO_D0 to D3, 4 ALIVE, 5 FAULT_N, 6 CLD_D, 7 CLD_S. -/
def State.padCompared (s : State) (pin : Nat) : Bool :=
  if pin < 4 then s.tdm.running && !s.kiln.safe && bit (s.regN bTDMO 0) (12 + pin)
  else if pin = 4 then true
  else if pin = 5 then s.faultNLow
  else decide (pin < 8) && s.linkOn && !s.linkReset 5

/-- PIN_READBACK: the number of consecutive mismatches that R646 or R593 asks for has been reached. -/
def State.pinReadback (s : State) (pin : Nat) (expected : Bool) : State :=
  if !s.padCompared pin then s
  else if pin < 6 then
    s.report (mkMsg 1 pin kPinReadback (if pin < 4 then 3 else 1) (if pin = 5 then 0 else b2n expected) 0) 0 4
  else s.chainBreak 1

def execPinReadback (pin : Nat) (expected : Bool) (s : State) : Host.Outcome State Fault Refusal :=
  s.ends (if s.isReady then s.pinReadback pin expected else s)

end Sys2Proof.Machine
end

