-- ==== Sys2Proof/Machine/Diag.lean ====
section
/-! DEFINITION. The steps of a diagnostic job: pilots and sources, sums, impedance, verdicts (16 R525 to R535). -/
namespace Sys2Proof.Machine

/-! ### Sources (R528 to R530) -/

/-- I/O address of an active source byte: a TDM input slot. -/
def tdmSource (b : Nat) : Nat := 0x020 + 16 * bits b 6 1 + b % 16

/-- I/O addresses of the two sources of line c, 0xFFF for none. -/
def DiagJob.addresses (d : DiagJob) (c : Nat) : Nat × Nat :=
  if d.kind = 0 then (0x090 + lineRef d.profile c, 0x090 + lineSns d.profile c)
  else
    let v := lineV d.profile c
    let i := lineI d.profile c
    (if bit v 7 then 0xFFF else tdmSource v, if i = 0xFF then 0xFFF else if bit i 7 then 0x090 + i % 8 else tdmSource i)

/-- Line c has the sources that its kind needs on this part. -/
def DiagJob.measurable (d : DiagJob) (v : Variant) (c : Nat) : Bool :=
  if d.kind = 0 then lineDac d.profile c != 0xFF
  else
    let (a, b) := d.addresses c
    b != 0xFFF && (v != .qk1024n || ((a == 0xFFF || decide (0x090 ≤ a)) && decide (0x090 ≤ b)))

/-! ### Impedance (R531) -/

/-- ⌊√x⌋, bit by bit from 2^(k-1) down, over what `r` already holds. -/
def sqrtBits (x : Nat) : Nat → Nat → Nat
  | 0, r => r
  | k + 1, r => if (r + 2 ^ k) * (r + 2 ^ k) ≤ x then sqrtBits x k (r + 2 ^ k) else sqrtBits x k r

def isqrt (x : Nat) : Nat := sqrtBits x 256 0

/-- The largest k below 2^n, over what `k0` already holds, whose angle πk/32768 does not pass that of (re, im), im not negative. -/
def angleBits (re im : Int) : Nat → Nat → Nat
  | 0, k => k
  | n + 1, k =>
    let x := fpPi * ((k + 2 ^ n : Nat) : Int) / 32768
    if 0 ≤ im * fpCos x - re * fpSin x then angleBits re im n (k + 2 ^ n) else angleBits re im n k

/-- The angle of a complex number in 1.15 of π, by the firmware's rounding. -/
def angleOf (re im : Int) : Int :=
  let k : Int := angleBits re im.natAbs 15 0
  let k := k + satI 0 1 (Config.diagRound (re * 2 ^ 80 + im))
  satI (-32768) 32767 (if im < 0 then -k else k)

/-- What a step has measured: first and second source, DC sum of the second. -/
structure Sums where
  re1 : Int
  im1 : Int
  re2 : Int
  im2 : Int
  dc2 : Int
deriving DecidableEq, Repr

/-- |Z| in 16.16 Ω and the angle; none where the divisor is 0, an open angle where Z is 0. -/
def impedance (d : DiagJob) (c : Nat) (m : Sums) : Option (Nat × Option Int) :=
  let p := d.profile
  let o := lineAt c
  let (nr, ni, dr, di, a, b) : Int × Int × Int × Int × Nat × Nat :=
    if d.kind = 0 then (m.re2, m.im2, m.re1 - m.re2, m.im1 - m.im2, u32 p (o + 8), 1)
    else
      let pilot : Int := (d.count : Int) * 31623 * 2 ^ 63 / (512 * 10000000)
      let (vr, vi) := if (d.addresses c).1 = 0xFFF then (pilot, (0 : Int)) else (m.re1, m.im1)
      (vr, vi, m.re2, m.im2, u32 p (o + 0x10) * 65536, u32 p (o + 0x14))
  let den := (dr * dr + di * di).natAbs * (b * b)
  if den = 0 then none
  else
    let num := (nr * nr + ni * ni).natAbs * (a * a)
    let mag := min 0xFFFFFFFF (isqrt (num / den) + (satI 0 1 (Config.diagRound (num / den : Nat))).toNat)
    let re := nr * dr + ni * di
    let im := ni * dr - nr * di
    some (mag, if num = 0 then none else some (angleOf re im))

/-- The DC level of a standby step at a limit of signed 8.8 volts: its sign is that of level minus limit. -/
def dcOver (d : DiagJob) (v : Variant) (c : Nat) (m : Sums) (limit : Int) : Int :=
  let n := if v = .qk1024n then d.count / 4 else d.count
  m.dc2 * 256 * (u32 d.profile (lineAt c + 0x0C) : Int) * 256 - limit * (n : Int) * 2 ^ 79

/-- The verdict of a measured line (R532), from its magnitude. -/
def verdictOf (d : DiagJob) (v : Variant) (c : Nat) (m : Sums) (mag : Nat) : Nat :=
  let o := lineAt c
  let z (k : Nat) : Nat := u32 d.profile (o + 0x18 + 4 * k)
  if d.kind = 0 ∧ 0 ≤ dcOver d v c m (s16 d.profile (o + 0x28)) then 3
  else if d.kind = 0 ∧ dcOver d v c m (s16 d.profile (o + 0x2A)) ≤ 0 then 4
  else if mag ≤ z 0 then 2
  else if z 3 ≤ mag then 1
  else if mag < z 1 ∨ z 2 < mag then 5
  else 0

/-- The result words of a measured line; an angle the manual leaves open is a free value. -/
def State.lineResult (s : State) (d : DiagJob) (c : Nat) (m : Sums) : State × (Nat × Word × Word) :=
  if d.ovl then
    let (v, s) := drawFree s
    (s, (c, w32 ((if 0 < m.dc2 then 3 else 4) + v % 65536 * 65536), 0))
  else
    let (mag, ang) : Nat × Option Int := match impedance d c m with
      | some x => x
      | none => (0xFFFFFFFF, none)
    let (a, s) : Nat × State := match ang with
      | some a => ((a % 65536).toNat, s)
      | none => let (v, s) := drawFree s; (v % 65536, s)
    (s, (c, w32 (verdictOf d s.part.variant c m mag + a * 65536), w32 mag))

/-! ### A job's course -/

/-- A job ends with its results: COMPLETION, LINE_VERDICT, counters (R440, R535). -/
def State.finishDiag (s : State) (d : DiagJob) : State :=
  let res (c : Nat) : Nat × Word × Word := (d.results.find? fun r => r.1 == c).getD (c, 15, 0)
  let words := (List.range 16).flatMap fun c => [(res c).2.1, (res c).2.2]
  let verdict (c : Nat) : Nat := bits (res c).2.1.toNat 0 4
  let bad := packBits ((List.range 16).map fun c => bit d.mask c && verdict c != 0)
  let counted := ((List.range 16).filter fun c => bit d.mask c && decide (1 ≤ verdict c) && decide (verdict c ≤ 5)).length
  let s := { s with
    fw.diag := none
    fw.diagLast := some ⟨d.kind, d.mask, words⟩ }
  let s := (s.life 15 1).life 14 counted
  let s := match s.jobOf 0x58 with
    | some j => s.complete j stOk words
    | none => s
  s.event 0x8A 0 [w32 bad]

/-- The line's result is kept and its settings restored; the job goes on with the lines above it, or ends. -/
def State.endLine (s : State) (d : DiagJob) (r : Nat × Word × Word) : State :=
  let s := s.restoreDiag d
  let d := { d with
    results := d.results ++ [r]
    channel := r.1 + 1
    going := false
    saved := []
    begun := 0 }
  if d.lines.isEmpty then s.finishDiag d else { s with fw.diag := some d }

/-- Registers that a standby step on DAC k sets (R526), with the SNS_CTRL word. -/
def standbyRegs (p : List Byte) (k : Nat) (ctrl : Word) : List (Nat × Nat × Word) :=
  [(bDAC, dacReg k 0, 3), (bDAC, dacReg k 0x10, 0x02000000), (bDAC, dacReg k 0x14, w32 (u16 p 6 + u16 p 8 * 65536)),
   (bDAC, dacReg k 0x18, 0), (bSPARGE, 0, ctrl)]

/-- The step of line c begins at B(n): pilot, sources, and what the Copper program is told (R525, R526, R529). -/
def State.startLine (s : State) (d : DiagJob) (n c : Nat) : State :=
  let ctrl := (d.sensesOf c).foldl setBit (s.reg bSPARGE 0)
  let k := lineDac d.profile c
  let sets := if d.kind = 0 then standbyRegs d.profile k ctrl else []
  let saved := sets.map fun (x : Nat × Nat × Word) => (x.1, x.2.1, s.reg x.1 x.2.1)
  let old := s
  let s := sets.foldl (fun (s : State) x => s.setReg x.1 x.2.1 x.2.2) s
  let s := s.spargeApplied old n []
  let s := if d.kind = 0 then { s with dacs := modAt s.dacs k fun x => { x with sine := false } } else s
  let seq := (d.stepSeq + 1) % 256
  let d := { d with
    channel := c
    stepSeq := seq
    going := true
    begun := 16 * n
    saved := saved
    re1 := 0
    im1 := 0
    re2 := 0
    im2 := 0
    dc2 := 0
    ovl := false }
  let (a, b) := d.addresses c
  let told := [w32 (seq + 0x100 + 0x200 * d.kind), w32 a, w32 b, w32 d.count, 192]
  { s with
    fw.diag := some d
    cop.xch := if s.cop.on then told ++ s.cop.xch.drop 5 else s.cop.xch }

/-- Lines without sources get verdict 15; the first other line of the job, if any. -/
def State.skipLines (s : State) (d : DiagJob) : DiagJob × Option Nat :=
  let v := s.part.variant
  let c := d.lines.find? (d.measurable v)
  let skipped := d.lines.filter fun x => match c with
    | some c => decide (x < c)
    | none => true
  ({ d with results := d.results ++ skipped.map fun x => (x, (15 : Word), (0 : Word)) }, c)

/-- A job between two steps at B(n): TO0 to TO2 take the line's SELECT code 1 ms before its step (R526), then the step begins. -/
def State.diagBoundary (s : State) (n : Nat) : State :=
  match s.fw.diag with
  | none => s
  | some d =>
    if d.going then s else
    match s.skipLines d with
    | (d, none) => s.finishDiag d
    | (d, some c) =>
      let d := { d with channel := c }
      if d.kind = 0 ∧ bit (u8 d.profile 0xE) 0 ∧ d.begun = 0 then
        let code := lineSelect d.profile c
        { s with
          fw.diag := some { d with begun := 16 * n + 96 }
          tcl := (List.range 3).map fun k => { s.tcl.getD k TimerCluster.reset with overridden := some (bit code k) } }
      else if 16 * n < d.begun then { s with fw.diag := some d }
      else s.startLine d n c

/-- A 72-bit accumulator as the program leaves it in three XCH words: guard, high, low. -/
def State.xchAcc (s : State) (g h l : Nat) : Int :=
  signed 8 (nthW s.cop.xch g).toNat * 2 ^ 64 + ((nthW s.cop.xch h).toNat * 2 ^ 32 + (nthW s.cop.xch l).toNat : Nat)

/-- The sums of a step: the Copper program's, or the firmware's own on the QK1024N. -/
def State.sumsOf (s : State) (d : DiagJob) : Sums :=
  if s.part.variant = .qk1024n then ⟨d.re1, d.im1, d.re2, d.im2, if d.kind = 0 then d.dc2 else 0⟩
  else ⟨s.xchAcc 16 17 18, s.xchAcc 19 20 21, s.xchAcc 22 23 24, s.xchAcc 25 26 27, if d.kind = 0 then s.xchAcc 28 29 30 else 0⟩

/-- The Copper program has left the step's sequence number in DONE (R529). -/
def State.diagDone (s : State) (d : DiagJob) : Bool :=
  s.part.variant == .qk1024n || bits (nthW s.cop.xch 31).toNat 0 8 == d.stepSeq

/-- Device time of the end of a step's summing. -/
def State.stepEnd (s : State) (d : DiagJob) : Nat := (d.begun + 192 + d.span s.part.variant) * 256

/-- DIAG_STEP_END (R528): the sums are taken and the line gets its verdict. -/
def State.diagStepEnd (s : State) : State :=
  match s.diagStep with
  | none => s
  | some d =>
    match s.reach (s.stepEnd d) with
    | none => s
    | some t =>
      if !s.diagDone d then s else
      let r := t.lineResult d d.channel (t.sumsOf d)
      r.1.endLine d r.2

def execDiagStepEnd (s : State) : Host.Outcome State Fault Refusal :=
  s.done (if s.isReady then s.diagStepEnd else s)

/-- DIAG_DONE_TIMEOUT (R529): 192 frames later DONE is still unchanged, and the line is not measured. -/
def State.diagDoneTimeout (s : State) : State :=
  match s.diagStep with
  | none => s
  | some d =>
    match s.reach (s.stepEnd d + 192 * 256) with
    | none => s
    | some t => if s.diagDone d then s else t.endLine d (d.channel, 15, 0)

def execDiagDoneTimeout (s : State) : Host.Outcome State Fault Refusal :=
  s.done (if s.isReady then s.diagDoneTimeout else s)

end Sys2Proof.Machine
end

