-- ==== Sys2Proof/Machine/VoiceSteps.lean ====
section
/-! DEFINITION. Voice-blocks, their retries, the twin comparison and the device mixer
(02 R54, 06 R227 to R231, 08 R290 to R313). -/
namespace Sys2Proof.Machine

/-! ### Slots and turns -/

/-- The region's spare catches up with this logical cluster and has no reserve slots (R44). -/
def State.catchingUp (s : State) (l : Nat) : Bool := s.mash.catchups.any fun c => c.cluster == l

/-- Reserve slots that the voice's VPE has used in this period. -/
def State.slotsUsed (s : State) (v : Nat) : Nat := sget (fun _ => 0) s.mash.resSlots (v / 256)

def State.slotLeft (s : State) (v : Nat) : Bool := decide (s.slotsUsed v < 32) && !s.catchingUp (logicalOf v)

def State.useSlot (s : State) (v : Nat) : State :=
  { s with mash.resSlots := sput (fun _ => 0) s.mash.resSlots (v / 256) (s.slotsUsed v + 1) }

/-- The voice that context position v computes for: one whose context is free again first, while blocks of it are left (R214). -/
def State.voiceAt (s : State) (v : Nat) : Option Voice := (sfind s.mash.ending v).orElse fun _ => sfind s.mash.voices v

/-- The voice of a position after a step of its; an ending voice is gone with the block in which its fade ends. -/
def State.setVoice (s : State) (v : Nat) (x : Voice) : State :=
  if (sfind s.mash.ending v).isSome then
    if x.allFades.any fun f => decide (f.start + f.len ≤ 16 * x.next) then { s with mash.ending := serase s.mash.ending v }
    else { s with mash.ending := sinsert s.mash.ending v x }
  else { s with mash.voices := sinsert s.mash.voices v x }

/-- The comparison of a voice's last block found a mismatch and is not settled: its next block waits (R31). -/
def State.heldBack (s : State) (v : Nat) (x : Voice) : Bool :=
  s.mash.twins.any fun r => (r.v == v || x.twin == some r.v) && r.differs && r.block + 1 == x.next

/-- The order in which a VPE takes the blocks that are due: block index, safety-class voices, voice number (R29, R54, R303). -/
def dueKey (v : Nat) (x : Voice) : List Nat := [x.next, b2n (x.prio < 6), v]

/-- The voice waits for its turn on its VPE: due, not failed, not held back. -/
def State.waiting (s : State) (v : Nat) (x : Voice) : Bool :=
  decide (x.next ≤ s.lastBlock) && x.failed.isNone && !s.heldBack v x

/-- Another voice of the VPE comes first. -/
def State.outranked (s : State) (v : Nat) (x : Voice) : Bool :=
  (s.mash.ending ++ s.mash.voices).any fun e =>
    e.1 / 256 == v / 256 && s.waiting e.1 e.2 && decide (dueKey e.1 e.2 < dueKey v x)

/-- The voice whose block is due and whose cluster computes. -/
def State.voiceDue (s : State) (v : Nat) : Option Voice :=
  if !s.isReady || s.kiln.halted || s.clusterDown (logicalOf v) then none else
  (s.voiceAt v).filter fun x => decide (x.next ≤ s.lastBlock)

/-- The voice whose next voice-block its VPE computes now. -/
def State.voiceTurn (s : State) (v : Nat) : Option Voice :=
  (s.voiceDue v).filter fun x => s.waiting v x && !s.outranked v x

/-! ### Results -/

/-- The sends of a computation; a silent fault disturbs the first one. -/
def noisy (noise : Int) (sends : List (List Int)) : List (List Int) :=
  modAt sends 0 fun l => modAt l 0 fun x => sat31 (x + noise)

/-- The sends that a computation ends with. -/
def doneSends (out : VoiceOutcome) (sends : List (List Int)) : List (List Int) :=
  match out with
  | .silent x => noisy x sends
  | _ => sends

/-- One oscillator of a pair counts its starvation; its twin, which reads the same stream, does not count again (R87 to R89). -/
def State.countStarved (s : State) (twin : Option Nat) (is : List Nat) : State :=
  let counted (i : Nat) : Bool := match twin.bind (fun t => sfind s.mash.voices t) with
    | some y => let o := y.ctx.osc.getD i OscState.reset; o.starve.isSome || o.ended
    | none => false
  let k := (is.filter fun i => !counted i).length
  if k = 0 then s else (s.countReg bGRIST 0x34 0 16 k).life 13 k

/-- The checkpoint's read-back of R302: a first error is written again at the next block, a second one retires the position. -/
def State.readBack (s : State) (v : Nat) (again : Bool) : State :=
  let m (cls : Nat) : BitVec 64 := mkMsg 3 (vRegion v) kMemUncorrectable cls (0x100 + vRegion v) (v % 1024 * 192)
  if again then (s.retire v).report (m 1) 1 1 else s.report (m 0) 1 1

/-- A word of the region's wavetable copy that cannot be read: bank and word of R574. -/
def waveMsg (r word cls : Nat) : BitVec 64 :=
  mkMsg 3 r kMemUncorrectable cls (0x200 + 2 * r + word / 131072 % 2) (word % 131072)

/-- The other region's copy can serve a wavetable read of region r (R18); without one there is none (R22). -/
def State.waveServed (s : State) (r : Nat) : Bool := s.regionUp (1 - r) && decide (r < 2)

/-- A voice-block that passed its check is released: context, checkpoint, post, and its sends to the sums or to the comparator
(R37, R86, R297, R307). A block that is not finished by B(n+2) is not released (R28). -/
def State.release (s : State) (v : Nat) (x : Voice) (out : VoiceOutcome) : State :=
  let n := x.next
  let b := voiceBlock (s.viewOf v x.twin x.prio n) x.ctx
  let sends := doneSends out b.sends
  let badCkpt := out == .passBadCheckpoint
  let y : Voice := { x with
    ctx := b.ctx
    ckpt := x.ctx
    ckptAt := some n
    next := n + 1
    failed := none
    peak := b.peak
    ckptBad := badCkpt }
  let s := s.countStarved x.twin b.starved
  let s := s.postVoice v x.twin b.ctx n 32
  let s := if n + 2 ≤ s.lastBlock then s else match x.twin with
    | some t =>
      let done := s.mash.twins.any fun r => r.v == t && r.block == n && r.released
      { s with mash.twins := s.mash.twins ++ [⟨n, v, t, x.session, sends, b.ctx, false, false, done, false⟩] }
    | none => s.addSends n (logicalOf v) x.session x.ctx.recipe sends
  let s := s.setVoice v y
  match out with
  | .passBadCheckpoint => if s.mash.retired.contains v then s else s.readBack v x.ckptBad
  | .waveFail word => s.report (waveMsg (vRegion v) word 1) 1 1
  | _ => s

/-! ### Failures (R293 to R300, R316) -/

/-- VPE_CHECK of a voice-block: cause, lane, and what DETAIL holds (R323). -/
def State.vpeMsg (s : State) (v n cls cause lane detail : Nat) : BitVec 64 :=
  let addr := cause % 4 * 2 ^ 30 + lane % 8 * 2 ^ 27 + v % 2048 * 65536 + n % 65536
  mkMsg 5 (2 * s.physOf (logicalOf v) + vVpe v) kVpeCheck cls detail addr

def State.vpeCheck (s : State) (v n cls cause lane detail : Nat) : State :=
  s.report (s.vpeMsg v n cls cause lane detail) 1 (if cause = 3 then 1 else 0)

/-- The fault is lasting (R298). -/
def State.vpeLasting (s : State) (v n cause lane : Nat) : State :=
  (s.vpeCheck v n 1 cause lane 0).lastingFault (logicalOf v) n (s.vpeMsg v n 1 cause lane 0)

/-- STREAM_RING (R300). -/
def State.streamRing (s : State) (q cls : Nat) : State :=
  s.report (mkMsg 2 0 kStreamRing cls q (blockOf s.time)) 1 1

/-- The frames of a stream's last targets. -/
def Stream.targetFrames (st : Stream) : List Nat := st.targets.foldl (fun acc t => mergeNats t.2 acc) []

/-- A stream's frames are fetched again, as a tier-1 read into the bytes that hold them. -/
def State.refetch (s : State) (st : Stream) (deadline : Nat) : State := s.addRead st 1 deadline st.targetFrames true

/-- A refetch of the stream is not complete (R300 step 2). -/
def State.refetching (s : State) (id : Nat) : Bool := s.store.reads.any fun r => r.refetch && r.stream == id

/-- The stream of ring q that a voice reads. -/
def State.streamOnRing (s : State) (v : Nat) (x : Voice) (q : Nat) : Option Stream :=
  s.store.streams.find? fun st => st.ring == q && st.of v x.twin && x.plays st.id

/-- A stream's ring is retired until reset and it moves to a free ring, filled again (R300 step 4); with none free it starves. -/
def State.moveRing (s : State) (st : Stream) : State :=
  let to' := s.freeRing
  let s := { s with
    store.badRings := s.store.badRings ++ [st.ring]
    store.reads := s.store.reads.filter fun (r : GristRead) => r.stream != st.id
    store.streams := s.store.streams.map fun (x : Stream) =>
      if x.id = st.id then { x with ring := to'.getD x.ring, frames := if to'.isNone then [] else x.frames } else x }
  match to' with
  | none => s
  | some f => s.refetch { st with ring := f } ((s.lastBlock + 2) * 4096)

/-- Failures are numbered in the order in which they are found (R296). -/
def State.nextFailure (s : State) : Nat :=
  (s.mash.ending ++ s.mash.voices).foldl (fun m e => match e.2.failed with
    | some a => max m (a.seq + 1)
    | none => m) 0

/-- A first attempt failed: a retry follows in a reserve slot; without one the fault is lasting (R295, R296, R306). -/
def State.attemptFails (s : State) (v : Nat) (x : Voice) (cause lane sample : Nat) (st : Option Stream) : State :=
  let n := x.next
  if s.catchingUp (logicalOf v) then
    if cause = 3 ∧ st.isNone then (s.vpeCheck v n 1 3 lane 0).voiceLost v n
    else (s.vpeCheck v n 1 cause lane 0).clusterLost (logicalOf v) n
  else if !s.slotLeft v then s.vpeLasting v n cause lane
  else
    let a : Attempt := ⟨cause, lane, sample, st.map fun y => y.id, s.nextFailure, none⟩
    let s := s.setVoice v { x with ckpt := x.ctx, ckptAt := some n, ckptBad := false, failed := some a }
    match st with
    | some st => s.refetch st ((s.lastBlock + 1) * 4096)
    | none => s

/-- VOICE_BLOCK (R54): the voice's next block, computed from its context. -/
def State.voiceBlockStep (s : State) (v : Nat) (out : VoiceOutcome) : State :=
  match s.voiceTurn v with
  | none => s
  | some x =>
    let x := x.ripe
    match out with
    | .fail cause lane sample => s.attemptFails v x (cause % 4) (lane % 8) (sample % 16) none
    | .ringFail q => s.attemptFails v x 3 0 0 (s.streamOnRing v x q)
    | .waveFail _ => if s.waveServed (vRegion v) then s.release v x out else s.attemptFails v x 3 0 0 none
    | .pass => s.release v x out
    | .passBadCheckpoint => s.release v x out
    | .silent _ => s.release v x out

def execVoiceBlock (v : Nat) (out : VoiceOutcome) (s : State) : Host.Outcome State Fault Refusal :=
  s.ends (s.voiceBlockStep v out)

/-- A pair that waits for its recomputation has a twin on this VPE. -/
def State.twinPending (s : State) (vpe : Nat) : Bool := s.mash.twins.any fun r => r.differs && !r.compared && r.v / 256 == vpe

/-- Another use of the VPE's reserve slots comes first: a twin recomputation, a retry whose failure was found earlier, and before
a ring-fault retry every other one (R296). -/
def State.retryWaits (s : State) (v : Nat) (a : Attempt) : Bool :=
  s.twinPending (v / 256) || (s.mash.ending ++ s.mash.voices).any fun e =>
    e.1 / 256 == v / 256 && match e.2.failed with
      | some b => decide ([b2n b.ring.isSome, b.seq] < [b2n a.ring.isSome, a.seq])
      | none => false

/-- The retry may run: its slot's turn has come, its ring's refetch is complete, and a moved ring is a period old (R296, R300). -/
def State.retryReady (s : State) (v : Nat) (a : Attempt) : Bool :=
  !s.retryWaits v a && (match a.ring with
    | some id => !s.refetching id
    | none => true) && match a.moved with
    | some m => decide (m < s.lastBlock)
    | none => true

/-- A retry in its slot (R295, R298, R300). -/
def State.retryRuns (s : State) (v : Nat) (x : Voice) (a : Attempt) (out : VoiceOutcome) : State :=
  let n := x.next
  let ring := a.ring.bind s.streamAt
  let passed (s : State) : State :=
    let s := s.release v x out
    if a.moved.isSome then s else match ring with
    | some st => s.streamRing st.ring 0
    | none => s.vpeCheck v n 0 a.cause a.lane a.sample
  let ringAgain (st : Stream) : State :=
    if a.moved.isSome then s.vpeLasting v n 3 0
    else (((s.setVoice v { x with failed := some { a with moved := some s.lastBlock } }).moveRing st).streamRing st.ring 1)
  if s.noCover (v, x) then s.vpeLasting v n 3 0 else
  match out with
  | .fail cause lane _ => s.vpeLasting v n (cause % 4) (lane % 8)
  | .ringFail _ => match ring with
    | some st => ringAgain st
    | none => s.vpeLasting v n 3 0
  | .waveFail word =>
    if s.waveServed (vRegion v) then passed s
    else ((s.report (waveMsg (vRegion v) word 1) 1 1).vpeCheck v n 1 3 0 0).regionLost (vRegion v) n
  | .pass => passed s
  | .passBadCheckpoint => passed s
  | .silent _ => passed s

/-- VOICE_BLOCK_RETRY (R295): the block again, from its checkpoint, in a reserve slot. -/
def State.voiceRetry (s : State) (v : Nat) (out : VoiceOutcome) : State :=
  match s.voiceDue v with
  | none => s
  | some x =>
    match x.failed with
    | none => s
    | some a =>
      if !s.retryReady v a then s
      else if !s.slotLeft v then s.vpeLasting v x.next a.cause a.lane
      else (s.useSlot v).retryRuns v x a out

def execVoiceBlockRetry (v : Nat) (out : VoiceOutcome) (s : State) : Host.Outcome State Fault Refusal :=
  s.ends (s.voiceRetry v out)

/-! ### Twins (R307, R308) -/

/-- The oldest block in which both results of the pair that v belongs to wait, lower voice number first. -/
def State.twinPair (s : State) (v : Nat) : Option (TwinResult × TwinResult) :=
  let mine := s.mash.twins.filter fun r => r.v == v && s.mash.twins.any fun q => q.v == r.twin && q.block == r.block && !(q.compared && r.compared)
  match minBy (fun (a b : TwinResult) => decide (a.block < b.block)) mine with
  | none => none
  | some r =>
    match s.mash.twins.find? fun q => q.v == r.twin && q.block == r.block with
    | some q => if r.v < q.v then some (r, q) else some (q, r)
    | none => none

/-- A pair's results replaced. -/
def State.setTwins (s : State) (a b : TwinResult) : State :=
  { s with mash.twins := s.mash.twins.map fun (r : TwinResult) =>
    if r.block = a.block ∧ r.v = a.v then a else if r.block = b.block ∧ r.v = b.v then b else r }

/-- The sends of one instance enter the device sum, once for the pair (R30, R307). -/
def State.releaseTwin (s : State) (r : TwinResult) : State :=
  if r.released then s else s.addSends r.block 4 r.session r.ctx.recipe r.sends

/-- The numbers of a context's running state, in the order of its fields. -/
def Ctx.values (c : Ctx) : List Int :=
  let opt (o : Option Nat) : Int := match o with
    | some x => x
    | none => -1
  let flag (b : Bool) : Int := (b2n b : Nat)
  let osc (o : OscState) : List Int :=
    [o.phase, o.out, o.held, o.p0, o.p1, o.p2, o.pos, flag o.back, flag o.looped, flag o.ended, flag o.started, o.tests,
      (o.starve.map fun x => x.1).getD 0, opt (o.starve.map fun x => x.2), flag o.muted, flag o.jumped, opt o.stream]
  let env (e : EnvState) : List Int :=
    [match e.ph with
      | .off => -1
      | .run k => k
      | .sustain => 100
      | .done => 101, e.e, e.l0, e.level, e.aStart]
  [c.pitch, c.velocity, c.seed, c.rnd, opt c.gateOff, c.start, flag c.started, flag c.ovf] ++ c.osc.flatMap osc
    ++ c.flt.flatMap (fun f => [f.ic1, f.ic2, f.s1, f.s2, f.s3, f.s4]) ++ c.env.flatMap env
    ++ c.lfo.flatMap (fun l => [(l.phase : Int), l.held]) ++ c.srcPrev ++ c.sums ++ c.go
    ++ c.params.flatMap (fun p => [(p.off : Int), p.size, p.value, p.sample])
    ++ c.fades.flatMap fun f => [(f.len : Int), f.start, flag f.kill]

/-- The state digest of R307: CRC-32 of the 768-byte context, the recipe copy and the running state behind it. -/
def Ctx.digest (c : Ctx) : Nat := crc32 (c.recipe ++ (List.range 256).map (Config.contextState c.values))

/-- Two results are the same: their sends and their digests; equal contexts have equal digests. -/
def sameResult (a b : TwinResult) : Bool := a.sends == b.sends && (a.ctx == b.ctx || a.ctx.digest == b.ctx.digest)

/-- Both copies of the twin comparator are in use (R310). -/
def State.pairOfComparators (s : State) : Bool := !s.mash.disabled.contains 26 && !s.mash.disabled.contains 27

/-- TWIN_COMPARE (R307, R310): all sends and the digests; copies of the comparator that disagree count as a mismatch. -/
def State.twinCompare (s : State) (v : Nat) (agree : Bool) : State :=
  match s.twinPair v with
  | none => s
  | some (a, b) =>
    let split := !agree && s.pairOfComparators
    if a.differs then s
    else if !split && sameResult a b then
      let r := if s.regionUp (vRegion a.v) then a else b
      (s.releaseTwin r).setTwins { a with released := true, compared := true } { b with released := true, compared := true }
    else s.setTwins { a with differs := true, split := split } { b with differs := true, split := split }

def execTwinCompare (v : Nat) (agree : Bool) (s : State) : Host.Outcome State Fault Refusal :=
  s.ends (if s.isReady && !s.kiln.halted then s.twinCompare v agree else s)

/-- What a recomputation comes to. -/
inductive Recomputed where
  | result (r : TwinResult)
  /-- it fails its check, or its checkpoint cannot be read -/
  | failed
  /-- its VPE has no reserve slot left, which is a lasting fault (R296) -/
  | noSlot

/-- A recomputation of the block of a result from its checkpoint, in a reserve slot. -/
def State.recompute (s : State) (r : TwinResult) (out : VoiceOutcome) : State × Recomputed :=
  match sfind s.mash.voices r.v with
  | none => (s, .failed)
  | some x =>
    if !s.slotLeft r.v then (s, .noSlot)
    else if x.ckptAt ≠ some r.block || s.noCover (r.v, x) then (s.useSlot r.v, .failed) else
    let s := s.useSlot r.v
    let b := voiceBlock (s.viewOf r.v x.twin x.prio r.block) x.ckpt
    let done := (s, Recomputed.result { r with sends := doneSends out b.sends, ctx := b.ctx })
    match out with
    | .fail _ _ _ => (s, .failed)
    | .ringFail _ => (s, .failed)
    | .waveFail _ => if s.waveServed (vRegion r.v) then done else (s, .failed)
    | _ => done

/-- The context that a recomputation leaves is the voice's, while its next block has not begun. -/
def State.adopt (s : State) (r : TwinResult) : State :=
  match sfind s.mash.voices r.v with
  | some x => if x.next = r.block + 1 then s.setVoice r.v { x with ctx := r.ctx } else s
  | none => s

/-- TWIN_COMPARE's message (R323): case of R308 and its class. -/
def twinMsg (a : TwinResult) (case cls : Nat) : BitVec 64 :=
  mkMsg 2 0 kTwinCompare cls ((case - 1) * 4096 + a.v % 2048) a.block

/-- A transient is charged to the twin's VPE (case 1). -/
def State.chargeTransient (s : State) (v : Nat) : State :=
  { s with mash.transients := sput (fun _ => 0) s.mash.transients (v / 256) (sget (fun _ => 0) s.mash.transients (v / 256) + 1) }

/-- The pair is settled: these are the results, in `a`'s and `b`'s place. -/
def State.settlePair (s : State) (a b : TwinResult) : State :=
  ((s.adopt a).adopt b).setTwins { a with differs := false, released := true, compared := true }
    { b with differs := false, released := true, compared := true }

/-- The stable twin's result is released and the other twin's cluster is quarantined (cases 2 and 3). -/
def State.twinUnstable (s : State) (a b good bad : TwinResult) (case : Nat) : State :=
  let s := (s.releaseTwin good).adopt good
  let s := s.setTwins { a with differs := false, released := true, compared := true } { b with differs := false, released := true, compared := true }
  (s.report (twinMsg a case 1) 10 0).lastingFault (logicalOf bad.v) bad.block (twinMsg a case 1)

/-- Case 1: A' is released; each twin whose first result differs from it is charged one transient. -/
def State.twinTransient (s : State) (a b x y : TwinResult) : State :=
  let s := if sameResult a x then s else s.chargeTransient a.v
  let s := if sameResult b x then s else s.chargeTransient b.v
  ((s.releaseTwin x).settlePair x y).report (twinMsg a 1 0) 10 0

/-- The case of R308 that first results and recomputations decide; A is the lower voice number, the region-0 twin. -/
def State.twinVerdict (s : State) (a b : TwinResult) (ra rb : Recomputed) : State :=
  match ra, rb with
  | .result x, .result y =>
    if sameResult x y then s.twinTransient a b x y
    else if sameResult x a && !sameResult y b then s.twinUnstable a b x b 3
    else if sameResult y b && !sameResult x a then s.twinUnstable a b y a 3
    else ((s.releaseTwin x).settlePair x y).report (twinMsg a 4 2) 10 0
  | .result x, _ =>
    if sameResult x a then s.twinUnstable a b x b 2 else ((s.releaseTwin x).settlePair x b).report (twinMsg a 4 2) 10 0
  | _, .result y =>
    if sameResult y b then s.twinUnstable a b y a 2 else (s.settlePair a y).report (twinMsg a 4 2) 10 0
  | _, _ => (s.settlePair a b).report (twinMsg a 4 2) 10 0

/-- A recomputation without a slot is a lasting fault of its twin's cluster (R296). -/
def State.slotless (s : State) (r : TwinResult) (x : Recomputed) : State :=
  match x with
  | .noSlot => s.lastingFault (logicalOf r.v) r.block (twinMsg r 2 1)
  | _ => s

/-- Where the comparator's copies disagree again, the one whose verdict is not the case found is disabled (R310); the last copy's
fault is grave (R316). -/
def State.comparatorVerdict (s : State) (a : TwinResult) (disagree : Option Nat) : State :=
  match disagree with
  | some k => if a.split then (s.disable (26 + k % 2)).report (mkMsg 5 (26 + k % 2) kCopyCompare 1 1 a.block) 10 0 else s
  | none => s

/-- TWIN_RECOMPUTE (R308, R310). -/
def State.twinRecompute (s : State) (v : Nat) (outV outT : VoiceOutcome) (disagree : Option Nat) : State :=
  match s.twinPair v with
  | none => s
  | some (a, b) =>
    if !a.differs then s else
    let (oa, ob) := if a.v = v then (outV, outT) else (outT, outV)
    let ra := s.recompute a oa
    let rb := ra.1.recompute b ob
    (((rb.1.twinVerdict a b ra.2 rb.2).slotless a ra.2).slotless b rb.2).comparatorVerdict a disagree

def execTwinRecompute (v : Nat) (outA outB : VoiceOutcome) (s : State) (disagree : Option Nat := none) : Host.Outcome State Fault Refusal :=
  s.ends (if s.isReady && !s.kiln.halted then s.twinRecompute v outA outB disagree else s)

/-! ### The device mixer (R229 to R232, R313) -/

/-- The exact sum S of a channel sample over every cluster and the released twins. -/
def State.busSum (s : State) (n i : Nat) : Int :=
  (s.mash.sums.filter fun x => x.block == n).foldl (fun acc x => acc + nthI x.vals i) 0

/-- The bus gain of a channel in force for block n. -/
def State.gainAt (s : State) (n ch : Nat) : Nat :=
  match s.mash.gains.find? fun g => g.1 == n with
  | some g => g.2.getD ch 0x40000000
  | none => s.regN bWORT (4 * ch)

/-- gain[j] of block n (R231). -/
def State.gainRamp (s : State) (n ch j : Nat) : Int :=
  let new : Int := s.gainAt n ch
  let old : Int := match s.mash.gains.find? fun g => g.1 + 1 == n with
    | some g => g.2.getD ch 0x40000000
    | none => new
  old + (new - old) * ((j : Int) + 1) / 16

/-- The rounded, not yet saturated output of a channel sample. -/
def State.busRaw (s : State) (n ch j : Nat) : Int :=
  rndShift (s.busSum n (16 * ch + j) * s.gainRamp n ch j) 30

/-- Channels with a bus output. -/
def busChannel (ch : Nat) : Bool := decide (ch < 20) || decide (24 ≤ ch)

/-- The bus output of block n: gain, rounding, saturation; channels 20 to 23 as they stand. -/
def State.busBlock (s : State) (n : Nat) (old : List Int) : List Int :=
  (List.range 32).flatMap fun ch => (List.range 16).map fun j =>
    if busChannel ch then sat31 (s.busRaw n ch j) else nthI old (16 * ch + j)

/-- Samples of a channel that saturate. -/
def State.clipped (s : State) (n ch : Nat) : Nat :=
  ((List.range 16).filter fun j => sat31 (s.busRaw n ch j) != s.busRaw n ch j).length

/-- WORT_CLIP and WORT_CLIPCNT of block n. -/
def State.countClips (s : State) (n : Nat) : State :=
  ((List.range 32).filter busChannel).foldl (fun (s : State) ch =>
    let k := s.clipped n ch
    if k = 0 then s else (s.setReg bWORT 0x80 (setBit (s.reg bWORT 0x80) ch)).countReg bWORT 0x84 0 32 k) s

/-- A capture half goes back to the host with its event (R442). -/
def State.endHalf (s : State) (k : Capture) (overrun : Bool) : State :=
  (s.returnHalf k.half).event 0x89 0 [w32 (k.half + 2 * b2n overrun + 0x100 * k.fill), w32 k.first]

/-- The capture takes block n: block, sample, ascending channel (R442). -/
def State.captureBlock (s : State) (n : Nat) : State :=
  match s.fw.capture with
  | none => s
  | some k =>
    if n < k.start then s
    else if !nthB s.host.own k.half then
      { s with fw.capture := none }.event 0x89 0 [w32 (k.half + 2), w32 n]
    else
      let chs := (List.range 8).filter fun c => bit k.mask c
      let size := 16 * chs.length
      let ws := (List.range 16).flatMap fun j => chs.map fun c =>
        w32i (sat31 (s.busRaw n (24 + c) j))
      let k := { k with first := if k.fill = 0 then n else k.first }
      let s := s.bulkWrite k.half (k.fill * size) ws
      let k := { k with fill := k.fill + 1, left := k.left.map fun x => x - 1 }
      if k.left = some 0 then { s with fw.capture := none }.endHalf k false
      else if 4096 < (k.fill + 1) * size then
        { s with fw.capture := some { k with half := 1 - k.half, fill := 0 } }.endHalf k false
      else { s with fw.capture := some k }

/-- Faults that the mixers find in block n (R313); a unit reduced to one copy is grave (R316). -/
def State.mixFault (s : State) (n : Nat) (f : MixFault) : State :=
  match f with
  | .none => s
  | .region r ch =>
    match s.mash.regions[r]? with
    | none => s
    | some g =>
      if g.mixPermanent || decide (s.part.variant.regionCount ≤ r) then s
      else
        let again := g.mixBad.map (· + 1) == some n
        let s := { s with mash.regions := modAt s.mash.regions r fun g => { g with mixBad := some n, mixPermanent := again } }
        s.report (mkMsg 3 r kRegionMixer (b2n again) (ch % 32) n) 10 0
  | .copy k =>
    let i := 24 + k % 2
    if s.mash.disabled.contains i then s
    else if s.mash.disabled.contains (24 + (k + 1) % 2) then s.report (mkMsg 5 i kLastCopy 3 kCopyCompare n) 10 0
    else
      let again := match s.mash.mixCopy with
        | some b => decide (n ≤ b + 16)
        | none => false
      let s := { s with mash.mixCopy := some n }
      if again then (s.disable i).report (mkMsg 5 i kCopyCompare 1 1 n) 10 0
      else s.report (mkMsg 5 i kCopyCompare 0 0 n) 10 0

/-- Block n can be formed: every voice-block of it whose cluster computes has been released, and every pair is settled (R230). -/
def State.mixReady (s : State) (n : Nat) : Bool :=
  (s.mash.ending ++ s.mash.voices).all (fun e => s.clusterDown (logicalOf e.1) || decide (n < e.2.next))
    && s.mash.twins.all fun r => r.block != n || r.compared

/-- Wort bus block n is formed, once: gain, rounding, saturation with its counts, and the capture (R229, R442). -/
def State.formBlock (s : State) (n : Nat) : State :=
  if s.mash.wort.any fun w => w.block == n then s else
  let s := (s.countClips n).captureBlock n
  { s with mash.wort := s.mash.wort ++ [WortBlock.mk n (s.busBlock n []) s.pilotChannel] }

/-- DEVICE_MIX (R229): Wort bus block n, in block period n + 1, once its inputs are complete. -/
def State.deviceMix (s : State) (f : MixFault) : State :=
  let n := s.lastBlock - 1
  if !s.isReady || s.kiln.halted || decide (s.lastBlock = 0) || s.mash.wort.any (fun w => w.block == n) || !s.mixReady n then s
  else (s.formBlock n).mixFault n f

def execDeviceMix (f : MixFault) (s : State) : Host.Outcome State Fault Refusal :=
  s.ends (s.deviceMix f)

end Sys2Proof.Machine
end

