-- ==== Sys2Proof/Machine/Boundary.lean ====
section
/-! DEFINITION. The block boundary B(n) (01 R24 to R26): the work of every unit in its order; shedding, region 1, standby entry. -/
namespace Sys2Proof.Machine

/-! ### Voice-blocks of block n - 2 that are not settled (R28, R309) -/

/-- TWIN_UNCOMPARED of voice v in block k (R309, R323). -/
def State.uncompared (s : State) (v k cls : Nat) : State := s.report (mkMsg 2 0 kTwinUncompared cls (v % 2048) k) 10 0

/-- A result of block k whose partner has none is released alone; a pair that still waits is settled. -/
def State.settleResult (s : State) (k : Nat) (r : TwinResult) : State :=
  if s.mash.twins.any fun q => q.v == r.twin && q.block == k then
    if r.compared || decide (r.twin < r.v) then s
    else if r.differs then s.twinRecompute r.v (.fail 0 0 0) (.fail 0 0 0) none
    else
      let s := s.twinCompare r.v true
      if s.mash.twins.any fun q => q.v == r.v && q.block == k && q.differs then s.twinRecompute r.v (.fail 0 0 0) (.fail 0 0 0) none else s
  else if r.released then s
  else (s.releaseTwin r).uncompared r.v k 1

/-- A pair of which neither voice has computed block k ends. -/
def State.endPair (s : State) (k : Nat) (e : Nat × Voice) : State :=
  match e.2.twin with
  | none => s
  | some t =>
    match sfind s.mash.voices t with
    | none => s
    | some y =>
      if e.1 < t ∧ e.2.next ≤ k ∧ y.next ≤ k then (s.dropVoices fun u => u == e.1 || u == t).uncompared e.1 k 2 else s

/-- A replay or a retry that is not finished in time is a second fault (R28): its voice ends. -/
def State.endLate (s : State) (k : Nat) (e : Nat × Voice) : State :=
  if (s.catchingUp (logicalOf e.1) || e.2.failed.isSome) && decide (e.2.next ≤ k) && (s.voiceAt e.1).isSome then s.voiceLost e.1 k else s

/-- What R309 and R28 do at B(n) for block n - 2, whose Wort bus block then stands at the latest (R230). -/
def State.settleBlocks (s : State) (n : Nat) : State :=
  if n < 2 then s else
  let k := n - 2
  let s := (s.mash.twins.filter fun r => r.block == k).foldl (fun (s : State) r => s.settleResult k r) s
  let s := s.mash.voices.foldl (fun (s : State) e => s.endPair k e) s
  let s := (s.mash.ending ++ s.mash.voices).foldl (fun (s : State) e => s.endLate k e) s
  if s.kiln.halted then s else s.formBlock k

/-- What no later block needs is let go (R301). -/
def State.pruneMash (s : State) (n : Nat) : State :=
  { s with
    mash.twins := s.mash.twins.filter fun (r : TwinResult) => decide (n < r.block + 2)
    mash.sums := s.mash.sums.filter fun (x : ClusterSum) => decide (n < x.block + 2)
    mash.wort := s.mash.wort.filter fun (w : WortBlock) => decide (n < w.block + 16)
    mash.snaps := s.mash.snaps.filter fun (p : Snapshot) => decide (n < p.block + 10)
    mash.svtOld := s.mash.svtOld.filter fun e => decide (n < e.1 + 10)
    mash.gains := s.mash.gains.filter fun (g : Nat × List Nat) => decide (n < g.1 + 5)
    mash.resSlots := [] }

/-! ### The agreement's unit effects (11 R402) -/

def State.takeAgreement (s : State) (n : Nat) : State :=
  if !s.fw.unitPending then s else
  let dac := s.unitOn 4
  let s := { s with
    fw.unitPending := false
    fw.unitAgreed := s.fw.agreed }
  let s := if dac && !s.unitOn 4 then s.dacsOnCask s.latched else s
  if s.unitOn 1 && s.part.variant.hasCopper then
    if s.cop.on then s else { s with cop := { Copper.reset true with frame := 16 * n - 1 } }
  else if s.cop.on then { s with cop := Copper.reset false }
  else s

/-! ### Image writes (11 R407) -/

/-- A write enters its register by the register's access codes (R16). -/
def State.applyWrite (s : State) (w : PendingWrite) : State :=
  s.setReg w.block w.off (applyAccess (regInfo s.part.variant w.block w.off) (s.reg w.block w.off) w.value)

/-- A lane is enabled: the clocks may run (R241). -/
def State.anyLane (s : State) : Bool := bits (s.regN bTDMO 0) 12 4 != 0

/-- TDMO_CTRL was written (R240). -/
def State.tdmoApplied (s old : State) (n : Nat) : State :=
  let was := old.regN bTDMO 0
  let now := s.regN bTDMO 0
  if !bit now 0 then { s with tdm := { s.tdm with running := false, restart := none } }
  else if !bit was 0 then { s with tdm := { s.tdm with running := s.anyLane, restart := none, outNext := 16 * n } }
  else if was ≠ now then { s with tdm := { s.tdm with running := false, restart := some (n + 1) } }
  else s

/-- Lanes whose restart is due run again (R240). -/
def State.tdmoRestart (s : State) (n : Nat) : State :=
  match s.tdm.restart with
  | some b => if b ≤ n then { s with tdm := { s.tdm with running := s.anyLane, restart := none, outNext := 16 * n } } else s
  | none => s

/-- TDMI_CTRL was written: the slip count clears; EN = 0 ends the lock, and so does another format, under which no frame of the
expected length has come yet (R242 to R245, R251; log 78). -/
def State.tdmiApplied (s old : State) : State :=
  let s := s.setReg bTDMI 4 (setField (s.reg bTDMI 4) 16 16 0)
  if bit (s.regN bTDMI 0) 0 ∧ s.regN bTDMI 0 = old.regN bTDMI 0 then s
  else { s with tdm := { s.tdm with locked := false, good := 0 } }

/-- What a unit does on its applied words. -/
def State.unitWritten (s old : State) (n b : Nat) (ws : List PendingWrite) : State :=
  let offs := ws.map fun (w : PendingWrite) => w.off
  match b with
  | 0x01 => s.timerApplied old offs
  | 0x02 => s.uartApplied old 0 offs
  | 0x03 => s.uartApplied old 1 offs
  | 0x04 => s.spargeApplied old n offs
  | 0x06 => s.tdmoApplied old n
  | 0x07 => if offs.contains 0 then s.tdmiApplied old else s
  | 0x09 => s.chainApplied old n
  | 0x0B => s.memctlApplied offs
  | 0x0C => s.timebaseApplied old offs
  | 0x0D => if ws.any fun w => w.off == 0x80 && w.value != 0 then s.setReg bWORT 0x84 0 else s
  | _ => s

/-- The writes of one block that are due at B(n), together and in ring order. -/
def State.blockWritten (s : State) (n : Nat) (ws : List PendingWrite) (b : Nat) : State :=
  let mine := ws.filter fun w => w.block == b
  if mine.isEmpty then s
  else (mine.foldl State.applyWrite s).unitWritten s n b mine

/-- The image writes due at B(n); then the Wort gains of block n stand (R231). -/
def State.applyImages (s : State) (n : Nat) : State :=
  let due := s.fw.writes.filter fun w => decide (w.due ≤ n)
  let s := { s with fw.writes := s.fw.writes.filter fun (w : PendingWrite) => decide (n < w.due) }
  let s := s.tdmoRestart n
  let s := ((List.range 13).map fun k => k + 1).foldl (fun (s : State) b => s.blockWritten n due b) s
  let s := s.memBoundary ((due.filter fun w => w.block == bMEMCTL).map fun (w : PendingWrite) => w.off)
  { s with mash.gains := s.mash.gains ++ [(n, (List.range 32).map fun ch => s.regN bWORT (4 * ch))] }

/-! ### Clusters (R298, R303, R324) -/

/-- Clusters that stopped are quarantined. -/
def State.quarantines (s : State) (n : Nat) : State :=
  s.mash.stopped.foldl (fun (s : State) x => s.quarantine x.1 n x.2.2) s

/-- The spare has finished every block before n, two boundaries or more after its first. -/
def State.caughtUp (s : State) (n : Nat) (c : Catchup) : Bool :=
  decide (c.block + 1 < n) && s.mash.voices.all fun e => logicalOf e.1 != c.cluster || decide (n ≤ e.2.next)

/-- The count of rankings enters the DETAIL of a C1 message. -/
def withRankings (m : BitVec 64) (k : Nat) : BitVec 64 :=
  mkMsg (msgLevel m) (msgIndex m) (msgKind m) (msgClass m) (min k 0x3FFF) (bits m.toNat 0 32)

/-- The Kiln's last entry for a catch-up that ends (R305, R324). -/
def State.endCatchup (s : State) (c : Catchup) : State :=
  match s.kiln.log.reverse.find? fun r => r.msg == c.msg && msgKind r.msg == kVpeCheck with
  | none => s
  | some r =>
    let m := withRankings r.msg c.rankings
    let held := s.kiln.cap.valid && s.kiln.cap.msg == r.msg && s.kiln.cap.time == r.time
    { s with
      kiln.log := s.kiln.log.map fun (q : LogRec) => if q.seq = r.seq then { q with msg := m, flags := q.flags % 16 + 16 } else q
      kiln.cap.msg := if held then m else s.kiln.cap.msg }

def State.catchupsEnd (s : State) (n : Nat) : State :=
  let done := s.mash.catchups.filter (s.caughtUp n)
  let s := done.foldl State.endCatchup s
  { s with mash.catchups := s.mash.catchups.filter fun (c : Catchup) => !(done.contains c) }

/-! ### The safe state reaches the Mash (R347) -/

def State.haltSafe (s : State) : State :=
  if s.kiln.safe && !s.kiln.halted then { s with
    kiln.halted := true
    store.reads := []
    store.serving := [none, none] }
  else s

/-! ### Sessions and content (R223, R283, R431, R433) -/

/-- A session that was closed gives up its tasks; its voices receive a gate-off and are no session's any more. -/
def State.closeSession (s : State) (n k : Nat) : State :=
  if !(s.fw.sessions.getD k Session.closed).closing then s else
  let s := (s.hop.tasks.filter fun e => e.2.session == k).foldl (fun (s : State) e => (s.unprime e.2).freeTask e.1 false) s
  let off (e : Nat × Voice) : Nat × Voice :=
    if e.2.session = k ∧ e.2.left = false then (e.1, { e.2.gateOffAt n (16 * n) with left := true }) else e
  { s with
    mash.voices := s.mash.voices.map off
    mash.queued := s.mash.queued.map off
    fw.sessions := s.fw.sessions.set k Session.closed }

def State.closeSessions (s : State) (n : Nat) : State :=
  let s := (List.range 32).foldl (fun (s : State) k => s.closeSession n k) s
  if s.awaits 0x05 then s.formReplies 0x05 [statusWord stOk 0] else s

/-- Banks, tables, SVT, directory and fade lengths that change at this boundary. -/
def State.contentBoundary (s : State) (n : Nat) : State :=
  let s := s.fw.bankNext.foldl (fun (s : State) x => { s with fw.banks := s.fw.banks.set x.1 x.2 }) s
  let s := match s.fw.svtNext with
    | some (obj, gains) => { s with
        fw.svtObject := some obj
        mash.svtOld := s.mash.svtOld ++ [(n, s.mash.svt)]
        mash.svt := [gains, gains] }
    | none => s
  let s := match s.store.nextAnchor with
    | some a => { s with
        store.anchor := a
        fw.update := 0 }
    | none => s
  let s := s.hop.fadeNext.foldl (fun (s : State) x => { s with hop.fade := s.hop.fade.set x.1 x.2 }) s
  let kept (t : Table) : Bool := match t.gone with
    | some g => decide (n < g)
    | none => true
  { s with
    fw.bankNext := []
    fw.svtNext := none
    store.nextAnchor := none
    hop.fadeNext := []
    fw.tables := s.fw.tables.filter kept }

/-! ### Voices and streams (R83, R84, R127, R209, R213, R214, R220, R316) -/

/-- A fade has ended by B(n). -/
def Voice.faded (n : Nat) (x : Voice) : Bool := x.allFades.any fun f => decide (f.start + f.len ≤ 16 * n)

/-- The voice is over at B(n): its envelopes ended it, or a fade has ended, whatever blocks the spare still owes it (R214, R305). -/
def voiceOver (n : Nat) (e : Nat × Voice) : Bool := e.2.ctx.ovf || e.2.faded n

/-- A cluster that nothing carries gives up its voices; its positions are retired (R316). -/
def State.retireCluster (s : State) (l : Nat) : State :=
  let base := l / 2 * 1024 + l % 2 * 512
  let s := s.dropVoices fun v => logicalOf v == l
  let new := ((List.range 512).map (base + ·)).filter fun v => !s.mash.retired.contains v
  { s with
    mash.retired := s.mash.retired ++ new
    mash.reserve := s.mash.reserve.set l [] }

/-- A voice's context becomes free; a note that waited for it moves in, without touching the reserve (R213). One that a KILL
has silenced meanwhile is over as well. Blocks that the spare still owes the old voice stay to be computed (R303); a twin that ends
with it, one of `over`, stays its partner for them. -/
def State.endVoice (s : State) (n : Nat) (gone : List Nat) (v : Nat) : State :=
  let old := sfind s.mash.voices v
  let partner := old.bind fun x => x.twin
  let s := if partner.any gone.contains then s else s.unpair v
  let s := match old with
    | some x => if x.next < n ∧ x.ctx.ovf = false then { s with mash.ending := sinsert s.mash.ending v x } else s
    | none => s
  match sfind s.mash.queued v with
  | some x =>
    let s1 := s.freeVoice v
    if x.faded n then { s1 with mash.queued := serase s1.mash.queued v } else
    { s1 with
      mash.reserve := s.mash.reserve
      mash.voices := sinsert s1.mash.voices v x
      mash.queued := serase s1.mash.queued v }
  | none => s.freeVoice v

def State.voicesBoundary (s : State) (n : Nat) : State :=
  let s := { s with
    mash.voices := s.mash.voices.map fun (e : Nat × Voice) => (e.1, e.2.endReleased)
    mash.queued := s.mash.queued.map fun (e : Nat × Voice) => (e.1, e.2.endReleased) }
  let s := (s.mash.lost.filter fun l => (s.reserveOf (l / 2) (l % 2) != 0) || s.mash.voices.any fun e => logicalOf e.1 == l).foldl
    State.retireCluster s
  let gone := (s.mash.voices.filter (voiceOver n)).map fun (e : Nat × Voice) => e.1
  gone.foldl (fun (s : State) v => s.endVoice n gone v) s

/-- A voice plays the stream. -/
def State.streamPlayed (s : State) (st : Stream) : Bool :=
  st.primed || s.allVoices.any fun e => st.of e.1 e.2.twin && e.2.plays st.id

/-- A stream that no voice plays: its charge is released at once (R276), its ring from the next boundary on. -/
def State.closeStream (s : State) (n : Nat) (st : Stream) : Option Stream :=
  match st.closing with
  | some b => if b ≤ n then none else some st
  | none =>
    if s.streamPlayed st then
      let keep := (st.targets.filter fun t => decide (n ≤ t.1 + 2))
      if keep.isEmpty then some st
      else
        let want := keep.foldl (fun acc t => mergeNats t.2 acc) []
        some { st with frames := st.frames.filter fun f => want.contains f }
    else some { st with closing := some (n + 1), general := [0, 0], share := [0, 0] }

/-- Streams at B(n): those without a voice close with their reads, those of a stream steal issue their open read (R219, R220, R270). -/
def State.streamsBoundary (s : State) (n : Nat) : State :=
  let next := s.store.streams.filterMap (s.closeStream n)
  let live (r : GristRead) : Bool := next.any fun st => st.id == r.stream && st.closing.isNone
  let s := { s with
    store.streams := next
    store.reads := s.store.reads.filter live }
  ((s.store.streams.filter fun st => st.opened == n && !st.primed && st.closing.isNone && st.targets.isEmpty).foldl
    (fun (s : State) st =>
      let s := { s with store.streams := s.store.streams.map fun (x : Stream) =>
        if x.id = st.id then { x with targets := [(n - 1, openWindow st 32)] } else x }
      s.queueRead st st.tier ((n + 1) * 4096) (openWindow st 32)) s).serve

/-! ### Timebases, dispatch, snapshot (R39, R170, R202, R372, R513) -/

/-- The Sparge values of block n: those of sample frame 16 n (R506). -/
def State.fineOf (s : State) (n c : Nat) : Int := if s.spargeReset then (s.sense c).fine else s.fineAt c (16 * n)

/-- The Mash stops for tasks: safe state, or a link that adopts a time (R347, R594). -/
def State.noDispatch (s : State) : Bool := s.kiln.halted || (s.unitOn 3 && s.linkState == 3)

/-- The snapshot of block n is frozen. -/
def State.freeze (s : State) (n : Nat) (tbs : List TbSnap) : State :=
  { s with
    mash.snaps := s.mash.snaps ++ [⟨n, tbs, s.hop.ctl, (List.range 8).map (s.fineOf n), s.hop.pgPrev, s.hop.pg, s.ringRanges⟩]
    host.angleBlock := n
    host.angles := tbs.map fun (t : TbSnap) => if t.state = 0 then 0 else (nthI t.angles 0 % 2 ^ 32).toNat }

/-- Trackers, dispatch pass, profiles and snapshot of B(n). -/
def State.hopperBoundary (s : State) (n : Nat) : State :=
  let (s, tbs) := (s.chainBoundary n).tbBoundary n
  let s := if s.noDispatch then { s with hop.senses := [] } else s.dispatch n tbs
  (s.profiles n).freeze n tbs

/-! ### Copper, capture, handover (R411, R438, R442, R479) -/

/-- The inactive program bank becomes active, its parameters fading from the values X holds (R479, R480). -/
def Copper.swap (c : Copper) (len : Nat) : Copper :=
  let k := 1 - c.active
  let base := nth c.prmBase k
  let news := (c.prmVals.getD k []).map fun (w : Word) => w.toInt
  let olds := (List.range news.length).map fun i => (sget (fun _ => (0 : Word)) c.x (base + i)).toInt
  { c.restart with
    active := k
    hasProg := true
    trapped := true
    first := true
    irqPend := 0
    irqEn := 0
    overruns := 0
    traps := 0
    fade := if news.isEmpty then none else some ⟨len, 0, base, olds, news⟩
    swapLen := none }

def State.copperSwap (s : State) (n : Nat) : State :=
  match s.cop.swapLen with
  | none => s
  | some len => ({ s with cop := s.cop.swap len }).formReplies 0x51 [statusWord stOk 0, w32 n]

/-- A capture that is to stop returns what its half holds. -/
def State.captureStops (s : State) : State :=
  match s.fw.capture with
  | none => s
  | some k =>
    if !k.stop then s
    else
      let s := { s with fw.capture := none }
      let s := if k.fill = 0 then s else s.endHalf k false
      s.formReplies 0x5D [statusWord stOk 0]

/-- The switch of a handover; a slot page that failed twice or a digest that differs makes it fail (R411, R412). -/
def State.handoverSwitch (s : State) (digestOk slotFails : Bool) : State :=
  if s.host.hoStep ≠ 4 then s
  else
    let s := (s.pauseFw).stepTo 5 0
    if slotFails then s.handoverFails 6 else if digestOk then s else s.handoverFails 5

/-! ### Temperature and shedding (23 R672 to R675) -/

def tempLevels : List (Int × Nat) := [(115, 0), (120, 1), (135, 2), (145, 3)]

/-- The reading: that of the hotter die. -/
def State.hottest (s : State) : Int := max s.pwr.tempDig s.pwr.tempAna

def State.ceilingOf (s : State) (r : Nat) : Option Nat := (s.mash.regions.getD r (Region.reset false)).ceiling

/-- Level i of R672 is judged. -/
def State.judgeTemp (s : State) (i : Nat) : State :=
  let (level, cls) := tempLevels.getD i (115, 0)
  let hot := s.hottest
  if hot ≤ level - 5 then { s with pwr.tempTold := s.pwr.tempTold.set i false }
  else if hot < level ∨ nthB s.pwr.tempTold i then s
  else if i = 2 ∧ !(List.range s.part.variant.regionCount).all (fun r => s.ceilingOf r == some 0) then s
  else ({ s with pwr.tempTold := s.pwr.tempTold.set i true }).report
    (mkMsg 2 (if s.pwr.tempDig < s.pwr.tempAna then 1 else 0) kTemperature cls (hot % 4096).toNat 0) 11 0

/-- The temperatures of B(n) and the counters of R445 that follow time. -/
def State.temperature (s : State) (n : Nat) (dig ana : Int) : State :=
  let s := { s with
    pwr.tempDig := dig
    pwr.tempAna := ana }
  let s := if n % 6000 = 0 then s.life 0 1 else s
  let hot := s.hottest
  let s := { s with
    pwr.hotBlocks := if 115 ≤ hot then (s.pwr.hotBlocks + 1) % 6000 else s.pwr.hotBlocks
    pwr.life := modAt s.pwr.life 11 fun x => if signed 32 x < hot then (w32i hot).toNat else x }
  let s := if 115 ≤ hot ∧ s.pwr.hotBlocks = 0 then s.life 10 1 else s
  (List.range 4).foldl State.judgeTemp s

/-- Steals of a region above its ceiling, lowest rank first (R675). -/
def State.shed (s : State) (n r : Nat) : Nat → State
  | 0 => s
  | k + 1 =>
    match s.ceilingOf r with
    | none => s
    | some c =>
      if s.nonSafety r ≤ c then s
      else match s.lowest n 5 (inScope [r] [0, 1]) with
        | none => s
        | some e =>
          (((s.countRankings n (s.candidates n 5 (inScope [r] [0, 1]))).steal n e.1 (16 * nth s.hop.fade r) false).hopCount r fun x => { x with steals := sat32 x.steals }).shed n r k

def State.shedAll (s : State) (n : Nat) : State :=
  (List.range s.part.variant.regionCount).foldl (fun (s : State) r => s.shed n r 1024) s

/-- The next ceiling of a region (R674). -/
def State.nextCeiling (s : State) (r : Nat) : Option Nat :=
  let hot := s.hottest
  match s.ceilingOf r with
  | none => if 120 ≤ hot then some (s.nonSafety r - 64) else none
  | some c =>
    if 120 ≤ hot then some (c - 64)
    else if hot < 115 then (if 1024 ≤ c + 64 then none else some (c + 64))
    else some c

/-! ### The boundary -/

/-- What the units outside the Mash do at B(n). -/
def State.unitsBoundary (s : State) (n : Nat) (b : BoundaryInput) : State :=
  let s := (s.copperSwap n).captureStops
  let s := ({ s with store.reads := s.store.reads.filter fun (r : GristRead) => r.tier == 3 || decide (n * 4096 < r.deadline) }).serve
  let s := (s.scrubBlock n b.scrub).diagBoundary n
  (s.temperature n b.tempDig b.tempAna).handoverSwitch b.digestOk b.slotFails

/-- A paired unit whose copies disagreed at B(n) settles on the re-run's result (R312): both go on, or the copy that was not stable
is disabled, or copy 0's result stands. With one copy left there is nothing to compare. -/
def State.settleCopies (s : State) (n : Nat) (c : CopyEvent) : State :=
  let i := 14 + 2 * c.unit
  if 4 < c.unit ∨ s.mash.disabled.contains i ∨ s.mash.disabled.contains (i + 1) then s else
  match c.rerun with
  | .agree => s.report (mkMsg 5 i kCopyCompare 0 0 n) 9 0
  | .stable k =>
    let bad := i + 1 - k % 2
    (s.disable bad).report (mkMsg 5 bad kCopyCompare 1 1 n) 9 0
  | .neither => s.report (mkMsg 5 i kCopyCompare 2 0 n) 9 0

/-- The firmware wrote its heartbeat in the period that ends at B(n) (R343). -/
def State.heartbeat (s : State) (n : Nat) (beat : Bool) : State :=
  if beat then { s with
    kiln.hbLast := n * 4096
    kiln.hbMissed := none }
  else s

/-- Region 1 is in service from its boundary on (R402). -/
def State.regionOne (s : State) (n : Nat) : State :=
  match s.fw.region1From with
  | some b => if b ≤ n then { s with
      fw.region1From := none
      mash.regions := modAt s.mash.regions 1 fun g => { g with inService := true } } else s
  | none => s

/-- The work of B(n) in its order. -/
def State.boundary (s : State) (n : Nat) (b : BoundaryInput) : State :=
  let s := { s with
    time := max s.time (n * 4096)
    lastBlock := n }
  let s := ((s.heartbeat n b.heartbeat).regionOne n).thrSettle n
  let s := ((s.settleBlocks n).pruneMash n).takeAgreement n
  let s := ((s.applyImages n).kilnBoundary n).quarantines n
  let s := ((s.catchupsEnd n).haltSafe.closeSessions n).contentBoundary n
  let s := ((s.voicesBoundary n).streamsBoundary n).shedAll n
  let s := b.copies.foldl (fun (s : State) c => s.settleCopies n c) s
  (s.hopperBoundary n).unitsBoundary n b

/-- BLOCK_BOUNDARY (R26). -/
def execBlockBoundary (b : BoundaryInput) (s : State) : Host.Outcome State Fault Refusal :=
  s.ends (if s.isReady then s.boundary (s.lastBlock + 1) b else s)

/-- A voice-block of the present period has been computed, so that its boundary's tasks and steals stand (R43). -/
def State.periodBegun (s : State) : Bool :=
  s.mash.voices.any fun e => e.2.ckptAt == some s.lastBlock

/-- SHEDDING_CEILING (R674): every 1,024th boundary, once; what then lies above a ceiling is shed at that boundary, or at the next
where the period's computation has begun (R43). -/
def execSheddingCeiling (s : State) : Host.Outcome State Fault Refusal :=
  s.done <|
    if !s.isReady || s.lastBlock % 1024 != 0 || s.mash.shedAt == s.lastBlock then s
    else
      let new := (List.range 2).map fun r => if r < s.part.variant.regionCount then s.nextCeiling r else none
      let t := { s with
        mash.shedAt := s.lastBlock
        mash.regions := s.mash.regions.zipIdx.map fun (g : Region × Nat) => { g.1 with ceiling := new.getD g.2 none } }
      if s.periodBegun then t else t.shedAll s.lastBlock

/-- REGION_IN_SERVICE (R402): region 1 carries notes, from the boundary that is then next; tasks applied there may use it. -/
def execRegionInService (s : State) : Host.Outcome State Fault Refusal :=
  s.done (if s.isReady then s.regionOne s.nextBlock else s)

/-! ### Standby (R617, R618, R620) -/

/-- The thresholds that wake the part. -/
def State.wakers (s : State) : List WakeComp :=
  ((List.range 16).filter fun i => s.senseOn (i / 2) && bit (s.thrCfg (i / 2) (i % 2)) 0 && bit (s.thrCfg (i / 2) (i % 2)) 3).map
    fun i => WakeComp.mk (i / 2) (i % 2)

/-- The part enters standby at the boundary that begins block n: time and timers are kept, the units go back to reset values. -/
def State.enterStandby (s : State) (n : Nat) : State :=
  let wakers := s.wakers
  let t := s.cleared
  { t with
    time := n * 4096
    lastBlock := n
    regs := s.regs.filter fun (e : Nat × Word) => e.1 / 0x10000 == bTIMER
    tmr := s.tmr
    tcl := s.tcl
    pwr := { s.pwr with
      phase := .standby
      wakeSet := wakers
      standbyReq := false
      dieWatch := false
      alive := false
      aliveNext := none
      refUsed := none
      qualP := none
      qualB := none
      holdover := none
      holdTold := false } }

/-- STANDBY_ENTRY (R618): once no deferred command or update is outstanding. -/
def execStandbyEntry (s : State) : Host.Outcome State Fault Refusal :=
  s.done (if s.isReady && s.pwr.standbyReq && s.fw.jobs.isEmpty && s.fw.update == 0 then s.enterStandby (s.lastBlock + 1) else s)

end Sys2Proof.Machine
end

