-- ==== Sys2Proof/Machine/Dispatch.lean ====
section
/-! DEFINITION. One arm for each command of spec/opcode_table.json: a direct call of its meaning. -/
namespace Sys2Proof.Machine

def exec (i : Instr) (s : State) : Host.Outcome State Fault Refusal :=
  match i with
  | .hostTransfer x => Sys2Proof.Machine.execHostTransfer x s
  | .registerWrite addr value => Sys2Proof.Machine.execRegisterWrite addr value s
  | .doorbellCmd => Sys2Proof.Machine.execDoorbellCmd s
  | .doorbellBulk h => Sys2Proof.Machine.execDoorbellBulk h s
  | .faultAck value => Sys2Proof.Machine.execFaultAck value s
  | .softResetArm => Sys2Proof.Machine.execSoftResetArm s
  | .softReset => Sys2Proof.Machine.execSoftReset s
  | .standbyRequest => Sys2Proof.Machine.execStandbyRequest s
  | .softResetDisarm => Sys2Proof.Machine.execSoftResetDisarm s
  | .takeDoorbell bad rd => Sys2Proof.Machine.execTakeDoorbell bad s rd
  | .takingResume bad rd => Sys2Proof.Machine.execTakingResume s bad rd
  | .overflow => Sys2Proof.Machine.execOverflow s
  | .hello m => Sys2Proof.Machine.execHello m s
  | .ping m => Sys2Proof.Machine.execPing m s
  | .sessionOpen m => Sys2Proof.Machine.execSessionOpen m s
  | .sessionSet m => Sys2Proof.Machine.execSessionSet m s
  | .sessionClose m => Sys2Proof.Machine.execSessionClose m s
  | .imageWrite m => Sys2Proof.Machine.execImageWrite m s
  | .imageRead m => Sys2Proof.Machine.execImageRead m s
  | .globalStart m => Sys2Proof.Machine.execGlobalStart m s
  | .dacPush m => Sys2Proof.Machine.execDacPush m s
  | .noteOn m => Sys2Proof.Machine.execNoteOn m s
  | .release m => Sys2Proof.Machine.execRelease m s
  | .kill m => Sys2Proof.Machine.execKill m s
  | .param m => Sys2Proof.Machine.execParam m s
  | .controller m => Sys2Proof.Machine.execController m s
  | .profile m => Sys2Proof.Machine.execProfile m s
  | .event m => Sys2Proof.Machine.execEvent m s
  | .cancel m => Sys2Proof.Machine.execCancel m s
  | .allocCfg m => Sys2Proof.Machine.execAllocCfg m s
  | .hopperStatus m => Sys2Proof.Machine.execHopperStatus m s
  | .deviceStatus m => Sys2Proof.Machine.execDeviceStatus m s
  | .bankLoad m => Sys2Proof.Machine.execBankLoad m s
  | .bankLoadDone rd => Sys2Proof.Machine.execBankLoadDone rd s
  | .bankUnload m => Sys2Proof.Machine.execBankUnload m s
  | .svtLoad m => Sys2Proof.Machine.execSvtLoad m s
  | .svtLoadDone rd => Sys2Proof.Machine.execSvtLoadDone rd s
  | .wtLoad m => Sys2Proof.Machine.execWtLoad m s
  | .wtLoadDone rd => Sys2Proof.Machine.execWtLoadDone rd s
  | .wtUnload m => Sys2Proof.Machine.execWtUnload m s
  | .bankStatus m => Sys2Proof.Machine.execBankStatus m s
  | .tbUpdate m => Sys2Proof.Machine.execTbUpdate m s
  | .gristPrepare m => Sys2Proof.Machine.execGristPrepare m s
  | .gristPrepareDone => Sys2Proof.Machine.execGristPrepareDone s
  | .gristWrite m => Sys2Proof.Machine.execGristWrite m s
  | .gristWriteDone => Sys2Proof.Machine.execGristWriteDone s
  | .gristMeta m => Sys2Proof.Machine.execGristMeta m s
  | .gristMetaDone => Sys2Proof.Machine.execGristMetaDone s
  | .gristCommit m => Sys2Proof.Machine.execGristCommit m s
  | .gristCommitDone rd => Sys2Proof.Machine.execGristCommitDone rd s
  | .gristAbort m => Sys2Proof.Machine.execGristAbort m s
  | .gristStatus m => Sys2Proof.Machine.execGristStatus m s
  | .gristRead m => Sys2Proof.Machine.execGristRead m s
  | .gristReadDone rd => Sys2Proof.Machine.execGristReadDone rd s
  | .copperLoad m => Sys2Proof.Machine.execCopperLoad m s
  | .copperLoadDone rd => Sys2Proof.Machine.execCopperLoadDone rd s
  | .copperSwap m => Sys2Proof.Machine.execCopperSwap m s
  | .copperParam m => Sys2Proof.Machine.execCopperParam m s
  | .diagStart m rd => Sys2Proof.Machine.execDiagStart m s rd
  | .diagRead m => Sys2Proof.Machine.execDiagRead m s
  | .diagAbort m => Sys2Proof.Machine.execDiagAbort m s
  | .captureStart m => Sys2Proof.Machine.execCaptureStart m s
  | .captureStop m => Sys2Proof.Machine.execCaptureStop m s
  | .faultLogRead m => Sys2Proof.Machine.execFaultLogRead m s
  | .blockReset m => Sys2Proof.Machine.execBlockReset m s
  | .lifetimeRead m => Sys2Proof.Machine.execLifetimeRead m s
  | .lifetimeSet m => Sys2Proof.Machine.execLifetimeSet m s
  | .fwLoad m => Sys2Proof.Machine.execFwLoad m s
  | .fwLoadDone fails => Sys2Proof.Machine.execFwLoadDone s fails
  | .fwVerify m => Sys2Proof.Machine.execFwVerify m s
  | .fwVerifyDone result => Sys2Proof.Machine.execFwVerifyDone result s
  | .handover m => Sys2Proof.Machine.execHandover m s
  | .fwSelect m => Sys2Proof.Machine.execFwSelect m s
  | .firmwareResume => Sys2Proof.Machine.execFirmwareResume s
  | .handoverTimeout => Sys2Proof.Machine.execHandoverTimeout s
  | .fwAnchorWritten => Sys2Proof.Machine.execFwAnchorWritten s
  | .blockBoundary b => Sys2Proof.Machine.execBlockBoundary b s
  | .sheddingCeiling => Sys2Proof.Machine.execSheddingCeiling s
  | .regionInService => Sys2Proof.Machine.execRegionInService s
  | .standbyEntry => Sys2Proof.Machine.execStandbyEntry s
  | .voiceBlock v out => Sys2Proof.Machine.execVoiceBlock v out s
  | .voiceBlockRetry v out => Sys2Proof.Machine.execVoiceBlockRetry v out s
  | .twinCompare v agree => Sys2Proof.Machine.execTwinCompare v agree s
  | .twinRecompute v outA outB disagree => Sys2Proof.Machine.execTwinRecompute v outA outB s disagree
  | .deviceMix f => Sys2Proof.Machine.execDeviceMix f s
  | .copperFrame => Sys2Proof.Machine.execCopperFrame s
  | .copperInterrupt => Sys2Proof.Machine.execCopperInterrupt s
  | .copperTrap => Sys2Proof.Machine.execCopperTrap s
  | .cNop a => Sys2Proof.Machine.execCNop a s
  | .cMpy a => Sys2Proof.Machine.execCMpy a s
  | .cMac a => Sys2Proof.Machine.execCMac a s
  | .cMsu a => Sys2Proof.Machine.execCMsu a s
  | .cCmpy a => Sys2Proof.Machine.execCCmpy a s
  | .cCmac a => Sys2Proof.Machine.execCCmac a s
  | .cCmsu a => Sys2Proof.Machine.execCCmsu a s
  | .cCmacj a => Sys2Proof.Machine.execCCmacj a s
  | .cAdd a => Sys2Proof.Machine.execCAdd a s
  | .cSub a => Sys2Proof.Machine.execCSub a s
  | .cAdds a => Sys2Proof.Machine.execCAdds a s
  | .cSubs a => Sys2Proof.Machine.execCSubs a s
  | .cAnd a => Sys2Proof.Machine.execCAnd a s
  | .cOr a => Sys2Proof.Machine.execCOr a s
  | .cXor a => Sys2Proof.Machine.execCXor a s
  | .cAbs a => Sys2Proof.Machine.execCAbs a s
  | .cSha a => Sys2Proof.Machine.execCSha a s
  | .cShl a => Sys2Proof.Machine.execCShl a s
  | .cAadd a => Sys2Proof.Machine.execCAadd a s
  | .cAsub a => Sys2Proof.Machine.execCAsub a s
  | .cAsh a => Sys2Proof.Machine.execCAsh a s
  | .cRnd a => Sys2Proof.Machine.execCRnd a s
  | .cClr a => Sys2Proof.Machine.execCClr a s
  | .cCmp a => Sys2Proof.Machine.execCCmp a s
  | .cTsta a => Sys2Proof.Machine.execCTsta a s
  | .cMaxi a => Sys2Proof.Machine.execCMaxi a s
  | .cMini a => Sys2Proof.Machine.execCMini a s
  | .cMvc a => Sys2Proof.Machine.execCMvc a s
  | .cLdi reg imm => Sys2Proof.Machine.execCLdi reg imm s
  | .cMv reg src => Sys2Proof.Machine.execCMv reg src s
  | .cLdx reg addr => Sys2Proof.Machine.execCLdx reg addr s
  | .cLdy reg addr => Sys2Proof.Machine.execCLdy reg addr s
  | .cStx reg addr => Sys2Proof.Machine.execCStx reg addr s
  | .cSty reg addr => Sys2Proof.Machine.execCSty reg addr s
  | .cLdio reg addr => Sys2Proof.Machine.execCLdio reg addr s
  | .cStio reg addr => Sys2Proof.Machine.execCStio reg addr s
  | .cPush reg => Sys2Proof.Machine.execCPush reg s
  | .cPop reg => Sys2Proof.Machine.execCPop reg s
  | .cBr cond target => Sys2Proof.Machine.execCBr cond target s
  | .cCall target => Sys2Proof.Machine.execCCall target s
  | .cRet => Sys2Proof.Machine.execCRet s
  | .cReti => Sys2Proof.Machine.execCReti s
  | .cLoop target count => Sys2Proof.Machine.execCLoop target count s
  | .cRep count => Sys2Proof.Machine.execCRep count s
  | .cWfr => Sys2Proof.Machine.execCWfr s
  | .tdmoFrame => Sys2Proof.Machine.execTdmoFrame s
  | .tdmiFrame slots => Sys2Proof.Machine.execTdmiFrame slots s
  | .tdmiSlip => Sys2Proof.Machine.execTdmiSlip s
  | .chainFrameTransmit => Sys2Proof.Machine.execChainFrameTransmit s
  | .chainFrameReceive words inWindow => Sys2Proof.Machine.execChainFrameReceive words inWindow s
  | .alignAdopt => Sys2Proof.Machine.execAlignAdopt s
  | .globalStartRelease => Sys2Proof.Machine.execGlobalStartRelease s
  | .spargeStage1Output c bits overload => Sys2Proof.Machine.execSpargeStage1Output c bits overload s
  | .spargeFineValue c => Sys2Proof.Machine.execSpargeFineValue c s
  | .thresholdChange c k => Sys2Proof.Machine.execThresholdChange c k s
  | .dacUpdate d => Sys2Proof.Machine.execDacUpdate d s
  | .timerStep u => Sys2Proof.Machine.execTimerStep u s
  | .timerCapture u rising late => Sys2Proof.Machine.execTimerCapture u s rising late
  | .standbyLfTick => Sys2Proof.Machine.execStandbyLfTick s
  | .tbEdge pin level cycle both => Sys2Proof.Machine.execTbEdge pin level cycle s both
  | .tbStall n => Sys2Proof.Machine.execTbStall n s
  | .gristReadComplete id out => Sys2Proof.Machine.execGristReadComplete id out s
  | .readDeadline id => Sys2Proof.Machine.execReadDeadline id s
  | .gristPort p => Sys2Proof.Machine.execGristPort p s
  | .kilnMessage msg master access full => Sys2Proof.Machine.execKilnMessage msg master access s full
  | .actionDeadline => Sys2Proof.Machine.execActionDeadline s
  | .blockResetEnd target => Sys2Proof.Machine.execBlockResetEnd target s
  | .aliveToggle => Sys2Proof.Machine.execAliveToggle s
  | .fwHeartbeat => Sys2Proof.Machine.execFwHeartbeat s
  | .watchdog => Sys2Proof.Machine.execWatchdog s
  | .dieLinkSilence => Sys2Proof.Machine.execDieLinkSilence s
  | .pinReadback pin expected => Sys2Proof.Machine.execPinReadback pin expected s
  | .supplyThreshold rail level => Sys2Proof.Machine.execSupplyThreshold rail level s
  | .comparatorDisagreement rail => Sys2Proof.Machine.execComparatorDisagreement rail s
  | .powerOnReset => Sys2Proof.Machine.execPowerOnReset s
  | .resetPin ns => Sys2Proof.Machine.execResetPin ns s
  | .resetRelease => Sys2Proof.Machine.execResetRelease s
  | .referenceQualified primary => Sys2Proof.Machine.execReferenceQualified primary s
  | .pllLock slotA slotB => Sys2Proof.Machine.execPllLock slotA slotB s
  | .ready m0 m1 => Sys2Proof.Machine.execReady m0 m1 s
  | .referenceLoss => Sys2Proof.Machine.execReferenceLoss s
  | .holdoverTimeout => Sys2Proof.Machine.execHoldoverTimeout s
  | .primaryTakeback => Sys2Proof.Machine.execPrimaryTakeback s
  | .pllLoopFail main => Sys2Proof.Machine.execPllLoopFail main s
  | .wakeHost => Sys2Proof.Machine.execWakeHost s
  | .wakeComparator c k => Sys2Proof.Machine.execWakeComparator c k s
  | .bankClearDone b => Sys2Proof.Machine.execBankClearDone b s
  | .memoryScrub mem bank word errors => Sys2Proof.Machine.execMemoryScrub mem bank word errors s
  | .atomicAdd a v bad => Sys2Proof.Machine.execAtomicAdd a v bad s
  | .atomicSwap a v bad => Sys2Proof.Machine.execAtomicSwap a v bad s
  | .uartCharacter x ch => Sys2Proof.Machine.execUartCharacter x ch s
  | .uartTimeout x => Sys2Proof.Machine.execUartTimeout x s
  | .uartFrame x rd => Sys2Proof.Machine.execUartFrame x s rd
  | .uartTransmit x => Sys2Proof.Machine.execUartTransmit x s
  | .uartDeTail x => Sys2Proof.Machine.execUartDeTail x s
  | .diagStepEnd => Sys2Proof.Machine.execDiagStepEnd s
  | .diagDoneTimeout => Sys2Proof.Machine.execDiagDoneTimeout s
  | .supplyRelease rail => Sys2Proof.Machine.execSupplyRelease rail s
  | .backupLost primary => Sys2Proof.Machine.execBackupLost primary s
  | .captureInputEdge u rising => Sys2Proof.Machine.execCaptureInputEdge u s rising
  | .bankPowerUpEnd b => Sys2Proof.Machine.execBankPowerUpEnd b s
  | .tapInstruction t => Sys2Proof.Machine.execTapInstruction t s

end Sys2Proof.Machine
end

