-- ==== Sys2Proof/Machine/Step.lean ====
section
/-! DEFINITION. The step: the command at the front of the queue takes effect; on an empty queue one tick of device time passes. -/
namespace Sys2Proof.Machine

/-- One device-time tick of an idle part: time counts from PLL lock on, in standby by LF ticks only (R610, R618, log 1). -/
def State.tick (s : State) : State :=
  if s.clocked && s.pwr.phase != .standby then { s with time := s.time + 1 } else s

/-- The step of the block. -/
def step (s : State) : Host.Outcome State Fault Refusal :=
  match s.pending with
  | [] => .next s.tick
  | c :: rest => exec c { s with pending := rest }

/-- The command that a table word spells is put at the front of the queue; the table gives no row bits, so no word spells one. -/
def State.withFetchWord (s : State) (nbits w : Nat) : State :=
  match Sys2Proof.decodeTableWord nbits w with
  | some c => { s with pending := c :: s.pending }
  | none => s

end Sys2Proof.Machine
end

