-- ==== Sys2Proof/Machine/Pins.lean ====
section
/-! DEFINITION. What the digital output pins hold in every state of the part (21 R618, R633 to R635, 22 R643, R644, R648). -/
namespace Sys2Proof.Machine

/-- The digital output pins of R643, numbered where the part has several of a kind. -/
inductive Pin where
  | tdmoClock | tdmoFrame
  | tdmoData (lane : Nat)
  | hostData | hostIrq | faultN | alive | resetN
  | uartTx (line : Nat)
  | uartDe (line : Nat)
  | timerOut (cluster : Nat)
  | flashSelect (port : Nat)
  | flashClock (port : Nat)
  | flashData (port : Nat)
  | chainData | chainStrobe | testData
deriving DecidableEq, Repr

/-- What holds a pin: a driven level, the unit that uses it, a weak pull alone, nothing at all, or no pin inside (R649). -/
inductive PinDrive where
  | low | high | unit | pullDown | pullUp | released | absent
deriving DecidableEq, Repr

def levelDrive (b : Bool) : PinDrive := if b then .high else .low

/-- An open-drain pin. -/
def openDrain (low : Bool) : PinDrive := if low then .low else .released

/-- From a reset or power-up until PLL lock the digital drivers are off (R606, R635); a wake is no reset (R622). -/
def State.pinsOff (s : State) : Bool :=
  match s.pwr.phase with
  | .inReset => true
  | .released => !s.pwr.woken
  | _ => false

/-- A pin of port M0 or M1: while RESET_N is held low from outside an external programmer may own the flash devices (R633); between
reads the select is high and the clock low, and data is driven only within a read or write. -/
def State.flashPin (s : State) (port : Nat) (idle off : PinDrive) : PinDrive :=
  if port = 1 ∧ s.part.variant = .qk1024n then .absent
  else if s.pwr.resetHeld then (if idle = .high then .pullUp else .released)
  else if s.pinsOff then off else idle

/-- The pin table of R635, with standby as R618 gives it. -/
def State.pin (s : State) (p : Pin) : PinDrive :=
  let used (off idle : PinDrive) (uses : Bool) : PinDrive := if s.pinsOff then off else if s.isReady && uses then .unit else idle
  match p with
  | .tdmoClock => used .pullDown .low s.tdm.running
  | .tdmoFrame => used .pullDown .low s.tdm.running
  | .tdmoData lane => used .pullDown .low (s.tdm.running && bit (s.regN bTDMO 0) (12 + lane) && !s.kiln.safe)
  | .hostData => .released
  | .hostIrq => openDrain (s.isReady && s.hirqLow)
  | .faultN => openDrain (s.latched || (s.isReady && s.faultNLow))
  | .alive => levelDrive (s.isReady && s.pwr.alive)
  | .resetN => openDrain s.pwr.driveLow
  | .uartTx line => used .pullUp .high (s.lineOn line)
  | .uartDe line => if s.pinsOff then .pullDown else levelDrive (s.uart line).de
  | .timerOut c => if s.pinsOff then .pullDown else levelDrive (s.clusterLevel c)
  | .flashSelect port => s.flashPin port .high .pullUp
  | .flashClock port => s.flashPin port .low .pullDown
  | .flashData port => s.flashPin port .released .released
  | .chainData => used .pullDown .low s.linkOn
  | .chainStrobe => used .pullDown .low s.linkOn
  | .testData => .released

/-- The input buffers of a flash port work: not in reset, and not while its PRESENT reads 0 (R644). -/
def State.portListens (s : State) (port : Nat) : Bool := !s.pinsOff && s.portOn port

end Sys2Proof.Machine
end

