-- ==== Sys2Proof/Safety.lean ====
section
/-! DEFINITION. The terms in which the statements speak of the part: when a row runs, what it leaves alone, what invariants hold. -/
namespace Sys2Proof.Machine

/-! ### The Copper -/

/-- The Copper stands on instruction `i` and carries it out: READY, no mute, a program, no wait, no trap, cycles left (R450, R452, R466). -/
def CopperRuns (s : State) (i : Instr) : Prop :=
  s.isReady = true ∧ s.kiln.halted = false ∧ s.cop.runs = true ∧ s.cop.current = some i

/-- What no instruction of the Copper changes by itself: memories, I/O registers, address registers, counts, the program.
Left out are the data registers, pointers, `sr`, what is in flight and what tells the next instruction. -/
def Copper.rest (c : Copper) : Copper :=
  { c with
    d := [], a := [], aOld := [], ptr := [], sr := 0, flights := []
    lc := 0, ls := 0, le := 0, pc := 0, branch := none, rep := none, afterLoop := false, cycles := 0 }

/-- Pointers after the post-modifies of an effect. -/
def setPtrs (ptr : List (BitVec 16)) (e : Effect) : List (BitVec 16) :=
  e.ptrs.foldl (fun l x => l.set x.1 x.2) ptr

/-- `sr` after an instruction: Z, N, C and V as given, sticky GV, SS and CP set or kept, every other bit as it landed (R458). -/
def SrIs (landed after : BitVec 16) (z n c v gv ss cp : Bool) : Prop :=
  after.getLsbD 0 = z ∧ after.getLsbD 1 = n ∧ after.getLsbD 2 = c ∧ after.getLsbD 3 = v
    ∧ after.getLsbD 4 = (landed.getLsbD 4 || gv) ∧ after.getLsbD 5 = (landed.getLsbD 5 || ss) ∧ after.getLsbD 6 = (landed.getLsbD 6 || cp)
    ∧ ∀ i, 7 ≤ i → after.getLsbD i = landed.getLsbD i

/-- An instruction that leaves everything but data registers, flags, pointers and flights as what was in flight left it. -/
def CopperKeeps (before after : Copper) (moves : Effect) : Prop :=
  after.rest = before.landAll.rest ∧ after.ptr = setPtrs before.landAll.ptr moves ∧ after.flights = moves.flights
    ∧ after.cycles = before.cycles + 1

/-- A format A instruction that writes the d register `dst`: Z and N of the result, C, V and SS as given, its parallel moves
beside it, and no other register (R482, R491). -/
def WritesD (s : State) (i : Instr) (a : FmtA) (r : Word) (cy v ss : Bool) : Prop :=
  ∃ c, exec i s = .next { s with cop := c } ∧ c.d = s.cop.landAll.d.set a.dst.toNat r ∧ c.a = s.cop.landAll.a
    ∧ CopperKeeps s.cop c (s.cop.movesEffect a)
    ∧ SrIs s.cop.landAll.sr c.sr (r == 0) (r.getLsbD 31) cy v false (ss || (s.cop.movesEffect a).flags.ss) (s.cop.movesEffect a).flags.cp

/-- A format A instruction that writes one accumulator with the exact value `x` modulo 2^72, GV where it does not fit; C stays.
Stores, moves and shifts of the next instruction still see the old value (R462). -/
def WritesA (s : State) (i : Instr) (a : FmtA) (x : Int) : Prop :=
  let r : Acc := BitVec.ofInt 72 x
  ∃ c, exec i s = .next { s with cop := c } ∧ c.a = s.cop.landAll.a.set (a.dst.toNat - 8) r ∧ c.d = s.cop.landAll.d
    ∧ c.accOld (a.dst.toNat - 8) = s.cop.acc (a.dst.toNat - 8)
    ∧ CopperKeeps s.cop c (s.cop.movesEffect a)
    ∧ SrIs s.cop.landAll.sr c.sr (r == 0) (r.getLsbD 71) (s.cop.landAll.sr.getLsbD 2) (outside63 r) (r.toInt != x)
        (s.cop.movesEffect a).flags.ss (s.cop.movesEffect a).flags.cp

/-- A format A instruction that writes an accumulator pair with two exact values, each modulo 2^72 (R494). -/
def WritesPair (s : State) (i : Instr) (a : FmtA) (re im : Int) : Prop :=
  let k := a.dst.toNat - 8
  let r : Acc := BitVec.ofInt 72 re
  let j : Acc := BitVec.ofInt 72 im
  ∃ c, exec i s = .next { s with cop := c } ∧ c.a = (s.cop.landAll.a.set k r).set (k + 1) j ∧ c.d = s.cop.landAll.d
    ∧ CopperKeeps s.cop c (s.cop.movesEffect a)
    ∧ SrIs s.cop.landAll.sr c.sr (r == 0 && j == 0) (r.getLsbD 71) (s.cop.landAll.sr.getLsbD 2) (outside63 r || outside63 j)
        (r.toInt != re || j.toInt != im) (s.cop.movesEffect a).flags.ss (s.cop.movesEffect a).flags.cp

/-- An instruction of format M or B: its registers and accumulators as what was in flight left them. -/
def NoArith (s : State) (c : Copper) : Prop := c.d = s.cop.landAll.d ∧ c.a = s.cop.landAll.a

/-- The address after the present one, with the hardware loop (R468). -/
def Copper.nextPc (c : Copper) : BitVec 14 := if c.lc ≠ 0 ∧ c.pc = c.le ∧ c.lc ≠ 1 then c.ls else c.pc + 1

/-- Nothing is repeated and no branch is under way. -/
def PlainFlow (c : Copper) : Prop := c.rep = none ∧ c.branch = none

/-! ### Commands and their answers -/

/-- Everything but the mailbox and what goes with it: ring positions, interrupt bits, event numbers, counts and waiting responses. -/
def State.offRings (s : State) : State :=
  { s with
    host.mailbox := []
    host.rspHead := 0
    host.rspTail := 0
    host.evtHead := 0
    host.evtTail := 0
    host.irqStatus := 0
    fw.replies := []
    fw.evtSeq := 0
    fw.dropped := 0
    fw.seenRspTail := 0
    fw.seenEvtTail := 0
    uarts := s.uarts.map fun (u : Uart) => { u with outq := [] } }

/-- The firmware takes the command and every check of R394 passes. -/
def Takes (s : State) (c : Cmd) : Prop := s.canTake = true ∧ s.responseRoom = true ∧ s.refusal c = none

/-- No earlier response waits and RSP_TAIL is legal (R387, R389): the next response is posted at once. -/
def ClearToAnswer (s : State) : Prop :=
  s.fw.replies = [] ∧ tailLegal s.fw.seenRspTail s.host.rspTail s.host.rspHead = true

/-- The response ring of `t` holds, from the head of `s` on, the response of a message with payload `ws`; the head has passed it
and IRQ_STATUS.RSP is set (R375, R382, R383, R387). -/
def Responds (s t : State) (op : Nat) (m : Msg) (ws : List Word) : Prop :=
  (∀ i, i ≤ ws.length → t.mbx (4096 + (s.host.rspHead + i) % 2048) = (header op m.session m.seq ws.length :: ws).getD i 0)
    ∧ t.host.rspHead = (s.host.rspHead + ws.length + 1) % 2048 ∧ t.host.irqStatus.getLsbD 0 = true

/-- Of the rings, a response of `n` payload words changes no more than its own words, the head and IRQ_STATUS.RSP. -/
def OnlyResponds (s t : State) (n : Nat) : Prop :=
  (∀ j, (∀ i, i ≤ n → j ≠ 4096 + (s.host.rspHead + i) % 2048) → t.mbx j = s.mbx j)
    ∧ t.host.irqStatus = setBit s.host.irqStatus 0 ∧ t.host.rspTail = s.host.rspTail ∧ t.host.evtHead = s.host.evtHead
    ∧ t.host.evtTail = s.host.evtTail ∧ t.fw.evtSeq = s.fw.evtSeq ∧ t.fw.dropped = s.fw.dropped ∧ t.fw.replies = []
    ∧ t.uarts = s.uarts

/-- The row `i`, whose message is `m`, answers `ws` and leaves everything else as in `u`. -/
def Answers (s : State) (i : Instr) (op : Nat) (m : Msg) (ws : List Word) (u : State) : Prop :=
  ∃ t, exec i s = .next t ∧ t.offRings = u.offRings ∧ Responds s t op m ws ∧ OnlyResponds s t ws.length

/-- An event of `n` words of its own is posted at once: READY, none dropped before it, EVT_TAIL legal, room (R389, R396, R397). -/
def ClearToPost (s : State) (n : Nat) : Prop :=
  s.isReady = true ∧ s.fw.dropped = 0 ∧ tailLegal s.fw.seenEvtTail s.host.evtTail s.host.evtHead = true ∧ n + 3 ≤ s.evtFree

/-- The event ring of `t` holds, from the head of `s` on, the event with the device time of `s` and the words `ws`; the head has
passed it, its SEQ is used up and IRQ_STATUS.EVT is set (R375, R382, R396). -/
def Posts (s t : State) (code session : Nat) (ws : List Word) : Prop :=
  (∀ i, i ≤ ws.length + 2 →
      t.mbx (6144 + (s.host.evtHead + i) % 2048) = (header code session s.fw.evtSeq (ws.length + 2) :: (timeWords s.time ++ ws)).getD i 0)
    ∧ t.host.evtHead = (s.host.evtHead + ws.length + 3) % 2048 ∧ t.fw.evtSeq = (s.fw.evtSeq + 1) % 256
    ∧ t.host.irqStatus.getLsbD 1 = true

/-- Of the rings, an event with `n` words of its own changes no more than its own words, the head, its SEQ and IRQ_STATUS. -/
def OnlyPosts (s t : State) (n : Nat) : Prop :=
  (∀ j, (∀ i, i ≤ n + 2 → j ≠ 6144 + (s.host.evtHead + i) % 2048) → t.mbx j = s.mbx j)
    ∧ t.host.rspHead = s.host.rspHead ∧ t.host.rspTail = s.host.rspTail ∧ t.host.evtTail = s.host.evtTail
    ∧ t.fw.replies = s.fw.replies ∧ t.uarts = s.uarts

/-- The row `i` answers `ws` and posts one event; everything but the rings is as in `u`. -/
def AnswersPosting (s : State) (i : Instr) (op : Nat) (m : Msg) (ws : List Word) (code session : Nat) (ev : List Word) (u : State) : Prop :=
  ∃ t, exec i s = .next t ∧ t.offRings = u.offRings ∧ Responds s t op m ws ∧ Posts s t code session ev

/-- Byte `k` of a word, the least significant one first (R13). -/
def ByteOf (w : Word) (k : Nat) : Byte := BitVec.ofNat 8 (w.toNat / 256 ^ k)

/-- Words 2 and following of a COMPLETION (R396). -/
def completionWords (j : Job) (status : Nat) (ws : List Word) : List Word :=
  w32 (j.opcode % 256 + j.seq % 256 * 256 + status % 256 * 65536) :: ws

/-- The row `i` ends the outstanding command `j` with a COMPLETION; everything else is as in `u`, without the job (R396, R413). -/
def Finishes (s : State) (i : Instr) (j : Job) (status : Nat) (ws : List Word) (u : State) : Prop :=
  ∃ t, exec i s = .next t ∧ t.offRings = ({ u with fw.jobs := u.fw.jobs.erase j } : State).offRings
    ∧ Posts s t 0x81 j.session (completionWords j status ws)

/-- A command of the ring is outstanding, and its COMPLETION with `n` result words will be posted at once. -/
def Outstanding (s : State) (op n : Nat) (j : Job) : Prop :=
  s.jobOf op = some j ∧ j.origin = .ring ∧ ClearToPost s (n + 1) ∧ s.kiln.raised = []

/-- The state with a deferred command outstanding (R413). -/
def State.withJob (s : State) (c : Cmd) : State :=
  { s with fw.jobs := s.fw.jobs ++ [Job.mk c.opcode c.session c.seq c.origin c.words 0] }

/-- The job of a deferred command starts with the banks it needs called on and locked (R413, R584). -/
def State.deferred (s : State) (c : Cmd) : State := (s.withJob c).applyLocks

/-- The answer OK without results. -/
def okWord : Word := statusWord stOk 0
/-- The answer ACCEPTED. -/
def acceptedWord : Word := statusWord stAccepted 0

/-- Payload word i of a message as a number, 0 where absent. -/
def payload (m : Msg) (i : Nat) : Nat := (nthW m.words i).toNat

/-- The ring's message `m` of an opcode is taken now, and its response will be posted at once. -/
def TakenNow (s : State) (op : Nat) (m : Msg) : Prop := Takes s (cmdOf op m) ∧ ClearToAnswer s

/-- The row makes a task ready in some entry `n` that was free (R189, R200, R202), on top of the state `u`: the entry's generation
counts, its handle is the result, and the session's quota and the ready order are fixed with it. -/
def MakesTask (s : State) (i : Instr) (op : Nat) (m : Msg) (kind : TaskKind) (prio : Nat) (primed : List Nat) (u : State) : Prop :=
  let c := cmdOf op m
  ∃ n < 4096, sfind s.hop.tasks n = none ∧
    let gen := (s.genOf n + 1) % 16
    let e : Task :=
      { kind := kind, session := m.session, flow := c.flow, note := c.note, prio := prio, stamp := s.fw.stamp, due := c.due
        st := if (s.hop.tasks.any fun x => x.2.flow == c.flow) then .pending else .armed
        examined := none, point := c.due.point s.nextBlock, cross := 0, fired := none, words := m.words, primed := primed
        quota := if m.session = 0 then none else some (s.fw.sessions.getD m.session Session.closed).quota }
    Answers s i op m [okWord, w32 (n + 4096 * gen)]
      { u with
        freeCount := u.freeCount + 1
        hop.tasks := sinsert s.hop.tasks n e
        hop.gen := sput (fun _ => 0) s.hop.gen n gen
        fw.stamp := (s.fw.stamp + 1) % 2 ^ 32 }

/-- The row takes its command and leaves its response to a later boundary; everything but the rings is as in `u` (R387). -/
def AwaitsReply (s : State) (i : Instr) (c : Cmd) (u : State) : Prop :=
  ∃ t, exec i s = .next t ∧ t.offRings = u.offRings ∧ t.host = s.host
    ∧ t.fw.replies = s.fw.replies ++ [Reply.mk c.opcode c.session c.seq c.origin none none]

/-! ### The host port -/

/-- The part takes the words the host writes: the PLL has locked and it is not in standby (R367, R369). -/
def HostHears (s : State) : Prop := s.clocked = true ∧ s.pwr.phase ≠ .standby

/-- A host error: its IRQ_STATUS bit sets; the STATUS bit is the caller's (R376). -/
def State.hostErr (s : State) : State := { s with host.irqStatus := setBit s.host.irqStatus 9 }

/-! ### Messages of detectors (chapter 09) -/

/-- The Kiln takes the message as it is: READY, no other message of the core cycle beside it, a kind and level that exist, its block
neither under reset nor consequential, room in the log (R319, R321, R330, R340, R341). -/
def Heard (s : State) (m : BitVec 64) : Prop :=
  s.isReady = true ∧ s.kiln.raised = [] ∧ kindReserved (msgKind m) = false ∧ msgLevel m ≤ 5 ∧ s.masked m = false ∧ s.consequential m = false
    ∧ s.kiln.log.length < 1024

/-- The state with a message counted under its kind and class, and logged with the given flags (R330, R349, R445). -/
def State.noted (s : State) (m : BitVec 64) (master access flags : Nat) : State :=
  { s with
    regs := (s.countReg bKILN (0x200 + 4 * msgKind m) (if msgClass m = 0 then 0 else 16) 16 1).regs
    pwr.life := s.pwr.life.modify (3 + msgClass m) fun x => min (x + 1) (2 ^ 32 - 1)
    kiln.log := s.kiln.log ++ [⟨m, s.time, master, access, flags, 7, s.kiln.seq, false⟩]
    kiln.seq := (s.kiln.seq + 1) % 2 ^ 32 }

/-- The state whose free capture set takes a message, which is counted and logged (R328). -/
def State.captured (s : State) (m : BitVec 64) (master access : Nat) : State :=
  { s.noted m master access 1 with
    kiln.cap := ⟨true, msgClass m, false, false, 0, (s.kiln.cap.seq + 1) % 256, m, master, access, 0, s.time⟩
    host.irqStatus := setBit s.host.irqStatus 5 }

/-- The capture set is free and no action waits or is configured for the message's kind (R328, R332). -/
def FreeSet (s : State) (m : BitVec 64) : Prop := s.kiln.cap.valid = false ∧ s.kiln.ready = [] ∧ s.kindAction (msgKind m) = 0

/-- What the safe state sets: pending actions are discarded, IRQ_STATUS.SAFE sets, the DACs take their fault codes (R347, R518). -/
def State.safeNow (s : State) : State :=
  { s with
    kiln.safe := true
    kiln.acts := []
    kiln.ready := []
    host.irqStatus := setBit s.host.irqStatus 10
    pwr.life := s.pwr.life.modify 7 fun x => min (x + 1) (2 ^ 32 - 1)
    dacs := (List.range 4).map (DacState.onCask s.pwr.shadow true) }

/-! ### The block boundary (chapter 01) -/

/-- Nothing waits for the next boundary but image writes: no voice, task, stream, job, message or handover is under way, trackers,
chain and scrubbing are off, no threshold changes. -/
structure Still (s : State) : Prop where
  ready     : s.isReady = true
  voices    : s.mash.voices = [] ∧ s.mash.queued = [] ∧ s.mash.ending = [] ∧ s.mash.twins = [] ∧ s.mash.stopped = [] ∧ s.mash.lost = [] ∧ s.mash.catchups = []
  tasks     : s.hop.tasks = [] ∧ s.hop.fadeNext = []
  streams   : s.store.streams = [] ∧ s.store.reads = [] ∧ s.store.nextAnchor = none ∧ bit (s.regN bGRIST 0) 25 = false
  firmware  : s.fw.unitPending = false ∧ s.fw.region1From = none ∧ s.fw.bankNext = [] ∧ s.fw.svtNext = none ∧ s.fw.tbUpdates = [] ∧ s.fw.capture = none ∧ s.fw.diag = none
    ∧ s.fw.replies = [] ∧ s.host.hoStep ≠ 4
  sessions  : ∀ k < 32, (s.fw.sessions.getD k Session.closed).closing = false
  kiln      : s.kiln.raised = [] ∧ s.kiln.acts = [] ∧ s.kiln.ready = [] ∧ s.kiln.resetReq = [] ∧ s.kiln.windows = [] ∧ s.kiln.safe = false
  ceilings  : ∀ r < 2, (s.mash.regions.getD r (Region.reset false)).ceiling = none
  trackers  : s.tbs = List.replicate 4 Tracker.off ∧ ∀ n < 4, (s.tbCfg n).source = 0
  outside   : s.cop.swapLen = none ∧ s.tdm.restart = none ∧ s.unitOn 3 = false ∧ s.linkState = 0
    ∧ ∀ c < 8, ∀ k < 2, s.thrDue c k = false

/-! ### Commands of the message ring, by their rows (12 R415) -/

/-- The rows that take a message of the command ring, each with its opcode. GLOBAL_START and DAC_PUSH are IMAGE_WRITE messages. `rd`
says how the store's page reads go. -/
def messageRows (rd : List PageFault) : List ((Msg → Instr) × Nat) :=
  [(.hello, 0x01), (.ping, 0x02), (.sessionOpen, 0x03), (.sessionSet, 0x04), (.sessionClose, 0x05), (.imageWrite, 0x06), (.imageRead, 0x07),
   (.globalStart, 0x06), (.dacPush, 0x06), (.noteOn, 0x10), (.release, 0x11), (.kill, 0x12), (.param, 0x13), (.controller, 0x14),
   (.profile, 0x15), (.event, 0x16), (.cancel, 0x17), (.allocCfg, 0x20), (.hopperStatus, 0x21), (.deviceStatus, 0x22)]
  ++ [(.bankLoad, 0x30), (.bankUnload, 0x31), (.svtLoad, 0x32), (.wtLoad, 0x33), (.wtUnload, 0x34), (.bankStatus, 0x35), (.tbUpdate, 0x40),
   (.gristPrepare, 0x48), (.gristWrite, 0x49), (.gristMeta, 0x4A), (.gristCommit, 0x4B), (.gristAbort, 0x4C), (.gristStatus, 0x4D),
   (.gristRead, 0x4E)]
  ++ [(.copperLoad, 0x50), (.copperSwap, 0x51), (.copperParam, 0x52), (fun m => .diagStart m rd, 0x58), (.diagRead, 0x59), (.diagAbort, 0x5A),
   (.captureStart, 0x5C), (.captureStop, 0x5D), (.faultLogRead, 0x60), (.blockReset, 0x61), (.lifetimeRead, 0x68), (.lifetimeSet, 0x69),
   (.fwLoad, 0x70), (.fwVerify, 0x71), (.handover, 0x72), (.fwSelect, 0x73)]

/-! ### Memories -/

/-- Every addressed memory is listed in its one canonical form: equal contents are equal lists. -/
def State.canonical (s : State) : Bool :=
  swf (fun _ => (0 : Word)) s.host.mailbox && swf (fun _ => (0 : Word)) s.cop.x && swf (fun _ => (0 : Word)) s.cop.y
    && swf (fun _ => (0 : Word)) s.mem.scratch && swf flashErased s.store.flash && swf (regDefault s.part.variant) s.regs

/-- A command that a word of the Copper's program memory spells. -/
def CopperInstr (i : Instr) : Prop := ∃ w, decodeCopper w = some i

/-! ### Reset (chapter 21) -/

/-- The lifetime counters after a power-on reset. -/
def lifeAtPower : List Nat := [0, 1, 0, 0, 0, 0, 0, 0, 0, 0, 0, 0, 0, 0, 0, 0]

/-- `t` is `s` after a reset of a cause: everything at its reset value but the flash devices, the pins, what the analog die keeps and
what the always-on domain keeps (R622, R626, R345, R445). -/
def Resets (s t : State) (cause : Nat) (lost : Bool) : Prop :=
  t.pwr.phase = .inReset ∧ t.time = 0 ∧ t.host = HostPort.reset ∧ t.fw = Firmware.reset ∧ t.regs = [] ∧ t.hop = Hopper.reset
    ∧ t.mash = Mash.reset ∧ t.kiln = Kiln.reset ∧ t.cop = Copper.reset false ∧ t.tdm = Tdm.reset ∧ t.mem = Memories.reset
    ∧ t.chain = Chain.reset ∧ t.store = Store.reset s.store.flash ∧ t.pwr.shadow = s.part.shadow
    ∧ t.dacs = (List.range 4).map (DacState.onCask s.part.shadow t.latched) ∧ t.pending = s.pending ∧ t.part = s.part
    ∧ (cause = 0 → t.pwr.resetCause = 1 ∧ t.pwr.latch = none ∧ t.pwr.life = lifeAtPower)
    ∧ (cause ≠ 0 → t.pwr.latch = s.pwr.latch ∧ (s.pwr.por = false → t.pwr.resetCause = setBit s.pwr.resetCause cause)
        ∧ t.pwr.life = if lost then lifeAtPower else s.pwr.life.modify 2 fun x => min (x + 1) (2 ^ 32 - 1))

end Sys2Proof.Machine
end

