-- ==== Sys2Proof/Certificates/Slice0/Obligations.lean ====
section
/-! DEFINITION. The statements for the provers. `Says.X` are parts that one statement takes together. -/

open Sys2Proof Sys2Proof.Machine

/-! ### The queue, the step, the whole part -/

/-- A step takes the command at the front of the queue and runs it with the queue's rest; on an empty queue one tick of device time
passes, from PLL lock on and outside standby (the model's choice, log 1), and nothing else changes. -/
def Obligations.StepTakesFront : Prop := ∀ (s : State) (c : Instr) (rest : List Instr),
  step { s with pending := c :: rest } = exec c { s with pending := rest }
  ∧ (s.pending = [] → s.clocked = true → s.pwr.phase ≠ .standby → step s = .next { s with time := s.time + 1 })
  ∧ (s.pending = [] → (s.clocked = false ∨ s.pwr.phase = .standby) → step s = .next s)

/-- Every command has an effect in every state: no fault, no refusal. None changes the queue behind it, nor what the factory fixed:
variant, Cask, unreadable fields (R2, R627). -/
def Obligations.EveryCommandCompletes : Prop := ∀ (i : Instr) (s : State),
  ∃ t, exec i s = .next t ∧ t.pending = s.pending ∧ t.part = s.part

/-- No message of a detector waits for the Kiln once a command has ended: whatever a command raises, the Kiln has taken (R319, R321). -/
def Obligations.NoMessageWaits : Prop := ∀ (i : Instr) (s t : State), s.kiln.raised = [] → exec i s = .next t → t.kiln.raised = []

/-- The part right after power-on reset: RESET_CAUSE has only POR, the lifetime counters one power-on, device time 0, rings, images,
sessions, log, bad pages and memories empty, the Copper's registers at R457's values; it waits for RESET_N (R457, R622, R626). -/
def Obligations.AfterPowerOnReset : Prop :=
  let s := State.reset
  s.canonical = true ∧ s.pwr.phase = .inReset ∧ s.pwr.resetCause = 1 ∧ s.pwr.life = lifeAtPower ∧ s.pwr.latch = none ∧ s.time = 0
  ∧ s.regs = [] ∧ s.host.mailbox = [] ∧ s.fw.agreed = 0 ∧ s.kiln.log = [] ∧ s.store.bad = [] ∧ s.mem.scratch = []
  ∧ (∀ k < 32, s.sessionOpen k = false) ∧ s.cop.sr = 0x0100 ∧ s.cop.pc = 0 ∧ s.cop.d = List.replicate 8 0 ∧ s.pending = []
  ∧ s.kiln.raised = [] ∧ step s = .next s

/-- A message row answers the first failing check of R394's order and changes nothing else; while the firmware takes no commands, or
the response ring has no room, it is not taken (R384, R388, R394, R411). No detector's message waits, as in every state that a step
leaves (NoMessageWaits).
Where such a message cannot arise nothing changes: the model's choice (log 12). -/
def Obligations.ChecksInOrder : Prop :=
  (∀ (s : State) (rd : List PageFault) (m : Msg) (st : Nat), ∀ p ∈ messageRows rd, s.kiln.raised = [] → s.canTake = true → s.responseRoom = true → ClearToAnswer s →
      s.refusal (cmdOf p.2 m) = some st → Answers s (p.1 m) p.2 m [statusWord st 0] s)
  ∧ (∀ (s : State) (rd : List PageFault) (m : Msg), ∀ p ∈ messageRows rd, s.kiln.raised = [] → (s.canTake = false ∨ s.responseRoom = false) → exec (p.1 m) s = .next s)
  ∧ (∀ (s : State) (c : Cmd),
      (cmdRule c.opcode = none → s.refusal c = some 0x10)
      ∧ (∀ r, cmdRule c.opcode = some r →
          let len := r.lenLo ≤ c.words.length ∧ c.words.length ≤ r.lenHi
          let session := s.sessionOpen c.session = true ∧ (r.sess0 = true → c.session = 0)
          let hello := s.fw.helloDone = true ∨ r.safe = true
          let safe := s.kiln.safe = false ∨ r.safe = true
          (¬ len → s.refusal c = some 0x11)
          ∧ (len → ¬ session → s.refusal c = some 0x12)
          ∧ (len → session → ¬ hello → s.refusal c = some 0x13)
          ∧ (len → session → hello → ¬ safe → s.refusal c = some 0x40)
          ∧ (len → session → hello → safe → s.lacksFeature r c = true → s.refusal c = some 0x17)
          ∧ (∀ h, len → session → hello → safe → s.lacksFeature r c = false → c.half = some h → nthB s.host.own h = false →
              s.refusal c = some 0x19)))

/-- The commands that write memory, registers or the Copper's state directly leave every addressed memory in its canonical form. -/
def Obligations.MemoriesStayCanonical : Prop := ∀ (i : Instr) (s t : State), s.canonical = true → exec i s = .next t →
  (CopperInstr i ∨ (∃ a v, i = .registerWrite a v) ∨ (∃ h, i = .doorbellBulk h) ∨ i = .copperFrame ∨ i = .copperInterrupt ∨ i = .copperTrap
    ∨ (∃ a v bad, i = .atomicAdd a v bad) ∨ (∃ a v bad, i = .atomicSwap a v bad) ∨ (∃ b, i = .bankClearDone b)
    ∨ (∃ b, i = .bankPowerUpEnd b) ∨ i = .powerOnReset) →
  t.canonical = true

/-- Decoding the word of a Copper instruction gives it back, for every instruction and every operand its encoding admits (R482 to R486). -/
def Obligations.CopperDecodesItsWords : Prop := ∀ i, copperOk i = true → decodeCopper (encodeCopper i) = some i

/-! ### The host port and the protocol (chapters 10 and 11) -/

/-- A host write of a direct register takes effect by its access codes, disarms SOFT_RESET and changes nothing else (R354, R367, R378). -/
def Says.HostRegisterWrites : Prop := ∀ (s : State) (v : Word), HostHears s →
  let b : State := { s with host.softArmed := none }
  let w (o : Nat) (u : State) : Prop := exec (.registerWrite o v) s = .next u
  w 0x08 { b with
      host.mbxCollide := s.host.mbxCollide && !v.getLsbD 8
      host.crcErr := s.host.crcErr && !v.getLsbD 9
      host.addrErr := s.host.addrErr && !v.getLsbD 10
      host.frameErr := s.host.frameErr && !v.getLsbD 11 }
  ∧ w 0x60 { b with host.irqStatus := s.host.irqStatus &&& ~~~v }
  ∧ w 0x64 { b with host.irqEnable := v &&& 0x7FF }
  ∧ w 0x68 { b with host.crcEn := v.getLsbD 0 && s.agrees 9 }
  ∧ w 0x6C { b with pwr.resetCause := s.pwr.resetCause &&& ~~~(v &&& 0x7F) }
  ∧ w 0x70 { b with host.aliveCfg := v &&& 0xFF01, pwr.alive := s.pwr.alive && v.getLsbD 0 }
  ∧ (s.isReady = true →
      w 0x40 { b with host.cmdHead := v.toNat % 4096 } ∧ w 0x50 { b with host.rspTail := v.toNat % 2048 }
      ∧ w 0x58 { b with host.evtTail := v.toNat % 2048 })
  ∧ (s.isReady = false → ∀ o ∈ [0x40, 0x44, 0x50, 0x58], w o { b.hostErr with host.addrErr := true })
  ∧ (∀ o ∈ [0x00, 0x04, 0x0C, 0x10, 0x14, 0x18, 0x20, 0x24, 0x28, 0x2C, 0x30, 0x48, 0x4C, 0x54, 0x5C, 0x78, 0x7C, 0x80, 0x84, 0x88, 0x8C, 0x90, 0x94],
      w o b)

/-- A host write of a mailbox word: into the command ring and a bulk half the host owns it lands, elsewhere it sets ADDR_ERR, and no
other word of the mailbox changes (R354, R367, R373). -/
def Says.HostMailboxWrites : Prop := ∀ (s : State) (a : Nat) (v : Word), HostHears s →
  let b : State := { s with host.softArmed := none }
  let i := (a - 0x10000) / 4
  let bad : State := { b.hostErr with host.addrErr := true }
  let lands : Prop := ∃ t, exec (.registerWrite a v) s = .next t ∧ t.mbx i = v ∧ (∀ j, j ≠ i → t.mbx j = s.mbx j)
    ∧ ({ t with host.mailbox := [] } : State) = { b with host.mailbox := [] }
  (0x10000 ≤ a → a < 0x20000 → s.isReady = true → (i < 4096 ∨ (8192 ≤ i ∧ nthB s.host.own ((i - 8192) / 4096) = false)) → lands)
  ∧ (0x10000 ≤ a → a < 0x20000 →
      (s.isReady = false ∨ (4096 ≤ i ∧ i < 8192) ∨ (8192 ≤ i ∧ nthB s.host.own ((i - 8192) / 4096) = true)) →
      exec (.registerWrite a v) s = .next bad)
  ∧ ((0x100 ≤ a ∧ a < 0x10000) ∨ 0x20000 ≤ a → exec (.registerWrite a v) s = .next bad)

/-- HostRegisterWrites and HostMailboxWrites, above, hold. -/
def Obligations.HostWrites : Prop := Says.HostRegisterWrites ∧ Says.HostMailboxWrites

/-- The keys of SOFT_RESET (R378, R617), FAULT_ACK (R337) and DOORBELL (R373, R384).
A command whose event cannot arise in the state changes nothing: the model's choice (log 24). -/
def Obligations.HostKeys : Prop := ∀ (s : State) (v : Word) (h : Nat), HostHears s →
  let b : State := { s with host.softArmed := none }
  exec .softResetArm s = .next { s with host.softArmed := some s.time }
  ∧ (s.armed = true → exec .standbyRequest s = .next { b with pwr.standbyReq := true })
  ∧ (s.armed = false → exec .standbyRequest s = .next b ∧ exec .softReset s = .next b)
  ∧ (∀ t, s.host.softArmed = some t → (t + 24576 ≤ s.time → exec .softResetDisarm s = .next b)
      ∧ (s.time < t + 24576 → exec .softResetDisarm s = .next s))
  ∧ (v.toNat % 256 = s.kiln.cap.seq →
      exec (.faultAck v) s = .next { b with kiln.cap.valid := false, kiln.acts := [], kiln.ready := [] })
  ∧ (v.toNat % 256 ≠ s.kiln.cap.seq → exec (.faultAck v) s = .next b)
  ∧ (s.isReady = true → exec .doorbellCmd s = .next { b with host.bellCmd := true })
  ∧ (s.isReady = true → h < 2 → nthB s.host.own h = false →
      exec (.doorbellBulk h) s = .next { b with host.own := s.host.own.set h true, host.bellBulk := s.host.bellBulk.set h true })
  ∧ (s.isReady = true → h < 2 → nthB s.host.own h = true → exec (.doorbellBulk h) s = .next b)

/-- A read transfer shifts out STATUS, each word as its capture edge finds it, the trailer where CRC is on, then 0, and changes nothing else
but the time; a write transfer of one word shifts out STATUS and 0, does what a register write does and counts; a bad trailer delivers
nothing; fewer than 32 periods shift out the first bits of STATUS (R352, R356, R358, R361 to R366). -/
def Obligations.HostTransfers : Prop := ∀ (s : State) (x : Transfer), HostHears s →
  let n := bits x.header.toNat 24 7 + 1
  let addr := bits x.header.toNat 0 24
  let v := nthW x.data 0
  let r (k : Nat) : State := { s with host.sdo := s.statusReg :: List.replicate k 0 }
  let at' (d : Nat) : State := { s with time := max s.time (min (s.time + d) (4096 * (s.lastBlock + 1) - 1)) }
  let read (k : Nat) : Word := (at' (nth x.ticks k)).hostRead (addr + 4 * k)
  let whole := x.header.getLsbD 31 = false ∧ x.collide = none ∧ n = 1 ∧ ¬ (addr / 4 * 4 = 0x74 ∧ v.toNat % 65536 = 0xA5A5)
  (x.header.getLsbD 31 = true → 32 + 32 * n + (if s.host.crcEn then 8 else 0) ≤ x.bits →
      ∃ t, exec (.hostTransfer x) s = .next t
        ∧ t = { at' ((x.ticks.take n).foldl max 0) with host.sdo := t.host.sdo } ∧ t.host.sdo.length = (x.bits + 31) / 32
        ∧ nthW t.host.sdo 0 = s.statusReg ∧ (∀ k < n, nthW t.host.sdo (k + 1) = read k)
        ∧ nthW t.host.sdo (n + 1) = (if s.host.crcEn then w32 (crcOver x.header ((List.range n).map read) * 2 ^ 24) else 0)
        ∧ ∀ k, n + 1 < k → nthW t.host.sdo k = 0)
  ∧ (whole → s.host.crcEn = false → x.bits = 64 →
      ∃ t, exec (.registerWrite addr v) (r 1) = .next t ∧ exec (.hostTransfer x) s = .next { t with host.xferCnt := (s.host.xferCnt + 1) % 256 })
  ∧ (whole → s.host.crcEn = true → x.bits = 72 → crcOver x.header [v] = x.trailer.toNat →
      ∃ t, exec (.registerWrite addr v) (r 2) = .next t ∧ exec (.hostTransfer x) s = .next { t with host.xferCnt := (s.host.xferCnt + 1) % 256 })
  ∧ (whole → s.host.crcEn = true → x.bits = 72 → crcOver x.header [v] ≠ x.trailer.toNat →
      exec (.hostTransfer x) s = .next { (r 2).hostErr with host.crcErr := true })
  ∧ (x.bits < 32 → exec (.hostTransfer x) s = .next { s.hostErr with
      host.frameErr := true
      host.sdo := if x.bits = 0 then [] else [s.statusReg &&& w32 (2 ^ 32 - 2 ^ (32 - x.bits))] })

/-- TAKE_DOORBELL with CMD set acknowledges it; one message in the ring is taken, here a PING or one that a check refuses, and CMD_TAIL
passes it; a header that reads as uncorrectable empties the ring with RING_ERROR and is reported (R325, R384 to R386, R390, R394). -/
def Says.TakeDoorbell : Prop := ∀ (s : State) (bad : List Nat) (rd : List PageFault),
  let head := s.host.cmdHead
  let tail := s.host.cmdTail
  let h := (s.mbx tail).toNat
  let n := bits h 0 8
  let c := s.ringCmd h (tail + 1) n
  let m : Msg := ⟨c.session, c.seq, c.words⟩
  let b : State := { s with
    host.bellCmd := false
    host.bellBulk := [false, false]
    host.irqStatus := setBit s.host.irqStatus 2
    fw.limit := head }
  let done : State := { b with host.cmdTail := head }
  let answers (op : Nat) (m : Msg) (ws : List Word) (u : State) : Prop := ∃ t, exec (.takeDoorbell bad rd) s = .next t
    ∧ t.offRings = u.offRings ∧ Responds s t op m ws
  let lost := mkMsg 2 0 kMemUncorrectable 1 (14 * 256) tail
  s.kiln.raised = [] → s.canTake = true → s.host.bellCmd = true → (∀ u ∈ s.uarts, u.ready = []) →
  (head = tail → exec (.takeDoorbell bad rd) s = .next b)
  ∧ (ClearToAnswer s → s.responseRoom = true → tail < 4096 → head = (tail + n + 1) % 4096 → (∀ i, i ≤ n → (tail + i) % 4096 ∉ bad) →
      (∀ st, s.refusal c = some st → answers c.opcode m [statusWord st 0] done)
      ∧ (s.refusal c = none → c.opcode = 0x02 → answers 0x02 m [okWord, w32 s.time, w32 (s.time / 2 ^ 32)] done))
  ∧ (ClearToAnswer s → s.responseRoom = true → head ≠ tail → tail ∈ bad → Heard s lost → FreeSet s lost →
      answers 0 ⟨0, 0, []⟩ [statusWord 0x18 0] (done.captured lost 3 1))

/-- TAKING_RESUME goes on where room had ended, here with a PING, a refused message or a word that cannot be read (R325, R386, R388); OVERFLOW reports the dropped events (R397).
A command whose event cannot arise in the state changes nothing: the model's choice (log 24). -/
def Says.ResumeAndOverflow : Prop := ∀ (s : State) (bad : List Nat) (rd : List PageFault),
  let h := (s.mbx s.host.cmdTail).toNat
  let n := bits h 0 8
  let c := s.ringCmd h (s.host.cmdTail + 1) n
  let m : Msg := ⟨c.session, c.seq, c.words⟩
  let done : State := { s with host.cmdTail := s.fw.limit }
  let answers (op : Nat) (m : Msg) (ws : List Word) (u : State) : Prop := ∃ t, exec (.takingResume bad rd) s = .next t
    ∧ t.offRings = u.offRings ∧ Responds s t op m ws
  let lost := mkMsg 2 0 kMemUncorrectable 1 (14 * 256) s.host.cmdTail
  s.kiln.raised = [] →
  (s.fw.limit = s.host.cmdTail ∨ s.canTake = false ∨ s.responseRoom = false → exec (.takingResume bad rd) s = .next s)
  ∧ (s.canTake = true → ClearToAnswer s → s.responseRoom = true → s.host.cmdTail < 4096 → s.fw.limit = (s.host.cmdTail + n + 1) % 4096 →
      (∀ i, i ≤ n → (s.host.cmdTail + i) % 4096 ∉ bad) →
      (∀ st, s.refusal c = some st → answers c.opcode m [statusWord st 0] done)
      ∧ (s.refusal c = none → c.opcode = 0x02 → answers 0x02 m [okWord, w32 s.time, w32 (s.time / 2 ^ 32)] done))
  ∧ (s.canTake = true → ClearToAnswer s → s.responseRoom = true → s.host.cmdTail ∈ bad → s.fw.limit ≠ s.host.cmdTail →
      Heard s lost → FreeSet s lost → answers 0 ⟨0, 0, []⟩ [statusWord 0x18 0] (done.captured lost 3 1))
  ∧ (s.fwTakes = true → s.fw.dropped ≠ 0 → tailLegal s.fw.seenEvtTail s.host.evtTail s.host.evtHead = true → 4 ≤ s.evtFree →
      ∃ t, exec .overflow s = .next t ∧ t.offRings = s.offRings ∧ t.fw.dropped = 0 ∧ Posts s t 0x80 0 [w32 s.fw.dropped])

/-- TakeDoorbell and ResumeAndOverflow, above, hold. -/
def Obligations.CommandTaking : Prop := Says.TakeDoorbell ∧ Says.ResumeAndOverflow

/-- HELLO, PING, SESSION_OPEN, SESSION_SET and SESSION_CLOSE that pass their checks (R400, R402, R404, R405). -/
def Says.ProtocolSessions : Prop := ∀ (s : State) (m : Msg),
  let w := payload m
  let free := fun k => (s.fw.sessions.getD k Session.closed).opened = false
  let named := bits (w 0) 0 8
  let x : Session := ⟨true, false, bits (w 0) 8 3, bits (w 0) 16 16⟩
  let offered := s.part.variant.features
  let a := agreedSet offered (nthW m.words 1)
  (TakenNow s 0x01 m → bits (w 0) 16 16 = 1 → w 2 = 0 →
      (s.fw.helloDone = true → ∀ k < 16, s.agrees k = true → a.getLsbD k = false → s.locked k = false) →
      Answers s (.hello m) 0x01 m [okWord, 0x00010000, offered, 0, a, 0, Config.fwVersion]
        { s with
          fw.helloDone := true
          fw.agreed := a
          fw.version := 0x00010000
          fw.unitPending := true
          fw.region1From := if a.getLsbD 0 && !s.agrees 0 then some ((s.time + 3687 + 4095) / 4096) else s.fw.region1From
          host.crcEn := s.host.crcEn && a.getLsbD 9 })
  ∧ (TakenNow s 0x02 m → Answers s (.ping m) 0x02 m [okWord, w32 s.time, w32 (s.time / 2 ^ 32)] s)
  ∧ (TakenNow s 0x03 m → bits (w 0) 16 16 ≤ s.part.variant.voices →
      (∀ k, 1 ≤ k → k ≤ 31 → k = named ∨ (named = 0 ∧ ∀ j, 1 ≤ j → j < k → ¬ free j) → free k →
        Answers s (.sessionOpen m) 0x03 m [okWord, w32 k] { s with fw.sessions := s.fw.sessions.set k x })
      ∧ (named = 0 → (∀ k, 1 ≤ k → k ≤ 31 → ¬ free k) → Answers s (.sessionOpen m) 0x03 m [statusWord 0x1D 0] s))
  ∧ (TakenNow s 0x04 m → named ≠ 0 → s.sessionOpen named = true → bits (w 0) 16 16 ≤ s.part.variant.voices →
      Answers s (.sessionSet m) 0x04 m [okWord] { s with fw.sessions := s.fw.sessions.set named x })
  ∧ (TakenNow s 0x05 m → named ≠ 0 → s.sessionOpen named = true →
      AwaitsReply s (.sessionClose m) (cmdOf 0x05 m)
        { s with fw.sessions := s.fw.sessions.modify named fun (y : Session) => { y with closing := true } })

/-- The agreed set is a part of what host and variant both offer, and each feature needs the features R400 names. -/
def Says.AgreedSet : Prop := ∀ (offered host : Word),
  let a := agreedSet offered host
  let has := fun k => a.getLsbD k = true
  (∀ k, has k → offered.getLsbD k = true ∧ host.getLsbD k = true)
  ∧ (has 0 ↔ has 6) ∧ (has 10 → has 1) ∧ (has 11 → has 4 ∧ has 5) ∧ (has 12 → has 5) ∧ (has 14 → has 5)
  ∧ (∀ k ∈ [1, 2, 3, 4, 5, 7, 8, 9, 13, 15], offered.getLsbD k = true → host.getLsbD k = true → has k)

/-- ProtocolSessions and AgreedSet, above, hold. -/
def Obligations.SessionCommands : Prop := Says.ProtocolSessions ∧ Says.AgreedSet

/-- IMAGE_WRITE schedules its words for the next boundary, IMAGE_READ answers the values in effect (R407, R408); GLOBAL_START and
DAC_PUSH act at taking (R521, R551). -/
def Obligations.ImageCommands : Prop := ∀ (s : State) (m : Msg),
  let w := payload m
  let b := bits (w 0) 0 8
  let off := bits (w 0) 16 16
  let ws := m.words.drop 1
  let n := w 1
  (TakenNow s 0x06 m → imageSize b ≠ 0 → s.imageFault b off ws = none → (∀ e ∈ writeWords off ws, actsAtOnce b e.1 = false) →
      Answers s (.imageWrite m) 0x06 m [okWord, w32 s.nextBlock]
        { s with fw.writes := s.fw.writes ++ (writeWords off ws).map fun (e : Nat × Word) => PendingWrite.mk b e.1 e.2 s.nextBlock })
  ∧ (TakenNow s 0x06 m → imageSize b ≠ 0 → ∀ i, s.imageFault b off ws = some i →
      Answers s (.imageWrite m) 0x06 m [statusWord 0x1C i] s)
  ∧ (TakenNow s 0x07 m → imageSize b ≠ 0 → off % 4 = 0 → 1 ≤ n → n ≤ 254 → off + 4 * n ≤ imageSize b →
      Answers s (.imageRead m) 0x07 m
        (w32 (if (s.fw.writes.any fun p => p.block == b) then 0x100 else 0) :: (List.range n).map fun i => s.liveReg b (off + 4 * i)) s)
  ∧ (∀ v, TakenNow s 0x06 m → b = 0x01 → writeWords off ws = [(0, v)] → s.imageFault b off ws = none →
      Answers s (.globalStart m) 0x06 m [okWord, 0xFFFFFFFF]
        (if v.getLsbD 8 then { s with chain.ownStart := some (s.chain.ownStart.getD 0 ||| bits v.toNat 0 7) }
         else s.globalStart (bits v.toNat 0 7)))
  ∧ (∀ v d, TakenNow s 0x06 m → b = 0x05 → d < 4 → writeWords off ws = [(0x18 + 0x20 * d, v)] → s.imageFault b off ws = none →
      Answers s (.dacPush m) 0x06 m [okWord, 0xFFFFFFFF]
        { s with dacs := s.dacs.modify d fun (x : DacState) => { x with queue := x.queue ++ [bits v.toNat 0 12] } })

/-! ### Tasks (chapters 05 and 12) -/

/-- A NOTE_ON whose recipe and tables are resident makes its task ready, primed where R271 primes it (R421). -/
def Says.NoteOnTask : Prop := ∀ (s : State) (m : Msg) (b : Bank) (r : Recipe),
  let c := cmdOf 0x10 m
  let prio := min (c.prio?.getD r.priority) (s.ceiling m.session)
  let p := s.prime c r prio
  TakenNow s 0x10 m → c.dueBad = false → s.fw.banks.getD (bits (payload m 4) 0 2) none = some b →
    b.recipes[bits (payload m 4) 8 8]? = some r → s.tablesResident r = true → (6 ≤ prio → s.objectsSafe r = true) →
    s.flowBusy m.session c.flow = false → s.entryFree prio = true →
    MakesTask s (.noteOn m) 0x10 m .noteOn prio p.2 p.1

/-- What keeps a NOTE_ON from becoming a task, in the order of R421: nothing changes but the answer. -/
def Says.NoteOnRefusals : Prop := ∀ (s : State) (m : Msg), TakenNow s 0x10 m →
  let c := cmdOf 0x10 m
  let refused := fun st d => Answers s (.noteOn m) 0x10 m [statusWord st d] s
  (c.dueBad = true → refused 0x1A 1)
  ∧ (c.dueBad = false → s.fw.banks.getD (bits (payload m 4) 0 2) none = none → refused 0x45 0)
  ∧ (∀ b r, c.dueBad = false → s.fw.banks.getD (bits (payload m 4) 0 2) none = some b → b.recipes[bits (payload m 4) 8 8]? = some r →
      let prio := min (c.prio?.getD r.priority) (s.ceiling m.session)
      (s.tablesResident r = false → refused 0x45 0)
      ∧ (s.tablesResident r = true → 6 ≤ prio → s.objectsSafe r = false → refused 0x46 0)
      ∧ (s.tablesResident r = true → (6 ≤ prio → s.objectsSafe r = true) → s.flowBusy m.session c.flow = true → refused 0x42 0)
      ∧ (s.tablesResident r = true → (6 ≤ prio → s.objectsSafe r = true) → s.flowBusy m.session c.flow = false →
          s.entryFree prio = false → refused 0x41 0))

/-- NoteOnTask and NoteOnRefusals, above, hold. -/
def Obligations.NoteOnCommand : Prop := Says.NoteOnTask ∧ Says.NoteOnRefusals

/-- RELEASE, KILL, PARAM, CONTROLLER, PROFILE and EVENT make their task ready, a task on a note at its voice's priority (R190 to R192, R422). -/
def Obligations.OtherTasks : Prop := ∀ (s : State) (m : Msg),
  let c := cmdOf 0 m
  let free := fun prio => s.flowBusy m.session c.flow = false ∧ s.entryFree prio = true
  let ofNote := match s.noteVoices m.session c.note with
    | e :: _ => e.2.prio
    | [] => s.namedPrio c
  c.dueBad = false →
  (TakenNow s 0x11 m → free ofNote → MakesTask s (.release m) 0x11 m .release ofNote [] s)
  ∧ (TakenNow s 0x12 m → free ofNote → MakesTask s (.kill m) 0x12 m .kill ofNote [] s)
  ∧ (TakenNow s 0x13 m → paramOk (bits (payload m 4) 0 9) (payload m 5) = true → free ofNote →
      MakesTask s (.param m) 0x13 m .param ofNote [] s)
  ∧ (TakenNow s 0x14 m → free (s.namedPrio c) → MakesTask s (.controller m) 0x14 m .controller (s.namedPrio c) [] s)
  ∧ (TakenNow s 0x15 m → free (s.namedPrio c) → MakesTask s (.profile m) 0x15 m .profile (s.namedPrio c) [] s)
  ∧ (TakenNow s 0x16 m → free (s.namedPrio c) → MakesTask s (.event m) 0x16 m .event (s.namedPrio c) [] s)

/-- CANCEL: a stale handle, another session's task, a waiting task, an applied one, a cancelled one (R205, R424). -/
def Obligations.CancelTask : Prop := ∀ (s : State) (m : Msg), TakenNow s 0x17 m →
  let i := bits (payload m 0) 0 12
  let answers := fun st => Answers s (.cancel m) 0x17 m [statusWord st 0] s
  (s.genOf i ≠ bits (payload m 0) 12 4 → answers 0x43)
  ∧ (s.genOf i = bits (payload m 0) 12 4 →
      (∀ t, sfind s.hop.tasks i = some t → m.session ≠ 0 → t.session ≠ m.session → answers 0x44)
      ∧ (∀ t, sfind s.hop.tasks i = some t → (m.session = 0 ∨ t.session = m.session) → t.primed = [] →
          Answers s (.cancel m) 0x17 m [okWord]
            { s with
              hop.tasks := serase s.hop.tasks i
              hop.left := sinsert s.hop.left i (false, t.session) })
      ∧ (∀ t, sfind s.hop.tasks i = some t → (m.session = 0 ∨ t.session = m.session) → t.primed ≠ [] →
          Answers s (.cancel m) 0x17 m [okWord]
            { s with
              hop.tasks := serase s.hop.tasks i
              hop.left := sinsert s.hop.left i (false, t.session)
              store.streams := s.store.streams.filter fun st => !(st.primed && t.primed.contains st.id)
              store.reads := s.store.reads.filter fun x => !t.primed.contains x.stream })
      ∧ (∀ l, sfind s.hop.tasks i = none → sfind s.hop.left i = some l → m.session ≠ 0 → l.2 ≠ m.session → answers 0x44)
      ∧ (∀ l, sfind s.hop.tasks i = none → sfind s.hop.left i = some l → (m.session = 0 ∨ l.2 = m.session) →
          answers (if l.1 then 0x02 else 0x00)))

/-- ALLOC_CFG, HOPPER_STATUS and DEVICE_STATUS (R425 to R427). -/
def Obligations.AllocatorAndStatus : Prop := ∀ (s : State) (m : Msg),
  let r := bits (payload m 0) 0 1
  let k := bits (payload m 0) 8 5
  let n := s.hop.counts.getD r RegionCounts.zero
  let late := fun i => w32 (nth n.lateMax (2 * i) + 0x10000 * nth n.lateMax (2 * i + 1))
  let two := s.part.variant.regionCount = 2
  let pair (f : Nat → Nat) := w32 (f 0 + 0x10000 * (if two then f 1 else 0))
  let here := fun r k => decide (r = 0 ∨ two) && (nth s.mash.clusterOf (2 * r + k) == 3 * r + 2)
  (TakenNow s 0x20 m → r < s.part.variant.regionCount → 1 ≤ k → k ≤ 16 →
      Answers s (.allocCfg m) 0x20 m [okWord] { s with hop.fadeNext := (s.hop.fadeNext.filter fun (x : Nat × Nat) => x.1 != r) ++ [(r, k)] })
  ∧ (TakenNow s 0x21 m → r < s.part.variant.regionCount →
      Answers s (.hopperStatus m) 0x21 m
        ([okWord, w32 s.hop.tasks.length, w32 n.carried, late 0, late 1, late 2, late 3, w32 n.orphans, w32 n.steals, w32 n.hardSteals,
          w32 n.streamSteals, w32 n.quotaSteals, w32 n.refusedVoice, w32 n.refusedQuota, w32 n.refusedStream, w32 (s.fadeBlocks r)]) s)
  ∧ (TakenNow s 0x22 m →
      Answers s (.deviceStatus m) 0x22 m
        [okWord,
         w32 (b2n (s.regionUp 0) + 2 * b2n (s.regionUp 1) + 4 * b2n (here 0 0 || here 0 1) + 8 * b2n (here 1 0 || here 1 1)
           + 16 * b2n s.copperSingle + 32 * b2n s.kiln.safe + 0x100 * ((s.fw.sessions.filter fun x => x.opened).length % 32)),
         w32 ((s.mash.voices.filter fun e => vRegion e.1 == 0).length + 0x10000 * (s.mash.voices.filter fun e => vRegion e.1 == 1).length),
         pair fun r => s.clusterFree r 0 + s.clusterFree r 1,
         pair fun r => s.reserveOf r 0 + s.reserveOf r 1,
         w32 (s.openStreams + 0x10000 * (s.hop.tasks.filter fun e => !e.2.primed.isEmpty).length),
         w32 ((s.pwr.tempDig % 0x10000).toNat + 0x10000 * (s.pwr.tempAna % 0x10000).toNat),
         w32 (copperPercent s.cop.used + 0x100 * copperPercent s.cop.usedMax), s.fw.agreed, w32 s.time, w32 (s.time / 2 ^ 32)]
        { s with cop.usedMax := 0 })

/-! ### Content and the store (chapters 07 and 12) -/

/-- Deferred content commands are ACCEPTED where their first checks pass (R413, R428 to R431, R435): BANK_LOAD, SVT_LOAD, WT_LOAD,
GRIST_PREPARE, GRIST_WRITE, GRIST_META, GRIST_COMMIT, GRIST_READ. -/
def Says.ContentAccepted : Prop := ∀ (s : State) (m : Msg),
  let w := payload m
  let accepts (i : Instr) (op : Nat) (u : State) : Prop := Answers s i op m [acceptedWord] (u.deferred (cmdOf op m))
  (TakenNow s 0x30 m → s.slotNamed (bits (w 0) 0 2) = false → accepts (.bankLoad m) 0x30 s)
  ∧ (TakenNow s 0x32 m → accepts (.svtLoad m) 0x32 s)
  ∧ (TakenNow s 0x33 m → s.residentFrames (bits (w 0) 16 16) = none → accepts (.wtLoad m) 0x33 s)
  ∧ (TakenNow s 0x48 m → s.fw.update = 0 → accepts (.gristPrepare m) 0x48 s)
  ∧ (TakenNow s 0x49 m → s.fw.update = 1 → w 1 % 4096 = 0 → 4 ≤ w 2 → w 2 ≤ 16384 → w 2 % 4 = 0 →
      (∀ p ∈ pagesOf (w 1) (w 2), s.inUpdateArea p = true ∧ s.pageInUse p = false) → accepts (.gristWrite m) 0x49 s)
  ∧ (TakenNow s 0x4A m → s.fw.update = 1 → bit (w 0) 0 = true → m.words.length - 2 ≤ 251 → w 1 + (m.words.length - 2) ≤ 1048576 →
      accepts (.gristMeta m) 0x4A s)
  ∧ (TakenNow s 0x4A m → s.fw.update = 1 → bit (w 0) 0 = false → m.words.length = 10 → w 1 ≤ 65535 → accepts (.gristMeta m) 0x4A s)
  ∧ (TakenNow s 0x4B m → s.fw.update = 1 → accepts (.gristCommit m) 0x4B { s with fw.update := 2 })
  ∧ (TakenNow s 0x4E m → 4 ≤ w 2 → w 2 ≤ 16384 → w 2 % 4 = 0 → accepts (.gristRead m) 0x4E s)

/-- Content commands that a state refuses: IN_USE, BAD_STATE, ERASE_REFUSED (R428, R431, R435, R284). -/
def Says.ContentRefused : Prop := ∀ (s : State) (m : Msg),
  let w := payload m
  let refuses (i : Instr) (op st : Nat) : Prop := Answers s i op m [statusWord st 0] s
  (TakenNow s 0x30 m → s.slotNamed (bits (w 0) 0 2) = true → refuses (.bankLoad m) 0x30 0x4C)
  ∧ (TakenNow s 0x33 m → s.residentFrames (bits (w 0) 16 16) ≠ none → refuses (.wtLoad m) 0x33 0x4C)
  ∧ (TakenNow s 0x48 m → s.fw.update ≠ 0 → refuses (.gristPrepare m) 0x48 0x1F)
  ∧ (TakenNow s 0x49 m → s.fw.update ≠ 1 → refuses (.gristWrite m) 0x49 0x1F)
  ∧ (∀ p, TakenNow s 0x49 m → s.fw.update = 1 → w 1 % 4096 = 0 → 4 ≤ w 2 → w 2 ≤ 16384 → w 2 % 4 = 0 → p ∈ pagesOf (w 1) (w 2) →
      (s.inUpdateArea p = false ∨ s.pageInUse p = true) → refuses (.gristWrite m) 0x49 0x4F)
  ∧ (TakenNow s 0x4B m → s.fw.update ≠ 1 → refuses (.gristCommit m) 0x4B 0x1F)
  ∧ (TakenNow s 0x31 m → s.slotNamed (bits (w 0) 0 2) = true → refuses (.bankUnload m) 0x31 0x4C)
  ∧ (TakenNow s 0x34 m → s.residentFrames (bits (w 0) 16 16) = none → refuses (.wtUnload m) 0x34 0x45)
  ∧ (TakenNow s 0x34 m → s.residentFrames (bits (w 0) 16 16) ≠ none →
      (s.tableUsed (bits (w 0) 16 16) = true ∨ s.tableNamed (bits (w 0) 16 16) = true) → refuses (.wtUnload m) 0x34 0x4C)
  ∧ (TakenNow s 0x4C m → (s.fw.update = 2 ∨ s.fw.update = 3) → refuses (.gristAbort m) 0x4C 0x1F)

/-- ContentAccepted and ContentRefused, above, hold. -/
def Obligations.ContentAtTaking : Prop := Says.ContentAccepted ∧ Says.ContentRefused

/-- BANK_UNLOAD, WT_UNLOAD, BANK_STATUS, TB_UPDATE, GRIST_ABORT and GRIST_STATUS (R429, R432 to R436). -/
def Obligations.ContentDirect : Prop := ∀ (s : State) (m : Msg),
  let w := payload m
  let slot := bits (w 0) 0 2
  let obj := bits (w 0) 16 16
  let t := bits (w 0) 0 2
  let shown := fun k => match s.fw.banks.getD k none with
    | some b => [w32 (1 + 2 * b.format + 0x10000 * b.recipes.length), b.bankId, w32 b.object]
    | none => [0, 0, 0]
  (TakenNow s 0x31 m → s.slotNamed slot = false → s.fw.banks.getD slot none ≠ none →
      Answers s (.bankUnload m) 0x31 m [okWord] { s with fw.banks := s.fw.banks.set slot none })
  ∧ (TakenNow s 0x34 m → s.residentFrames obj ≠ none → s.tableUsed obj = false → s.tableNamed obj = false →
      Answers s (.wtUnload m) 0x34 m [okWord]
        { s with fw.tables := s.fw.tables.map fun (x : Table) =>
            if x.object = obj ∧ x.gone = none then { x with gone := some s.nextBlock } else x })
  ∧ (TakenNow s 0x35 m →
      Answers s (.bankStatus m) 0x35 m
        (okWord :: (shown 0 ++ shown 1 ++ shown 2 ++ shown 3
          ++ [w32 ((s.fw.tables.filter fun x => x.gone.isNone).length + 0x10000 * s.fw.svtObject.getD 0xFFFF)])) s)
  ∧ (TakenNow s 0x40 m → bits (s.regN bTIMEBASE (tbReg t 0)) 0 3 = 3 →
      (s.agrees 3 = true → bit (s.regN bCHAIN 0x14) (8 * t) = false) → (signed 32 (w 5)).natAbs ≤ 1000 * 65536 →
      Answers s (.tbUpdate m) 0x40 m [okWord]
        { s with fw.tbUpdates := s.fw.tbUpdates ++
            [(t, TbUpdate.mk (w 1 + w 2 * 2 ^ 32) (bit (w 0) 8) (signed 32 (w 4) * 2 ^ 32 + (w 3 : Int)) (signed 32 (w 5)) (signed 32 (w 6)) s.time)] })
  ∧ (TakenNow s 0x4C m → (s.fw.update = 0 ∨ s.fw.update = 1) → Answers s (.gristAbort m) 0x4C m [okWord] { s with fw.update := 0 })
  ∧ (TakenNow s 0x4D m →
      Answers s (.gristStatus m) 0x4D m
        (okWord :: ([s.liveReg bGRIST 0x34, s.liveReg bGRIST 0x38, s.liveReg bGRIST 0x3C, s.liveReg bGRIST 0x40]
          ++ ((s.store.bad.drop (w 0)).take 240).map fun p => w32 (p * 4096))) s)

/-- BANK_LOAD_DONE, SVT_LOAD_DONE, WT_LOAD_DONE: a good object takes effect at the next boundary, a bad one is reported (R101, R139, R428
to R431). Here every page of the object is read without an error. -/
def Obligations.ContentLoaded : Prop := ∀ (s : State) (rd : List PageFault) (j : Job) (b : List Byte),
  let slot := bits (j.w 0) 0 2
  let obj := bits (j.w 0) 16 16
  (∀ bank, Outstanding s 0x30 3 j → s.fetchObject rd obj 3 = (.ok b, s) → 12 ≤ b.length → s.checkBank rd slot obj b = (.ok bank, s) →
      Finishes s (.bankLoadDone rd) j 0x00 [w32 (u32 b 8), w32 (u16 b 6 % 512 + 0xFFFF0000), 0xFFFFFFFF]
        { s with fw.bankNext := (s.fw.bankNext.filter fun (x : Nat × Option Bank) => x.1 != slot) ++ [(slot, some bank)] })
  ∧ (∀ f, Outstanding s 0x30 3 j → s.fetchObject rd obj 3 = (.ok b, s) → 12 ≤ b.length → s.checkBank rd slot obj b = (.error f, s) →
      Finishes s (.bankLoadDone rd) j f.status [w32 (u32 b 8), w32 (u16 b 6 % 512 + f.recipe * 0x10000), w32 f.offset] s)
  ∧ (Outstanding s 0x32 1 j → s.fetchObject rd obj 4 = (.ok b, s) → b.length = 8192 →
      Finishes s (.svtLoadDone rd) j 0x00 [w32 s.nextBlock]
        { s with fw.svtNext := some (obj, (List.range 4096).map fun i => u16 b (2 * i)) })
  ∧ (∀ n q, Outstanding s 0x33 1 j → s.fetchObject rd obj 2 = (.ok b, s) → wavetableFrames b = some n → s.residentTables < 128 →
      frameCrcsOk b n = true → s.freeRun n = some q →
      ∃ t, exec (.wtLoadDone rd) s = .next t
        ∧ t.offRings = ({ s with
            mash.wave := t.mash.wave
            fw.tables := s.fw.tables ++ [Table.mk obj q n s.nextBlock none]
            fw.jobs := s.fw.jobs.erase j } : State).offRings
        ∧ Posts s t 0x81 j.session (completionWords j 0x00 [w32 (q + 0x100 * n + 0x10000 * (s.residentTables + 1))])
        ∧ ∀ r < s.part.variant.regionCount, ∀ k,
            sget (fun _ => 0) (t.mash.wave.getD r []) (2048 * q + k)
              = if k < 2048 * n then w32 (u32 b (0x40 + 4 * k)) else sget (fun _ => 0) (s.mash.wave.getD r []) (2048 * q + k))
  ∧ (∀ n, Outstanding s 0x33 1 j → s.fetchObject rd obj 2 = (.ok b, s) → wavetableFrames b = some n →
      (128 ≤ s.residentTables ∨ frameCrcsOk b n = false ∨ s.freeRun n = none) →
      Finishes s (.wtLoadDone rd) j 0x4B [w32 (0x10000 * s.residentTables)] s)

/-- The ends of GRIST_PREPARE, GRIST_WRITE and GRIST_META: each ends with COMPLETION OK and changes of the flash exactly what R283 says, the
metadata's mirror with it (R258); everything else but the rings, the job and what `u` says is as before (R283, R284, R286, R435). -/
def Says.GristUpdate : Prop := ∀ (s : State) (j : Job),
  let k := s.store.anchor.copy
  let m := mirrorBase (!s.m0Only)
  let flashes (i : Instr) (ws : List Word) (u : State) (p : State → Prop) : Prop := ∃ t, exec i s = .next t
    ∧ t.offRings = ({ u with store.flash := t.store.flash, fw.jobs := s.fw.jobs.erase j } : State).offRings
    ∧ Posts s t 0x81 j.session (completionWords j 0x00 ws) ∧ p t
  swf flashErased s.store.flash = true → k < 2 →
  (Outstanding s 0x48 0 j → s.metaSuspended = false →
      flashes .gristPrepareDone [] { s with fw.update := 1, fw.changed := [] } fun t =>
        (∀ a < 0x200000, t.flashByte (dirBase (1 - k) + a) = s.flashByte (dirBase k + a)
            ∧ t.flashByte (m + dirBase (1 - k) + a) = s.flashByte (dirBase k + a))
        ∧ (∀ a < 0x400000, t.flashByte (checkBase (1 - k) + a) = s.flashByte (checkBase k + a)
            ∧ t.flashByte (m + checkBase (1 - k) + a) = s.flashByte (checkBase k + a)))
  ∧ (let a := j.w 1
     let n := j.w 2
     let h := bits (j.w 0) 0 1
     Outstanding s 0x49 0 j → s.eraseSuspended (portOf a) = false → a % 4096 = 0 → n ≤ 16384 → n % 4 = 0 → a + 16384 ≤ 2 ^ 32 →
      (∀ p ∈ pagesOf a n, s.pageInUse p = false) →
      flashes .gristWriteDone [] { s with host.own := s.host.own.set h false } fun t =>
        t.host.irqStatus.getLsbD (3 + h) = true
        ∧ (∀ i < n, t.flashByte (a + i) = ByteOf (s.mbx (8192 + 4096 * h + i / 4)) (i % 4))
        ∧ (∀ i, n ≤ i → i < (n + 4095) / 4096 * 4096 → t.flashByte (a + i) = 0xFF)
        ∧ (∀ x < 2 ^ 32, (x < a ∨ a + (n + 4095) / 4096 * 4096 ≤ x) → t.flashByte x = s.flashByte x))
  ∧ (let bs := wordBytes (j.words.drop 2)
     Outstanding s 0x4A 0 j → s.metaSuspended = false → bit (j.w 0) 0 = true → j.w 1 + (j.words.length - 2) ≤ 1048576 →
      flashes .gristMetaDone [] s fun t =>
        (∀ i < bs.length, t.flashByte (checkBase (1 - k) + 4 * j.w 1 + i) = bs.getD i 0
            ∧ t.flashByte (m + (checkBase (1 - k) + 4 * j.w 1) + i) = bs.getD i 0)
        ∧ (∀ x < 2 ^ 32, (∀ i < bs.length, x ≠ checkBase (1 - k) + 4 * j.w 1 + i ∧ x ≠ m + (checkBase (1 - k) + 4 * j.w 1) + i) →
            t.flashByte x = s.flashByte x))
  ∧ (let bs := wordBytes (j.words.drop 2)
     Outstanding s 0x4A 0 j → s.metaSuspended = false → bit (j.w 0) 0 = false → j.words.length = 10 → j.w 1 ≤ 65535 →
      flashes .gristMetaDone []
        { s with fw.changed := if s.fw.changed.contains (j.w 1) then s.fw.changed else insertNat (j.w 1) s.fw.changed } fun t =>
        (∀ i < 32, t.flashByte (dirBase (1 - k) + 32 * j.w 1 + i) = bs.getD i 0
            ∧ t.flashByte (m + (dirBase (1 - k) + 32 * j.w 1) + i) = bs.getD i 0)
        ∧ (∀ x < 2 ^ 32, (∀ i < 32, x ≠ dirBase (1 - k) + 32 * j.w 1 + i ∧ x ≠ m + (dirBase (1 - k) + 32 * j.w 1) + i) →
            t.flashByte x = s.flashByte x))

/-- GRIST_COMMIT_DONE writes the new anchor when every changed entry is good, else names the first that is not (R283); GRIST_READ_DONE
puts the bytes into the half and returns it (R390, R435). -/
def Says.GristCommitAndRead : Prop := ∀ (s : State) (rd : List PageFault) (j : Job),
  let a := s.store.anchor
  let top := match s.fw.changed.getLast? with
    | some i => i + 1
    | none => 0
  let b : Anchor := { a with copy := 1 - a.copy, generation := (a.generation + 1) % 2 ^ 32, entries := max a.entries top, mirrorM1 := !s.m0Only }
  let alone := s.metaSuspended = false ∧ s.jobOf 0x49 = none ∧ s.jobOf 0x4A = none
  (Outstanding s 0x4B 2 j → alone → (∀ i ∈ s.fw.changed, s.entryGood rd i = true) →
      Finishes s (.gristCommitDone rd) j 0x00 [w32 b.generation, w32 s.nextBlock]
        { s with
          store.flash := (s.writeAnchor b).store.flash
          store.nextAnchor := some b
          fw.update := 3 })
  ∧ (∀ i l r, Outstanding s 0x4B 2 j → alone → s.fw.changed = l ++ i :: r → (∀ x ∈ l, s.entryGood rd x = true) → s.entryGood rd i = false →
      Finishes s (.gristCommitDone rd) j 0x4E [w32 i, 0] { s with fw.update := 1 })
  ∧ (∀ l, Outstanding s 0x4E 0 j → s.scratchFails = false → s.hostPages rd (pagesOf (j.w 1) (j.w 2)) = (some l, s) → j.w 2 ≤ 16384 →
      let h := bits (j.w 0) 0 1
      ∃ t, exec (.gristReadDone rd) s = .next t
        ∧ t.offRings = ({ s with host.own := s.host.own.set h false, fw.jobs := s.fw.jobs.erase j } : State).offRings
        ∧ Posts s t 0x81 j.session (completionWords j 0x00 []) ∧ t.host.irqStatus.getLsbD (3 + h) = true
        ∧ ∀ i < j.w 2 / 4, t.mbx (8192 + 4096 * h + i) = w32 (u32 (l.drop (j.w 1 % 4096)) (4 * i)))

/-- GristUpdate and GristCommitAndRead, above, hold. -/
def Obligations.StoreUpdates : Prop := Says.GristUpdate ∧ Says.GristCommitAndRead

/-- A read that its port has taken up and that completes in time puts its frames into the ring, byte for byte: a general stream's from its
object where pages and port allow it, a safety stream's where both copies agree; a late one brings nothing, one not taken up yet waits;
READ_DEADLINE drops a read at its deadline; a failed port is taken out with the reads that need it (R269, R272, R273, R277, R280, R327).
A command whose event cannot arise in the state changes nothing: the model's choice (log 24). -/
def Obligations.GristReads : Prop := ∀ (s : State) (id p : Nat) (out : ReadOutcome), s.kiln.raised = [] →
  let u : State := { s with store.reads := s.store.reads.filter fun x => x.id != id }
  let goesTo (i : Instr) (t : State) : Prop := exec i s = .next t
  let drops (i : Instr) : Prop := ∃ t, exec i s = .next t ∧ t = { u with store.serving := t.store.serving }
  let m := mkMsg 2 (3 + p) kGristPort 1 0 0
  (∀ r st, s.readOf id = some r → s.streamAt r.stream = some st → (r.tier = 3 ∨ s.time ≤ r.deadline) → s.kiln.halted = false →
      some id ∈ s.store.serving → (∀ f ∈ r.frames, r.refetch = true ∨ s.slotFree st f = true) →
      s.portServes (portOf st.addr) = true → portOf st.addr ∈ r.ports →
      (∀ f ∈ r.frames, s.frameClean st st.addr f = true ∧ (st.mirror = noMirror ∨ s.frameClean st st.mirror f = true)) →
      ((st.safety = false ∨ st.mirror = noMirror)
        ∨ s.portServes (portOf st.mirror) = true ∧ out.mismatch = []
          ∧ ∀ f ∈ r.frames, s.frameBytes st st.addr f = s.frameBytes st st.mirror f) →
      ∃ t, exec (.gristReadComplete id out) s = .next t
        ∧ t = { u with store.rings := t.store.rings, store.streams := t.store.streams, store.serving := t.store.serving }
        ∧ ∀ f, r.frames = [f] →
            (∀ k < st.width, sget (fun _ => (0 : Byte)) t.store.rings (st.slot f + k) = s.flashByte (st.addr + 0x40 + f * st.width + k))
            ∧ (∀ a, (a < st.slot f ∨ st.slot f + st.width ≤ a) →
                sget (fun _ => (0 : Byte)) t.store.rings a = sget (fun _ => (0 : Byte)) s.store.rings a)
            ∧ ∃ x ∈ t.store.streams, f ∈ x.frames ∧ { x with frames := st.frames } = st)
  ∧ (∀ r, s.readOf id = some r → ((r.tier ≠ 3 ∧ r.deadline < s.time) ∨ s.kiln.halted = true) → drops (.gristReadComplete id out))
  ∧ (∀ r, s.readOf id = some r → (r.tier = 3 ∨ s.time ≤ r.deadline) → s.kiln.halted = false → some id ∉ s.store.serving →
      goesTo (.gristReadComplete id out) s)
  ∧ (s.readOf id = none → goesTo (.gristReadComplete id out) s ∧ goesTo (.readDeadline id) s)
  ∧ (∀ r, s.readOf id = some r → r.tier ≠ 3 →
      (r.deadline ≤ s.time → drops (.readDeadline id)) ∧ (s.time < r.deadline → goesTo (.readDeadline id) s))
  ∧ (s.portServes p = true → Heard s m → FreeSet s m →
      ∃ t, exec (.gristPort p) s = .next t
        ∧ t = ({ s with
          store.ports := s.store.ports.modify p fun (x : PortState) => { x with failed := true }
          store.reads := s.store.reads.filter fun (r : GristRead) => !r.ports.contains p || r.ports.any fun q => q != p && s.portServes q
          store.serving := t.store.serving } : State).captured m 4 1)
  ∧ (s.portServes p = false → goesTo (.gristPort p) s)

/-! ### Services (chapters 11, 12 and 16) -/

/-- COPPER_LOAD, COPPER_SWAP, COPPER_PARAM and COPPER_LOAD_DONE (R437 to R439). A load whose swap still waits for its boundary ends
after it: the model's choice (log 81). -/
def Obligations.CopperCommands : Prop := ∀ (s : State) (m : Msg) (rd : List PageFault) (j : Job) (b : List Byte),
  let w := payload m
  let k := 1 - s.cop.active
  (TakenNow s 0x50 m → Answers s (.copperLoad m) 0x50 m [acceptedWord] (s.deferred (cmdOf 0x50 m)))
  ∧ (TakenNow s 0x51 m → bits (w 0) 0 16 ≤ 4096 → s.cop.loaded = true →
      AwaitsReply s (.copperSwap m) (cmdOf 0x51 m) { s with cop.loaded := false, cop.swapLen := some (bits (w 0) 0 16) })
  ∧ (TakenNow s 0x51 m → bits (w 0) 0 16 ≤ 4096 → s.cop.loaded = false → Answers s (.copperSwap m) 0x51 m [statusWord 0x1F 0] s)
  ∧ (TakenNow s 0x52 m → bits (w 0) 16 16 + (m.words.length - 1) ≤ 65536 →
      Answers s (.copperParam m) 0x52 m [okWord, w32 ((s.time / 256 + 1) * 256)]
        { s with cop.params := s.cop.params
            ++ (List.range (m.words.length - 1)).map fun i => (bit (w 0) 0, bits (w 0) 16 16 + i, nthW m.words (i + 1)) })
  ∧ (s.cop.swapLen = none → Outstanding s 0x50 1 j → s.fetchObject rd (bits (j.w 0) 16 16) 5 = (.ok b, s) → copperBad b = false →
      Finishes s (.copperLoadDone rd) j 0x00 [w32 (u32 b 8)]
        { s with
          cop.loaded := true
          cop.prog := s.cop.prog.set k (sputs (fun _ => fillWord) [] 0 (programWords (u32 b 8) (b.drop 0x40)))
          cop.pwords := s.cop.pwords.set k (u32 b 8)
          cop.prmBase := s.cop.prmBase.set k (u16 b 0xC)
          cop.prmVals := s.cop.prmVals.set k (bytesWords (u16 b 6) (b.drop (0x40 + 8 * u32 b 8))) })
  ∧ (s.cop.swapLen = none → Outstanding s 0x50 1 j → s.fetchObject rd (bits (j.w 0) 16 16) 5 = (.ok b, s) → copperBad b = true →
      Finishes s (.copperLoadDone rd) j 0x51 [0] s)
  ∧ (s.cop.swapLen ≠ none → s.kiln.raised = [] → exec (.copperLoadDone rd) s = .next s)

/-- DIAG_START, DIAG_READ, DIAG_ABORT, CAPTURE_START and CAPTURE_STOP (R440 to R442). -/
def Obligations.DiagAndCapture : Prop := ∀ (s : State) (m : Msg),
  let w := payload m
  (∀ rd e p, s.kiln.raised = [] → TakenNow s 0x58 m →
      let c := cmdOf 0x58 m
      let t := s.deferWork c
      s.jobOf 0x58 = none → t.loadEntry rd (bits (w 1) 0 16) = (.found e, t) → e.type = 6 → e.size = 832 →
      t.loadObject rd e = (some p, t) → profileFault p (bits (w 0) 16 16) = none →
      Answers s (.diagStart m rd) 0x58 m [acceptedWord]
        { s.deferred c with fw.diag := some (DiagJob.start (bits (w 0) 0 1) (bits (w 0) 16 16) p) })
  ∧ (TakenNow s 0x59 m → s.fw.diagLast = none → Answers s (.diagRead m) 0x59 m (okWord :: List.replicate 33 0) s)
  ∧ (∀ r, TakenNow s 0x59 m → s.fw.diagLast = some r → r.words.length ≤ 32 →
      Answers s (.diagRead m) 0x59 m (okWord :: w32 (r.kind + 2 + 0x10000 * r.mask) :: r.words) s)
  ∧ (TakenNow s 0x5A m → s.fw.diag = none → Answers s (.diagAbort m) 0x5A m [statusWord 0x1F 0] s)
  ∧ (∀ d j, TakenNow s 0x5A m → s.fw.diag = some d → Outstanding s 0x58 32 j →
      AnswersPosting s (.diagAbort m) 0x5A m [okWord] 0x81 j.session (completionWords j 0x1F (List.replicate 32 0))
        { s.restoreDiag d with fw.diag := none, fw.jobs := s.fw.jobs.erase j })
  ∧ (TakenNow s 0x5C m → bits (w 0) 0 8 ≠ 0 → nthB s.host.own 0 = true → nthB s.host.own 1 = true →
      Answers s (.captureStart m) 0x5C m [okWord]
        { s with fw.capture := some (Capture.mk (bits (w 0) 0 8) (if bits (w 0) 16 16 = 0 then none else some (bits (w 0) 16 16))
            s.nextBlock 0 0 s.nextBlock false) })
  ∧ (∀ k, TakenNow s 0x5D m → s.fw.capture = some k →
      AwaitsReply s (.captureStop m) (cmdOf 0x5D m) { s with fw.capture := some { k with stop := true } })
  ∧ (TakenNow s 0x5D m → s.fw.capture = none → Answers s (.captureStop m) 0x5D m [statusWord 0x1F 0] s)

/-- The end of a step takes the line's result and gives the settings back; without DONE the line is not measured 192 frames later; the
last line ends the job, whose results stay for DIAG_READ (R528, R529, R532 to R535).
A command whose event cannot arise in the state changes nothing: the model's choice (log 24). -/
def Obligations.DiagSteps : Prop := ∀ (s : State) (d : DiagJob), s.isReady = true → s.fw.diag = some d → d.going = true →
  let at' := fun x => ({ s with time := max s.time x } : State)
  let sums := s.sumsOf d
  let more := ∃ c, d.channel < c ∧ c < 16 ∧ bit d.mask c = true
  let ends := s.stepEnd d
  let goesOn (t : State) (r : Nat × Word × Word) : State := { t.restoreDiag d with
    fw.diag := some { d with
      results := d.results ++ [r]
      channel := d.channel + 1
      going := false
      saved := []
      begun := 0 } }
  (∀ mag a, ends < 4096 * (s.lastBlock + 1) → s.diagDone d = true → d.ovl = false → impedance d d.channel sums = some (mag, some a) → more →
      exec .diagStepEnd s = .next (goesOn (at' ends)
        (d.channel, w32 (verdictOf d s.part.variant d.channel sums mag + (a % 65536).toNat * 65536), w32 mag)))
  ∧ (ends < 4096 * (s.lastBlock + 1) → s.diagDone d = false → exec .diagStepEnd s = .next s)
  ∧ (ends + 49152 < 4096 * (s.lastBlock + 1) → s.diagDone d = false → more →
      exec .diagDoneTimeout s = .next (goesOn (at' (ends + 49152)) (d.channel, 15, 0)))
  ∧ (ends + 49152 < 4096 * (s.lastBlock + 1) → s.diagDone d = true → exec .diagDoneTimeout s = .next s)
  ∧ (ends + 49152 < 4096 * (s.lastBlock + 1) → s.diagDone d = false → ¬ more → d.channel < 16 → (∀ r ∈ d.results, r.1 ≠ d.channel) →
      ∃ t ws, exec .diagDoneTimeout s = .next t ∧ t.fw.diag = none ∧ t.fw.diagLast = some ⟨d.kind, d.mask, ws⟩ ∧ ws.length = 32
        ∧ nthW ws (2 * d.channel) = 15 ∧ nthW ws (2 * d.channel + 1) = 0)

/-- FAULT_LOG_READ, BLOCK_RESET, LIFETIME_READ and LIFETIME_SET (R443 to R445); a record that its memory cannot give back reads
as all ones (R325), and without a record the word is a free value. -/
def Obligations.LogAndCounters : Prop := ∀ (s : State) (m : Msg),
  let w := payload m
  let found := (s.kiln.log.filter fun r => decide (w 1 ≤ r.seq)).take (bits (w 0) 0 5)
  (∀ r rs, TakenNow s 0x60 m → found = r :: rs →
      Answers s (.faultLogRead m) 0x60 m
        (okWord :: w32 r.seq :: (r :: rs).flatMap fun (x : LogRec) => if x.bad then List.replicate 8 0xFFFFFFFF else [w32 x.msg.toNat, w32 (x.msg.toNat / 2 ^ 32), w32 x.time, w32 (x.time / 2 ^ 32),
          w32 (x.master + 0x100 * x.access + 0x10000 * x.flags + 0x1000000 * x.action), w32 x.seq, 0, 0]) s)
  ∧ (TakenNow s 0x60 m → bits (w 0) 0 5 ≠ 0 → found = [] →
      Answers s (.faultLogRead m) 0x60 m [okWord, w32 (Config.freeValue s.freeCount).toNat] { s with freeCount := s.freeCount + 1 })
  ∧ (TakenNow s 0x61 m → s.resetRefused (bits (w 0) 0 4) = none →
      AwaitsReply s (.blockReset m) (cmdOf 0x61 m) { s with kiln.resetReq := s.kiln.resetReq ++ [bits (w 0) 0 4] })
  ∧ (∀ st, TakenNow s 0x61 m → s.resetRefused (bits (w 0) 0 4) = some st → Answers s (.blockReset m) 0x61 m [statusWord st 0] s)
  ∧ (TakenNow s 0x68 m → s.pwr.life.length = 16 → Answers s (.lifetimeRead m) 0x68 m (okWord :: s.pwr.life.map w32) s)
  ∧ (TakenNow s 0x69 m → s.pwr.lifeSet = false →
      Answers s (.lifetimeSet m) 0x69 m [okWord]
        { s with
          pwr.lifeSet := true
          pwr.life := (List.range 16).map fun k =>
            if k = 11 then (if signed 32 (nth s.pwr.life k) < signed 32 (w k) then w k else nth s.pwr.life k)
            else min (nth s.pwr.life k + w k) (2 ^ 32 - 1) })
  ∧ (TakenNow s 0x69 m → s.pwr.lifeSet = true → Answers s (.lifetimeSet m) 0x69 m [statusWord 0x1F 0] s)

/-- FW_LOAD, FW_VERIFY, HANDOVER and FW_SELECT move STEP and post HANDOVER (R411, R446 to R449). -/
def Obligations.FirmwareCommands : Prop := ∀ (s : State) (m : Msg),
  let w := payload m
  let c := fun op => cmdOf op m
  let spare := 1 - s.host.activeSlot
  let b : Anchor := { s.store.anchor with generation := (s.store.anchor.generation + 1) % 2 ^ 32, fwSlot := spare, mirrorM1 := !s.m0Only }
  (TakenNow s 0x70 m → w 1 % 4096 = 0 → w 1 < 458752 → 4 ≤ w 2 → w 2 ≤ 16384 → w 2 % 4 = 0 →
      (s.host.hoStep = 1 → Answers s (.fwLoad m) 0x70 m [acceptedWord] (s.deferred (c 0x70)))
      ∧ (s.host.hoStep ≠ 1 → ClearToPost s 1 →
          AnswersPosting s (.fwLoad m) 0x70 m [acceptedWord] 0x87 0 [1] { s.deferred (c 0x70) with host.hoStep := 1, host.hoResult := 0 }))
  ∧ (TakenNow s 0x71 m → ClearToPost s 1 →
      AnswersPosting s (.fwVerify m) 0x71 m [acceptedWord] 0x87 0 [2] { s.deferred (c 0x71) with host.hoStep := 2, host.hoResult := 0 })
  ∧ (TakenNow s 0x72 m → s.host.hoStep = 3 → s.fw.jobs = [] → s.fw.update = 0 → ClearToPost s 1 →
      ∃ t, exec (.handover m) s = .next t ∧ t.offRings = ({ s with host.hoStep := 4, host.hoResult := 0 } : State).offRings
        ∧ t.fw.replies = [Reply.mk 0x72 m.session m.seq .ring none none] ∧ Posts s t 0x87 0 [4])
  ∧ (TakenNow s 0x72 m → s.host.hoStep ≠ 3 → Answers s (.handover m) 0x72 m [statusWord 0x1F 0] s)
  ∧ (TakenNow s 0x73 m → s.host.hoStep = 3 → s.store.nextAnchor = none → ClearToPost s 1 →
      AnswersPosting s (.fwSelect m) 0x73 m [okWord] 0x87 0 [0]
        { s with
          store.flash := (s.writeAnchor b).store.flash
          store.anchor := b
          host.hoStep := 0
          host.hoResult := 0 })
  ∧ (TakenNow s 0x73 m → s.host.hoStep ≠ 3 → Answers s (.fwSelect m) 0x73 m [statusWord 0x1F 0] s)

/-- FW_LOAD_DONE writes the slice into the inactive slot and its mirror (R258) and returns the half; a page that failed twice ends it in STEP 7
with RESULT 6; FW_VERIFY_DONE ends in STEP 3 or in STEP 7 with a RESULT
code, a length beyond 448 KiB being a FORMAT error (R411, R412, R446, R447). -/
def Says.FirmwareLoaded : Prop := ∀ (s : State) (j : Job) (result : Nat),
  let h := bits (j.w 0) 0 1
  let a := 0x00100000 + 0x00100000 * (1 - s.host.activeSlot) + j.w 1
  let n := j.w 2
  let m := mirrorBase (!s.m0Only)
  let able := s.metaSuspended = false ∧ s.scratchFails = false
  (Outstanding s 0x70 0 j → able → j.w 1 % 4096 = 0 → j.w 1 < 458752 → n ≤ 16384 → n % 4 = 0 → s.host.activeSlot < 2 →
      ∃ t, exec (.fwLoadDone false) s = .next t
        ∧ t.offRings = ({ s with
            store.flash := t.store.flash
            host.own := s.host.own.set h false
            fw.jobs := s.fw.jobs.erase j } : State).offRings
        ∧ Posts s t 0x81 j.session (completionWords j 0x00 []) ∧ t.host.irqStatus.getLsbD (3 + h) = true
        ∧ (∀ i < n, t.flashByte (a + i) = ByteOf (s.mbx (8192 + 4096 * h + i / 4)) (i % 4) ∧ t.flashByte (m + a + i) = t.flashByte (a + i))
        ∧ (∀ x < 2 ^ 32, (x < a ∨ a + n ≤ x) → (x < m + a ∨ m + a + n ≤ x) → t.flashByte x = s.flashByte x))
  ∧ (Outstanding s 0x70 1 j → able →
      ∃ t, exec (.fwLoadDone true) s = .next t ∧ t.host.irqStatus.getLsbD 7 = true ∧ t.host.irqStatus.getLsbD (3 + h) = true
        ∧ t.offRings = ({ s with
            host.own := s.host.own.set h false
            host.hoStep := 7
            host.hoResult := 6
            fw.jobs := s.fw.jobs.erase j } : State).offRings)
  ∧ (Outstanding s 0x71 2 j → result = 0 → j.w 0 ≠ 0 → j.w 0 ≤ 458752 →
      ∃ t, exec (.fwVerifyDone result) s = .next t ∧ t.host.irqStatus.getLsbD 7 = true
        ∧ t.offRings = ({ s with host.hoStep := 3, host.hoResult := 0, fw.jobs := s.fw.jobs.erase j } : State).offRings)
  ∧ (Outstanding s 0x71 2 j → result ≤ 4 → (result ≠ 0 ∨ j.w 0 = 0 ∨ 458752 < j.w 0) →
      ∃ t, exec (.fwVerifyDone result) s = .next t ∧ t.host.irqStatus.getLsbD 7 = true
        ∧ t.offRings = ({ s with
            host.hoStep := 7
            host.hoResult := if j.w 0 = 0 ∨ 458752 < j.w 0 then 1 else result
            fw.jobs := s.fw.jobs.erase j } : State).offRings)

/-- FIRMWARE_RESUME after a handover makes the loaded slot active and after a restart leaves it; HANDOVER_TIMEOUT gives up after 2 ms;
FW_ANCHOR_WRITTEN names the active slot (R326, R411, R412). -/
def Says.HandoverEnds : Prop := ∀ (s : State), s.isReady = true →
  let b : Anchor := { s.store.anchor with generation := (s.store.anchor.generation + 1) % 2 ^ 32, fwSlot := s.host.activeSlot, mirrorM1 := !s.m0Only }
  (s.fw.paused = true → s.fw.restart = false →
      ∃ t, exec .firmwareResume s = .next t ∧ t.host.irqStatus.getLsbD 7 = true ∧ t.awaits 0x72 = false
        ∧ t.offRings = ({ s with
            fw.paused := false
            kiln.hbLast := s.time
            kiln.hbMissed := none
            host.hoCount := min (s.host.hoCount + 1) 255
            host.activeSlot := 1 - s.host.activeSlot
            host.hoStep := 6
            host.hoResult := 0
            fw.anchorDue := true
            pwr.life := s.pwr.life.modify 8 fun x => min (x + 1) (2 ^ 32 - 1) } : State).offRings)
  ∧ (s.fw.paused = true → s.fw.restart = true →
      ∃ t, exec .firmwareResume s = .next t ∧ t.awaits 0x72 = false
        ∧ t.offRings = ({ s with
            fw.paused := false
            fw.restart := false
            kiln.hbLast := s.time
            kiln.hbMissed := none
            host.hoCount := min (s.host.hoCount + 1) 255
            host.hoStep := if s.host.hoStep = 5 then 6 else s.host.hoStep
            host.hoResult := if s.host.hoStep = 5 then 0 else s.host.hoResult } : State).offRings)
  ∧ (s.fw.paused = true → s.fw.restart = false → s.fw.pausedAt + 49152 ≤ s.time →
      ∃ t, exec .handoverTimeout s = .next t ∧ t.host.irqStatus.getLsbD 7 = true
        ∧ t.offRings = ({ s with
            fw.pausedAt := s.time
            fw.restart := true
            host.hoStep := 7
            host.hoResult := 5
            pwr.life := s.pwr.life.modify 9 fun x => min (x + 1) (2 ^ 32 - 1) } : State).offRings)
  ∧ (s.fw.anchorDue = true → s.metaSuspended = false → s.store.nextAnchor = none →
      exec .fwAnchorWritten s = .next
        { s with
          store.flash := (s.writeAnchor b).store.flash
          store.anchor := b
          fw.anchorDue := false })

/-- FirmwareLoaded and HandoverEnds, above, hold. -/
def Obligations.FirmwareProgress : Prop := Says.FirmwareLoaded ∧ Says.HandoverEnds

/-! ### Voices, mixers, boundaries (chapters 01, 02, 06, 08) -/

/-- A VPE takes its due blocks by block index, safety-class voices first, then by voice number. A voice-block that passes its check
moves the voice on by one block, its old context being the checkpoint; its sends join the sums of its cluster, or wait for the
comparison with the twin's. One that fails keeps the voice for one retry in a reserve slot, whose pass is a transient fault; a block
that is not finished two boundaries later is not released (R28, R29, R54, R293, R295 to R298, R303, R307).
A command whose event cannot arise in the state changes nothing: the model's choice (log 24). -/
def Obligations.VoiceBlocks : Prop := ∀ (s : State) (v : Nat) (x : Voice), s.kiln.raised = [] → sfind s.mash.ending v = none →
  let n := x.next
  let l := logicalOf v
  let b := voiceBlock (s.viewOf v x.twin x.prio n) x.ctx
  let y : Voice := { x with
    ctx := b.ctx
    ckpt := x.ctx
    ckptAt := some n
    next := n + 1
    failed := none
    peak := b.peak
    ckptBad := false }
  let goesOn (t : State) : Prop := sfind t.mash.voices v = some y ∧ (∀ u, u ≠ v → sfind t.mash.voices u = sfind s.mash.voices u)
    ∧ t.host = s.host ∧ t.fw = s.fw ∧ t.hop = s.hop ∧ t.cop = s.cop ∧ t.mem = s.mem ∧ t.chain = s.chain ∧ t.sns = s.sns ∧ t.tbs = s.tbs
  let sums (t : State) : Prop :=
    (x.twin = none → (∀ z ∈ s.mash.sums, ¬ (z.block = n ∧ z.cluster = l)) →
      t.mash.sums = s.mash.sums ++ [ClusterSum.mk n l (sendBlock x.ctx.recipe (s.guarded x.session n b.sends))] ∧ t.mash.twins = s.mash.twins)
    ∧ (∀ w, x.twin = some w → (∀ z ∈ s.mash.twins, z.v ≠ w) →
      t.mash.twins = s.mash.twins ++ [TwinResult.mk n v w x.session b.sends b.ctx false false false false] ∧ t.mash.sums = s.mash.sums)
  let turn := ∃ x0, s.voiceTurn v = some x0 ∧ x = x0.ripe
  (∀ e ∈ s.mash.ending ++ s.mash.voices, turn → e.1 / 256 = v / 256 → s.waiting e.1 e.2 = true →
      n < e.2.next ∨ n = e.2.next ∧ (6 ≤ x.prio ∧ e.2.prio < 6 ∨ (6 ≤ x.prio ↔ 6 ≤ e.2.prio) ∧ v ≤ e.1))
  ∧ (turn → s.lastBlock < n + 2 → ∃ t, exec (.voiceBlock v .pass) s = .next t ∧ goesOn t ∧ sums t ∧ t.kiln = s.kiln ∧ t.time = s.time)
  ∧ (turn → n + 2 ≤ s.lastBlock →
      ∃ t, exec (.voiceBlock v .pass) s = .next t ∧ goesOn t ∧ t.mash.sums = s.mash.sums ∧ t.mash.twins = s.mash.twins ∧ t.kiln = s.kiln)
  ∧ (∀ cause lane sample, turn → s.slotLeft v = true →
      exec (.voiceBlock v (.fail cause lane sample)) s = .next
        { s with mash.voices := sinsert s.mash.voices v { x with
            ckpt := x.ctx
            ckptAt := some n
            ckptBad := false
            failed := some ⟨cause % 4, lane % 8, sample % 16, none, s.nextFailure, none⟩ } })
  ∧ (∀ out, s.voiceTurn v = none → exec (.voiceBlock v out) s = .next s)
  ∧ (∀ out, s.voiceDue v = none ∨ s.voiceDue v = some x ∧ x.failed = none → exec (.voiceBlockRetry v out) s = .next s)
  ∧ (∀ (a : Attempt) out, s.voiceDue v = some x → x.failed = some a → s.retryReady v a = false → exec (.voiceBlockRetry v out) s = .next s)
  ∧ (∀ a : Attempt, s.voiceDue v = some x → x.failed = some a → a.ring = none → a.moved = none → s.retryReady v a = true →
      s.slotLeft v = true → s.noCover (v, x) = false → s.lastBlock < n + 2 →
      let m := mkMsg 5 (2 * s.physOf l + vVpe v) kVpeCheck 0 a.sample (a.cause % 4 * 2 ^ 30 + a.lane % 8 * 2 ^ 27 + v % 2048 * 65536 + n % 65536)
      Heard s m → s.kindLimit kVpeCheck = 0 →
      ∃ t, exec (.voiceBlockRetry v .pass) s = .next t ∧ goesOn t ∧ sums t ∧ t.time = s.time
        ∧ t.kiln.log = s.kiln.log ++ [⟨m, s.time, 1, if a.cause = 3 then 1 else 0, 0, 7, s.kiln.seq, false⟩] ∧ t.kiln.cap = s.kiln.cap)

/-- A pair of twin results that agree is released once, from the region that is up; one that differs, or on which the comparator's
copies disagree, waits for the recomputation, and the voices' next blocks wait with it. Two recomputations that agree release their result and report
a transient fault, charged to each twin whose first result differed; the voices go on from the recomputed contexts (R31, R307, R308,
R310).
A command whose event cannot arise in the state changes nothing: the model's choice (log 24). -/
def Obligations.TwinResults : Prop := ∀ (s : State) (v : Nat), s.isReady = true → s.kiln.halted = false → s.kiln.raised = [] →
  let settled (r : TwinResult) : TwinResult := { r with differs := false, released := true, compared := true }
  let charged (t : State) (a : TwinResult) (same : Bool) : Prop :=
    sget (fun _ => 0) t.mash.transients (a.v / 256) = sget (fun _ => 0) s.mash.transients (a.v / 256) + if same then 0 else 1
  (∀ x, (∃ r ∈ s.mash.twins, (r.v = v ∨ x.twin = some r.v) ∧ r.differs = true ∧ r.block + 1 = x.next) → s.voiceAt v = some x →
      ∀ out, exec (.voiceBlock v out) s = .next s)
  ∧ (s.twinPair v = none → ∀ ok o1 o2 d, exec (.twinCompare v ok) s = .next s ∧ exec (.twinRecompute v o1 o2 d) s = .next s)
  ∧ (∀ a b, s.twinPair v = some (a, b) →
      (a.differs = false → ∀ o1 o2 d, exec (.twinRecompute v o1 o2 d) s = .next s)
      ∧ (a.differs = true → ∀ ok, exec (.twinCompare v ok) s = .next s)
      ∧ (∀ ok, a.differs = false → (let split := !ok && s.pairOfComparators; split = true ∨ sameResult a b = false →
          exec (.twinCompare v ok) s = .next
            (s.setTwins { a with differs := true, split := split } { b with differs := true, split := split })))
      ∧ (a.differs = false → a.sends = b.sends → a.ctx = b.ctx → a.released = false → b.released = false →
          let r := if s.regionUp (vRegion a.v) then a else b
          exec (.twinCompare v true) s = .next
            ((s.addSends r.block 4 r.session r.ctx.recipe r.sends).setTwins
              { a with released := true, compared := true } { b with released := true, compared := true }))
      ∧ (∀ xa xb, a.differs = true → a.block = b.block → a.v < b.v → a.released = false → b.released = false →
          sfind s.mash.voices a.v = some xa → sfind s.mash.voices b.v = some xb →
          sfind s.mash.ending a.v = none → sfind s.mash.ending b.v = none → s.noCover (a.v, xa) = false → s.noCover (b.v, xb) = false →
          xa.ckptAt = some a.block → xb.ckptAt = some b.block → a.v / 256 ≠ b.v / 256 → s.slotLeft a.v = true → s.slotLeft b.v = true →
          let ra := voiceBlock (s.viewOf a.v xa.twin xa.prio a.block) xa.ckpt
          let rb := voiceBlock (s.viewOf b.v xb.twin xb.prio b.block) xb.ckpt
          let m := mkMsg 2 0 kTwinCompare 0 (a.v % 2048) a.block
          ra.sends = rb.sends → ra.ctx = rb.ctx → xa.next = a.block + 1 → xb.next = b.block + 1 → Heard s m → s.kindLimit kTwinCompare = 0 →
          ∃ t, exec (.twinRecompute v .pass .pass none) s = .next t
            ∧ charged t a (sameResult a { a with sends := ra.sends, ctx := ra.ctx })
            ∧ charged t b (sameResult b { a with sends := ra.sends, ctx := ra.ctx })
            ∧ t.mash.sums = (s.addSends a.block 4 a.session ra.ctx.recipe ra.sends).mash.sums
            ∧ sfind t.mash.voices a.v = some { xa with ctx := ra.ctx } ∧ sfind t.mash.voices b.v = some { xb with ctx := rb.ctx }
            ∧ t.mash.twins = (s.setTwins (settled { a with sends := ra.sends, ctx := ra.ctx }) (settled { b with sends := rb.sends, ctx := rb.ctx })).mash.twins
            ∧ t.kiln.log = s.kiln.log ++ [⟨m, s.time, 10, 0, 0, 7, s.kiln.seq, false⟩] ∧ t.host = s.host))

/-- DEVICE_MIX forms the Wort block of the block before, once its voice-blocks are released and its pairs settled: each bus channel is the
exact sum of clusters and twins times the ramped gain, rounded and saturated; a sample that saturates sets the channel's WORT_CLIP bit
and counts. A pilot is added to its channel as the block is read, and the sum saturates (R229 to R232, R525).
A command whose event cannot arise in the state changes nothing: the model's choice (log 24). -/
def Obligations.DeviceMixer : Prop := ∀ (s : State), s.isReady = true → s.kiln.halted = false → s.kiln.raised = [] →
  let n := s.lastBlock - 1
  let formed := ∃ w ∈ s.mash.wort, w.block = n
  let exact (ch j : Nat) : Int := ((s.mash.sums.filter fun x => x.block == n).map fun x => nthI x.vals (16 * ch + j)).sum
  let raw (ch j : Nat) : Int := rndShift (exact ch j * s.gainRamp n ch j) 30
  let ovf (ch j : Nat) : Prop := raw ch j < -(2 ^ 31) ∨ 2 ^ 31 - 1 < raw ch j
  (s.lastBlock = 0 ∨ formed ∨ s.mixReady n = false → exec (.deviceMix .none) s = .next s)
  ∧ (s.lastBlock ≠ 0 → ¬ formed → s.mixReady n = true → s.fw.capture = none →
      ∃ t vals, exec (.deviceMix .none) s = .next t
        ∧ t = { s with regs := t.regs, mash.wort := s.mash.wort ++ [WortBlock.mk n vals s.pilotChannel] } ∧ vals.length = 512
        ∧ (∀ ch < 32, ∀ j < 16,
            nthI vals (16 * ch + j) = (if 20 ≤ ch ∧ ch < 24 then 0 else satI (-(2 ^ 31)) (2 ^ 31 - 1) (raw ch j))
            ∧ t.wortAt (16 * n + j) ch = if s.pilotChannel = some ch
                then satI (-(2 ^ 31)) (2 ^ 31 - 1) (nthI vals (16 * ch + j) + pilotAt (16 * n + j)) else nthI vals (16 * ch + j))
        ∧ (∀ ch < 32, bit (t.regN bWORT 0x80) ch = true ↔
            bit (s.regN bWORT 0x80) ch = true ∨ ¬ (20 ≤ ch ∧ ch < 24) ∧ ∃ j < 16, ovf ch j)
        ∧ (∀ b o, (b, o) ≠ (bWORT, 0x80) → (b, o) ≠ (bWORT, 0x84) → o < 0x10000 → t.reg b o = s.reg b o)
        ∧ ((∀ ch < 32, ∀ j < 16, ¬ ovf ch j) → t = { s with mash.wort := s.mash.wort ++ [WortBlock.mk n vals s.pilotChannel] }))

/-- A boundary at which nothing waits but an image write of a Wort gain: the next block begins, device time reaches it, the write enters
its register and the gains of the block, the snapshot of the block is frozen, the die temperatures are those read, and a heartbeat of the
period that ends is taken (R24, R26, R39, R231, R343, R407, R672). -/
def Obligations.BoundaryOfBlock : Prop := ∀ (s : State) (b : BoundaryInput) (ch : Nat) (gain : Word), Still s → ch < 32 →
  max b.tempDig b.tempAna ≤ 110 → b.copies = [] → b.scrub = [] → s.fw.writes = [⟨bWORT, 4 * ch, gain, s.lastBlock + 1⟩] →
  let n := s.lastBlock + 1
  ∃ t p, exec (.blockBoundary b) s = .next t ∧ t.lastBlock = n ∧ t.time = max s.time (n * 4096) ∧ t.fw.writes = []
    ∧ t.reg bWORT (4 * ch) = applyAccess (regInfo s.part.variant bWORT (4 * ch)) (s.reg bWORT (4 * ch)) gain
    ∧ (∀ k < 32, k ≠ ch → t.reg bWORT (4 * k) = s.reg bWORT (4 * k))
    ∧ t.mash.gains.getLast? = some (n, (List.range 32).map fun k => t.regN bWORT (4 * k))
    ∧ t.mash.snaps.getLast? = some p ∧ p.block = n ∧ p.ctl = s.hop.ctl ∧ p.pgPrev = s.hop.pg ∧ p.pg = t.hop.pg ∧ t.host.angleBlock = n
    ∧ t.pwr.tempDig = b.tempDig ∧ t.pwr.tempAna = b.tempAna ∧ t.host.mailbox = s.host.mailbox ∧ t.kiln.log = s.kiln.log ∧ t.cop = s.cop
    ∧ (b.heartbeat = true → t.kiln.hbLast = n * 4096 ∧ t.kiln.hbMissed = none)
    ∧ (b.heartbeat = false → t.kiln.hbLast = s.kiln.hbLast ∧ t.kiln.hbMissed = s.kiln.hbMissed)
    ∧ t.store.flash = s.store.flash ∧ t.chain = s.chain ∧ t.tdm = s.tdm ∧ t.dacs = s.dacs ∧ t.uarts = s.uarts

/-- At every 1,024th boundary, once, the regions take their next ceiling: from 120 °C on 64 voices less, below 115 °C 64 more, none
from 1,024 on (R674). Region 1 goes into service for the boundary at which it carries notes (R402). Standby is entered once no deferred command or update is
outstanding: time and timers are kept, the units return to reset values, the armed thresholds wake the part (R618, R620).
A command whose event cannot arise in the state changes nothing: the model's choice (log 24). -/
def Obligations.AfterBoundary : Prop := ∀ (s : State), s.isReady = true →
  let hot := max s.pwr.tempDig s.pwr.tempAna
  (s.lastBlock % 1024 = 0 → s.mash.shedAt ≠ s.lastBlock → s.mash.voices = [] → s.part.variant = .qk2048a → s.mash.regions.length = 2 →
      ∃ t, exec .sheddingCeiling s = .next t ∧ t = { s with mash.shedAt := s.lastBlock, mash.regions := t.mash.regions }
        ∧ t.mash.regions.length = 2 ∧ ∀ r < 2,
          let g := s.mash.regions.getD r (Region.reset false)
          let next := if 120 ≤ hot then some ((match g.ceiling with | some c => c | none => s.nonSafety r) - 64)
            else match g.ceiling with
              | none => none
              | some c => if 115 ≤ hot then some c else if 1024 ≤ c + 64 then none else some (c + 64)
          t.mash.regions.getD r (Region.reset false) = { g with ceiling := next })
  ∧ (s.lastBlock % 1024 ≠ 0 ∨ s.mash.shedAt = s.lastBlock → exec .sheddingCeiling s = .next s)
  ∧ (∀ b, s.fw.region1From = some b →
      (b ≤ s.lastBlock + 1 → exec .regionInService s = .next
        { s with
          fw.region1From := none
          mash.regions := s.mash.regions.modify 1 fun (g : Region) => { g with inService := true } })
      ∧ (s.lastBlock + 1 < b → exec .regionInService s = .next s))
  ∧ (s.pwr.standbyReq = true → s.fw.jobs = [] → s.fw.update = 0 →
      ∃ t, exec .standbyEntry s = .next t ∧ t.pwr.phase = .standby ∧ t.pwr.standbyReq = false ∧ t.pwr.alive = false
        ∧ t.time = (s.lastBlock + 1) * 4096 ∧ t.tmr = s.tmr ∧ t.tcl = s.tcl ∧ (∀ o < 0x10000, t.reg bTIMER o = s.reg bTIMER o)
        ∧ t.host = HostPort.reset ∧ t.fw = Firmware.reset ∧ t.hop = Hopper.reset ∧ t.mash = Mash.reset ∧ t.kiln = Kiln.reset
        ∧ t.store.flash = s.store.flash ∧ t.pwr.life = s.pwr.life ∧ t.pwr.latch = s.pwr.latch ∧ t.pwr.resetCause = s.pwr.resetCause
        ∧ ∀ c < 8, ∀ k < 2, (WakeComp.mk c k ∈ t.pwr.wakeSet ↔
            s.senseOn c = true ∧ bit (s.thrCfg c k) 0 = true ∧ bit (s.thrCfg c k) 3 = true))
  ∧ (s.pwr.standbyReq = false ∨ s.fw.jobs ≠ [] ∨ s.fw.update ≠ 0 → exec .standbyEntry s = .next s)

/-! ### The Copper (chapters 13 and 14) -/

/-- COPPER_FRAME in its order: the pass that ends gives its cycles, an overrun counts where the core has not reached `wfr`; the slots are
handed over; the inputs are latched; a parameter word enters its memory; a crossfade takes a step; the core goes on after `wfr`, or
from word 0 after a trap (R451 to R453, R466, R470, R473, R475, R480, R481). -/
def Obligations.CopperFrame : Prop := ∀ (s : State) (f : Nat), s.cop.on = true → s.kiln.halted = false → s.frameTurn s.cop.frame = some f →
  (s.cop.wait = true → s.cop.flights = []) →
  let b := s.cop
  let late := b.hasProg = true ∧ b.wait = false ∧ b.trapped = false
  let fadeWords := match b.fade with
    | some x => x.news.length
    | none => 0
  ∃ c, exec .copperFrame s = .next { s with time := max s.time (f * 256), cop := c }
    ∧ c.frame = f ∧ c.params = [] ∧ c.first = false ∧ c.prog = b.prog ∧ c.active = b.active ∧ c.pwords = b.pwords ∧ c.slots = b.slots
    ∧ c.used = min b.cycles 4608 ∧ c.usedMax = max b.usedMax (min b.cycles 4608) ∧ c.cycles = b.params.length + fadeWords
    ∧ (late → c.overruns = min (b.overruns + 1) 255) ∧ (¬ late → c.overruns = b.overruns)
    ∧ (∀ k < 64, (f + (if b.isFast k then 0 else 15), k, b.isFast k, nthW b.slots k) ∈ c.outq)
    ∧ (∀ k < 32, (sget (fun _ => (0 : Word)) c.inputs k) = w32i (s.presented f k))
    ∧ (c.irqPend.getLsbD 0 = (b.irqPend.getLsbD 0 || decide (f % 16 = 0)))
    ∧ (c.irqPend.getLsbD 1 = (b.irqPend.getLsbD 1 || decide (b.params ≠ [])))
    ∧ (b.fade = none → b.params = [] → c.x = b.x ∧ c.y = b.y)
    ∧ (∀ a w, b.fade = none → b.params = [(false, a, w)] → a < 65536 → c.y = b.y ∧ c.xAt a = w ∧ ∀ i, i ≠ a → c.xAt i = b.xAt i)
    ∧ (∀ a w, b.fade = none → b.params = [(true, a, w)] → a < 65536 → c.x = b.x ∧ c.yAt a = w ∧ ∀ i, i ≠ a → c.yAt i = b.yAt i)
    ∧ (∀ x, b.fade = some x → b.params = [] → 0 < x.len → x.base + x.news.length ≤ 65536 →
        (∀ k < x.news.length, c.xAt (x.base + k)
          = w32i (nthI x.olds k + ((nthI x.news k - nthI x.olds k) * ((x.t : Int) + 1)).tdiv (x.len : Int)))
        ∧ (∀ i, (i < x.base ∨ x.base + x.news.length ≤ i) → c.xAt i = b.xAt i) ∧ c.y = b.y
        ∧ c.fade = if x.t + 1 < x.len then some { x with t := x.t + 1 } else none)
    ∧ (b.hasProg = true → b.trapped = true → c.pc = 0 ∧ c.sr = 0x0100 ∧ c.trapped = false ∧ c.wait = false ∧ c.d = List.replicate 8 0)
    ∧ (b.hasProg = true → b.trapped = false → b.wait = true → PlainFlow b → c.wait = false ∧ c.pc = b.nextPc ∧ c.d = b.landAll.d ∧ c.a = b.landAll.a)
    ∧ (late → c.pc = b.pc ∧ c.d = b.d ∧ c.a = b.a ∧ c.missed = b.missed + 1 ∧ c.sr.getLsbD 7 = true)

/-- add, sub, adds, subs, cmp: the result, its carry or no-borrow, its overflow, and saturation with SS (R491). -/
def Says.CopperAddSub : Prop := ∀ (s : State) (a : FmtA),
  let x := s.cop.dReg a.s1.toNat
  let y := s.cop.dReg a.s2.toNat
  let sum := x.toInt + y.toInt
  let diff := x.toInt - y.toInt
  (CopperRuns s (.cAdd a) → WritesD s (.cAdd a) a (x + y) (decide (2 ^ 32 ≤ x.toNat + y.toNat)) (!fits32 sum) false)
  ∧ (CopperRuns s (.cSub a) → WritesD s (.cSub a) a (x - y) (decide (y.toNat ≤ x.toNat)) (!fits32 diff) false)
  ∧ (CopperRuns s (.cAdds a) → WritesD s (.cAdds a) a (clamp32 sum) (decide (2 ^ 32 ≤ x.toNat + y.toNat)) (!fits32 sum) (!fits32 sum))
  ∧ (CopperRuns s (.cSubs a) → WritesD s (.cSubs a) a (clamp32 diff) (decide (y.toNat ≤ x.toNat)) (!fits32 diff) (!fits32 diff))
  ∧ (CopperRuns s (.cCmp a) → ∃ c, exec (.cCmp a) s = .next { s with cop := c } ∧ NoArith s c ∧ CopperKeeps s.cop c (s.cop.movesEffect a)
      ∧ SrIs s.cop.landAll.sr c.sr (x - y == 0) ((x - y).getLsbD 31) (decide (y.toNat ≤ x.toNat)) (!fits32 diff) false
        (s.cop.movesEffect a).flags.ss (s.cop.movesEffect a).flags.cp)

/-- and, or, xor clear C and V; abs saturates -1.0; sha and shl shift by AUX, C the last bit shifted out (R491). -/
def Says.CopperLogicShift : Prop := ∀ (s : State) (a : FmtA),
  let x := s.cop.dReg a.s1.toNat
  let y := s.cop.dReg a.s2.toNat
  let k := a.aux.toInt
  (CopperRuns s (.cAnd a) → WritesD s (.cAnd a) a (x &&& y) false false false)
  ∧ (CopperRuns s (.cOr a) → WritesD s (.cOr a) a (x ||| y) false false false)
  ∧ (CopperRuns s (.cXor a) → WritesD s (.cXor a) a (x ^^^ y) false false false)
  ∧ (CopperRuns s (.cAbs a) → WritesD s (.cAbs a) a (clamp32 (x.toInt.natAbs : Int)) false (x == 0x80000000) (x == 0x80000000))
  ∧ (CopperRuns s (.cSha a) → WritesD s (.cSha a) a (w32i (scale x.toInt k)) (shiftedOut x k) (!fits32 (scale x.toInt k)) false)
  ∧ (CopperRuns s (.cShl a) → WritesD s (.cShl a) a (w32i (scale (x.toNat : Int) k)) (shiftedOut x k) false false)
  ∧ (CopperRuns s (.cRnd a) → ∀ w ovf, accWord s.cop.sat (s.cop.accOld (a.s1.toNat - 8)) (a.aux.toNat % 8) = (w, ovf) →
      WritesD s (.cRnd a) a w (s.cop.landAll.sr.getLsbD 2) ovf (ovf && s.cop.sat))

/-- CopperAddSub and CopperLogicShift, above, hold. -/
def Obligations.CopperArithmetic : Prop := Says.CopperAddSub ∧ Says.CopperLogicShift

/-- mpy, mac, msu, aadd, asub, ash, clr: the exact 72-bit result, Z, N and V of the accumulator, GV where it wraps (R487, R488, R493). -/
def Says.CopperAccumulate : Prop := ∀ (s : State) (a : FmtA),
  let p := 2 * ((s.cop.dReg a.s1.toNat).toInt * (s.cop.dReg a.s2.toNat).toInt)
  let acc := (s.cop.acc (a.dst.toNat - 8)).toInt
  let u := (s.cop.acc (a.s1.toNat - 8)).toInt
  let v := (s.cop.acc (a.s2.toNat - 8)).toInt
  (CopperRuns s (.cMpy a) → WritesA s (.cMpy a) a p)
  ∧ (CopperRuns s (.cMac a) → WritesA s (.cMac a) a (acc + p))
  ∧ (CopperRuns s (.cMsu a) → WritesA s (.cMsu a) a (acc - p))
  ∧ (CopperRuns s (.cAadd a) → WritesA s (.cAadd a) a (u + v))
  ∧ (CopperRuns s (.cAsub a) → WritesA s (.cAsub a) a (u - v))
  ∧ (CopperRuns s (.cAsh a) → WritesA s (.cAsh a) a (scale (s.cop.accOld (a.s1.toNat - 8)).toInt a.aux.toInt))
  ∧ (CopperRuns s (.cClr a) → WritesA s (.cClr a) a 0)

/-- cmpy, cmac, cmsu, cmacj: real and imaginary parts from two register pairs (R494). -/
def Says.CopperComplex : Prop := ∀ (s : State) (a : FmtA),
  let xr := (s.cop.dReg a.s1.toNat).toInt
  let xi := (s.cop.dReg (a.s1.toNat + 1)).toInt
  let yr := (s.cop.dReg a.s2.toNat).toInt
  let yi := (s.cop.dReg (a.s2.toNat + 1)).toInt
  let ar := (s.cop.acc (a.dst.toNat - 8)).toInt
  let ai := (s.cop.acc (a.dst.toNat - 8 + 1)).toInt
  let re := 2 * (xr * yr) - 2 * (xi * yi)
  let im := 2 * (xr * yi) + 2 * (xi * yr)
  (CopperRuns s (.cCmpy a) → WritesPair s (.cCmpy a) a re im)
  ∧ (CopperRuns s (.cCmac a) → WritesPair s (.cCmac a) a (ar + re) (ai + im))
  ∧ (CopperRuns s (.cCmsu a) → WritesPair s (.cCmsu a) a (ar - re) (ai - im))
  ∧ (CopperRuns s (.cCmacj a) → WritesPair s (.cCmacj a) a (ar + (2 * (xr * yr) + 2 * (xi * yi))) (ai + (2 * (xi * yr) - 2 * (xr * yi))))

/-- CopperAccumulate and CopperComplex, above, hold. -/
def Obligations.CopperAccumulators : Prop := Says.CopperAccumulate ∧ Says.CopperComplex

/-- nop and tsta write no data register; mvc moves where its condition holds (R492, R493). -/
def Obligations.CopperFlagsOnly : Prop := ∀ (s : State) (a : FmtA),
  let x := s.cop.dReg a.s1.toNat
  let u := s.cop.acc (a.s1.toNat - 8)
  let m := s.cop.movesEffect a
  let l := s.cop.landAll.sr
  (CopperRuns s (.cNop a) → ∃ c, exec (.cNop a) s = .next { s with cop := c } ∧ NoArith s c ∧ CopperKeeps s.cop c m
      ∧ SrIs l c.sr (l.getLsbD 0) (l.getLsbD 1) (l.getLsbD 2) (l.getLsbD 3) false m.flags.ss m.flags.cp)
  ∧ (CopperRuns s (.cTsta a) → ∃ c, exec (.cTsta a) s = .next { s with cop := c } ∧ NoArith s c ∧ CopperKeeps s.cop c m
      ∧ SrIs l c.sr (u == 0) (u.getLsbD 71) (l.getLsbD 2) (outside63 u) false m.flags.ss m.flags.cp)
  ∧ (CopperRuns s (.cMvc a) → ∃ c, exec (.cMvc a) s = .next { s with cop := c } ∧ c.a = s.cop.landAll.a ∧ CopperKeeps s.cop c m
      ∧ c.d = (if condHolds s.cop.sr (a.aux.extractLsb' 0 4) then s.cop.landAll.d.set a.dst.toNat x else s.cop.landAll.d)
      ∧ SrIs l c.sr (l.getLsbD 0) (l.getLsbD 1) (l.getLsbD 2) (l.getLsbD 3) false m.flags.ss m.flags.cp)

/-- maxi and mini: a memory value beyond dD replaces it, and its address goes to the next register; the pointer is post-modified and
the other field moves (R495). -/
def Obligations.CopperScan : Prop := ∀ (s : State) (a : FmtA),
  let inY := a.aux.getLsbD 0
  let p := (memField a).p.toNat + if inY then 4 else 0
  let addr := s.cop.ptr.getD p 0
  let v := if inY then s.cop.yAt addr.toNat else s.cop.xAt addr.toNat
  let d := s.cop.dReg a.dst.toNat
  let other := if inY then s.cop.moveEffect false a.x else s.cop.moveEffect true a.y
  let moves := (s.cop.ptrEffect p (s.cop.modAmount p (memField a).m)).also other
  let found := (s.cop.landAll.d.set a.dst.toNat v).set (a.dst.toNat + 1) (addr.setWidth 32)
  (CopperRuns s (.cMaxi a) → ∃ c, exec (.cMaxi a) s = .next { s with cop := c } ∧ c.a = s.cop.landAll.a ∧ CopperKeeps s.cop c moves
      ∧ c.d = if d.toInt < v.toInt then found else s.cop.landAll.d)
  ∧ (CopperRuns s (.cMini a) → ∃ c, exec (.cMini a) s = .next { s with cop := c } ∧ c.a = s.cop.landAll.a ∧ CopperKeeps s.cop c moves
      ∧ c.d = if v.toInt < d.toInt then found else s.cop.landAll.d)

/-- ldi and mv write data registers and accumulators at once and other registers one instruction later; ldx, ldy, ldio and pop load one
instruction later (R485, R493, R496). -/
def Says.CopperLoads : Prop := ∀ (s : State) (r q : BitVec 6) (imm : Word) (addr : BitVec 16) (io : BitVec 12),
  let l := s.cop.landAll
  let into (i : Instr) (w : Word) : Prop := ∃ c, exec i s = .next { s with cop := c } ∧ c.rest = l.rest ∧ c.ptr = l.ptr
    ∧ (r < 8 → c.d = l.d.set r.toNat w ∧ c.a = l.a ∧ c.flights = [])
    ∧ (8 ≤ r → r < 24 → c.d = l.d ∧ c.a = l.a.set (r.toNat % 4) (putAccPart (l.acc (r.toNat % 4)) r.toNat w) ∧ c.flights = [])
    ∧ (24 ≤ r → NoArith s c ∧ c.flights = [⟨.reg r.toNat, w⟩])
  let later (i : Instr) (w : Word) (ptr : List (BitVec 16)) : Prop := ∃ c, exec i s = .next { s with cop := c } ∧ NoArith s c
    ∧ c.rest = l.rest ∧ c.ptr = ptr ∧ c.flights = [⟨.reg r.toNat, w⟩]
  (CopperRuns s (.cLdi r imm) → into (.cLdi r imm) imm)
  ∧ (CopperRuns s (.cMv r q) → into (.cMv r q) (s.cop.readCode q.toNat).1)
  ∧ (CopperRuns s (.cLdx r addr) → later (.cLdx r addr) (s.cop.xAt addr.toNat) l.ptr)
  ∧ (CopperRuns s (.cLdy r addr) → later (.cLdy r addr) (s.cop.yAt addr.toNat) l.ptr)
  ∧ (CopperRuns s (.cLdio r io) → later (.cLdio r io) (s.cop.ioRead io.toNat) l.ptr)
  ∧ (CopperRuns s (.cPop r) → later (.cPop r) (s.cop.xAt (s.cop.stepPtr 3 1).1.toNat) (l.ptr.set 3 (s.cop.stepPtr 3 1).1))

/-- stx, sty, stio and push store one instruction later; push then moves ax3 by -1 (R462, R493). -/
def Says.CopperStores : Prop := ∀ (s : State) (r : BitVec 6) (addr : BitVec 16) (io : BitVec 12),
  let l := s.cop.landAll
  let w := (s.cop.readCode r.toNat).1
  let later (i : Instr) (t : CopTarget) (ptr : List (BitVec 16)) : Prop := ∃ c, exec i s = .next { s with cop := c } ∧ NoArith s c
    ∧ c.rest = l.rest ∧ c.ptr = ptr ∧ c.flights = [⟨t, w⟩] ∧ (c.sr.getLsbD 5 = (l.sr.getLsbD 5 || (s.cop.readCode r.toNat).2))
  (CopperRuns s (.cStx r addr) → later (.cStx r addr) (.x addr.toNat) l.ptr)
  ∧ (CopperRuns s (.cSty r addr) → later (.cSty r addr) (.y addr.toNat) l.ptr)
  ∧ (CopperRuns s (.cStio r io) → later (.cStio r io) (.io io.toNat) l.ptr)
  ∧ (CopperRuns s (.cPush r) → later (.cPush r) (.x (s.cop.ptr.getD 3 0).toNat) (l.ptr.set 3 (s.cop.stepPtr 3 (-1)).1))

/-- A store in flight changes the word it names and no other word of either memory (R462). -/
def Says.CopperStoreLands : Prop := ∀ (c : Copper) (a : Nat) (w : Word), 
  ((c.land ⟨.x a, w⟩).xAt a = w ∧ (∀ b, b ≠ a → (c.land ⟨.x a, w⟩).xAt b = c.xAt b) ∧ (∀ b, (c.land ⟨.x a, w⟩).yAt b = c.yAt b))
  ∧ ((c.land ⟨.y a, w⟩).yAt a = w ∧ (∀ b, b ≠ a → (c.land ⟨.y a, w⟩).yAt b = c.yAt b) ∧ (∀ b, (c.land ⟨.y a, w⟩).xAt b = c.xAt b))

/-- CopperLoads, CopperStores and CopperStoreLands, above, hold. -/
def Obligations.CopperTransfers : Prop := Says.CopperLoads ∧ Says.CopperStores ∧ Says.CopperStoreLands

/-- br, call, ret and reti branch after two delay slots; loop sets its registers; rep repeats; wfr waits (R450, R452, R464, R467, R468, R471). -/
def Says.CopperFlow : Prop := ∀ (s : State) (cond : BitVec 4) (t : BitVec 14) (n : BitVec 16), PlainFlow s.cop →
  let l := s.cop.landAll
  let a3 := s.cop.ptr.getD 3 0
  let runs (i : Instr) (p : Copper → Prop) : Prop := ∃ c, exec i s = .next { s with cop := c } ∧ NoArith s c ∧ p c
  (CopperRuns s (.cBr cond t) → runs (.cBr cond t) fun c => c.pc = s.cop.nextPc ∧ c.rest = l.rest ∧ c.ptr = l.ptr ∧ c.sr = l.sr
      ∧ c.flights = [] ∧ c.branch = if condHolds s.cop.sr cond then some (t, 2) else none)
  ∧ (CopperRuns s (.cCall t) → runs (.cCall t) fun c => c.pc = s.cop.nextPc ∧ c.rest = l.rest ∧ c.branch = some (t, 2)
      ∧ c.ptr = l.ptr.set 3 (s.cop.stepPtr 3 (-1)).1 ∧ c.flights = [⟨.x a3.toNat, (s.cop.pc + 3).setWidth 32⟩])
  ∧ (CopperRuns s .cRet → runs .cRet fun c => c.pc = s.cop.nextPc ∧ c.rest = l.rest ∧ c.flights = []
      ∧ c.branch = some ((s.cop.xAt (s.cop.stepPtr 3 1).1.toNat).setWidth 14, 2) ∧ c.ptr = l.ptr.set 3 (s.cop.stepPtr 3 1).1)
  ∧ (CopperRuns s .cReti → runs .cReti fun c => c.pc = s.cop.nextPc ∧ c.rest = l.rest ∧ c.branch = some (s.cop.ipc, 2)
      ∧ c.ptr = l.ptr ∧ c.sr = srPut s.cop.isr 10 false ∧ c.flights = [])
  ∧ (CopperRuns s (.cLoop t n) → runs (.cLoop t n) fun c => c.pc = s.cop.nextPc ∧ c.rest = l.rest ∧ c.sr = l.sr ∧ c.ptr = l.ptr
      ∧ c.lc = n ∧ c.ls = s.cop.pc + 2 ∧ c.le = t)
  ∧ (CopperRuns s (.cRep n) → runs (.cRep n) fun c => c.rest = l.rest ∧ c.sr = l.sr ∧ c.ptr = l.ptr
      ∧ (n = 0 → c.pc = s.cop.nextPc + 1 ∧ c.rep = none) ∧ (n ≠ 0 → c.pc = s.cop.nextPc ∧ c.rep = some n.toNat))
  ∧ (CopperRuns s .cWfr → runs .cWfr fun c => (s.cop.missed = 0 → c.wait = true ∧ c.pc = l.pc)
      ∧ (s.cop.missed ≠ 0 → c.missed = s.cop.missed - 1 ∧ c.pc = s.cop.nextPc))

/-- The second delay slot ends a branch at its target; a repeated instruction stays in place until its last time (R464, R467). -/
def Says.CopperDelayAndRepeat : Prop := ∀ (s : State) (a : FmtA), CopperRuns s (.cNop a) →
  ∃ c, exec (.cNop a) s = .next { s with cop := c }
    ∧ (∀ n, s.cop.rep = some (n + 2) → c.rep = some (n + 1) ∧ c.pc = s.cop.landAll.pc ∧ c.branch = s.cop.landAll.branch)
    ∧ (s.cop.rep = some 1 → s.cop.branch = none → c.rep = none ∧ c.pc = s.cop.nextPc)
    ∧ (∀ t, s.cop.rep = none → s.cop.branch = some (t, 2) → c.branch = some (t, 1) ∧ c.pc = s.cop.nextPc)
    ∧ (∀ t, s.cop.rep = none → s.cop.branch = some (t, 1) → c.branch = none ∧ c.pc = t)

/-- CopperFlow and CopperDelayAndRepeat, above, hold. -/
def Obligations.CopperFlow : Prop := Says.CopperFlow ∧ Says.CopperDelayAndRepeat

/-- An accepted interrupt saves the address and `sr`, clears IE, sets IH and goes to the vector of the lowest source (R470, R471). -/
def Says.CopperInterruptEntry : Prop := ∀ (s : State) (k : Nat), s.isReady = true → s.kiln.halted = false →
  s.cop.accepts = true → s.cop.source = some k →
  ∃ c, exec .copperInterrupt s = .next { s with cop := c } ∧ NoArith s c ∧ c.rest = { s.cop.landAll.rest with ipc := s.cop.pc, isr := s.cop.landAll.sr, wait := false }
    ∧ c.pc = BitVec.ofNat 14 (4 + 4 * k) ∧ c.ptr = s.cop.landAll.ptr ∧ c.flights = []
    ∧ c.sr.getLsbD 9 = false ∧ c.sr.getLsbD 10 = true ∧ (∀ i, i ≠ 9 → i ≠ 10 → c.sr.getLsbD i = s.cop.landAll.sr.getLsbD i)

/-- A word that is reserved or beyond PWORDS traps: TRAPS counts, saturating, and the core stops until it restarts at the next boundary (R466). -/
def Says.CopperTraps : Prop := ∀ (s : State), s.isReady = true → s.kiln.halted = false → s.cop.runs = true → s.cop.current = none →
  exec .copperTrap s = .next { s with cop := { s.cop.landAll with trapped := true, traps := min (s.cop.traps + 1) 255 } }

/-- CopperInterruptEntry and CopperTraps, above, hold. -/
def Obligations.CopperInterruptAndTrap : Prop := Says.CopperInterruptEntry ∧ Says.CopperTraps

/-! ### Sense chain, memories, lines, DACs, timers, trackers, lanes, chain (chapters 04, 06, 15 to 20) -/

/-- A stage-1 group without an overload: the coarse value is the trimmed stage result, the later stages take it, and each enabled
coarse threshold counts its dwell or starts it anew (R499, R501 to R503, R509). -/
def Says.SpargeStage1 : Prop := ∀ (s : State) (c : Nat) (bs : List Bool), s.snsRuns c = true → s.kiln.raised = [] → bs.length = s.snsL1 →
  s.sns.length = 8 → (s.sense c).thr.length = 2 → s.thrDue c 0 = false → s.thrDue c 1 = false → bits (s.regN bSPARGE 0xC) 0 16 = 0 →
  let h := s.sense c
  let tick := 4 * s.groupEnd c h.groups
  let sum : Int := 2 ^ 31 * ((bs.filter id).length : Int) - 2 ^ 31 * ((bs.filter not).length : Int)
  let leg := s.snsLegacy c
  let o1 := stageOut leg s.snsL1 (s.snsShift 1) sum
  let o2 := stageOut leg s.snsL2 (s.snsShift 2) (sumNewest s.snsL2 ((o1 :: h.s1).take 256))
  let o3 := stageOut leg s.snsL3 (s.snsShift 3) (sumNewest s.snsL3 ((o2 :: h.s2).take 256))
  tick ≤ (s.lastBlock + 1) * 4096 →
  ∃ t, exec (.spargeStage1Output c bs false) s = .next t ∧ t = { s with time := max s.time tick, sns := t.sns }
    ∧ (∀ d, d ≠ c → t.sense d = s.sense d)
    ∧ { t.sense c with thr := [] } = { h with
        thr := []
        coarse := s.snsTrim c o1
        ovl := false
        lastOk := o1
        s1 := (o1 :: h.s1).take 256
        s2 := (o2 :: h.s2).take 256
        y := if h.groups % max 1 s.snsM = 0 then (o3 :: h.y).take 16 else h.y
        groups := h.groups + 1 }
    ∧ ∀ k < 2,
        let a := h.thrOf k
        let b := (t.sense c).thrOf k
        let cfg := s.thrCfg c k
        b.isIn = a.isIn
          ∧ ((bit cfg 0 = false ∨ bit cfg 2 = false) → b = a)
          ∧ (bit cfg 0 = true → bit cfg 2 = true → b.dwell = if thrMeets (s.thrLvl c k) cfg a.isIn (s.snsTrim c o1) then a.dwell + 1 else 0)

/-- An overload gives a full-scale value of the last sign, clears FINE_VALID, and its start is an event and counts (R500, R504, R507). -/
def Says.SpargeOverload : Prop := ∀ (s : State) (c : Nat) (bs : List Bool), s.snsRuns c = true → s.kiln.raised = [] → bs.length = s.snsL1 →
  s.sns.length = 8 → s.thrDue c 0 = false → s.thrDue c 1 = false → s.fw.diag = none →
  let h := s.sense c
  let o1 : Int := if h.lastOk < 0 then -0x80000000 else 0x7FFFFFFF
  4 * s.groupEnd c h.groups ≤ (s.lastBlock + 1) * 4096 →
  ∃ t, exec (.spargeStage1Output c bs true) s = .next t ∧ (t.sense c).coarse = s.snsTrim c o1 ∧ (t.sense c).ovl = true
    ∧ (t.sense c).valid = false ∧ (t.sense c).clean = h.groups + 1 ∧ (t.sense c).lastOk = h.lastOk
    ∧ (h.ovl = false → bit (t.regN bSPARGE 0x34) (16 + c) = true
        ∧ t.reg bSPARGE (0x58 + 0x20 * c) = countField (s.reg bSPARGE (0x58 + 0x20 * c)) 0 16 1)
    ∧ (h.ovl = true → t.regs = s.regs)

/-- SpargeStage1 and SpargeOverload, above, hold. -/
def Obligations.SenseStageOne : Prop := Says.SpargeStage1 ∧ Says.SpargeOverload

/-- The fine value of a channel's next frame: kept, FINE_VALID judged; where the frame lies on a stage-3 output it is that output,
scaled by the largest fraction and trimmed (R499, R505, R507). -/
def Says.SpargeFineValue : Prop := ∀ (s : State) (c f : Nat), s.snsRuns c = true → s.kiln.raised = [] → s.frameTurn (s.sense c).frame = some f →
  s.sns.length = 8 → (s.sense c).thr.length = 2 → s.thrDue c 0 = false → s.thrDue c 1 = false → s.fw.diag = none →
  let h := s.sense c
  let i := s.fineIndex c f
  ∃ t, exec (.spargeFineValue c) s = .next t ∧ t = { s with time := max s.time (f * 256), sns := t.sns }
    ∧ (∀ d, d ≠ c → t.sense d = s.sense d)
    ∧ { t.sense c with thr := [], fine := 0 } = { h with thr := [], fine := 0, valid := h.valid || s.fineClean c f, frame := f }
    ∧ (i.2 = 0 → (t.sense c).fine = s.snsTrim c (sat31 (rndDiv (0x7FFFFFFF * s.keptAt h i.1) (2 ^ 31))))

/-- A completed dwell turns the threshold over, and the change goes to the routes of its configuration: the event bit, the Hopper, and
the count of entries; one that is not due does nothing (R509, R510).
A command whose event cannot arise in the state changes nothing: the model's choice (log 24). -/
def Says.ThresholdChange : Prop := ∀ (s : State) (c k : Nat), s.snsRuns c = true → s.kiln.raised = [] → k < 2 → s.sns.length = 8 →
  (s.sense c).thr.length = 2 →
  let a := (s.sense c).thrOf k
  let cfg := s.thrCfg c k
  (s.thrDue c k = true → bit cfg 5 = false →
      ∃ t, exec (.thresholdChange c k) s = .next t ∧ (t.sense c).thrOf k = ⟨!a.isIn, 0, a.stamp⟩
        ∧ (t.sense c).thrOf (1 - k) = (s.sense c).thrOf (1 - k)
        ∧ t = { s with
          regs := t.regs
          sns := t.sns
          hop.senses := if bit cfg 4 then s.hop.senses ++ [⟨c, k, !a.isIn, a.stamp⟩] else s.hop.senses }
        ∧ (bit cfg 3 = true → bit (t.regN bSPARGE 0x34) (8 * k + c) = true)
        ∧ t.reg bSPARGE (0x58 + 0x20 * c) = (if a.isIn then s.reg bSPARGE (0x58 + 0x20 * c)
            else countField (s.reg bSPARGE (0x58 + 0x20 * c)) 16 16 1))
  ∧ (s.thrDue c k = false → exec (.thresholdChange c k) s = .next s)

/-- SpargeFineValue and ThresholdChange, above, hold. -/
def Obligations.SenseFineAndThresholds : Prop := Says.SpargeFineValue ∧ Says.ThresholdChange

/-- The atomic operations answer the old word and write the sum or the operand; an uncorrectable read writes nothing and is reported;
a bank that is not on is woken and the operation waits (R579, R580, R582, R583). -/
def Says.AtomicOperations : Prop := ∀ (s : State) (a : Nat) (v : Word) (bad : Bool),
  let w := a / 4
  let b := scratchBank w
  let old := s.scratchWord w
  let m := mkMsg 2 0 kMemUncorrectable 1 (13 * 256 + w / 8192) w
  let lands (i : Instr) (x : Word) : Prop := ∃ t, exec i s = .next t ∧ t.scratchWord w = x ∧ t.mem.lastOld = old
    ∧ (∀ k, k ≠ w → t.scratchWord k = s.scratchWord k) ∧ t = { s with mem.scratch := t.mem.scratch, mem.lastOld := old }
  s.clocked = true → s.pwr.phase ≠ .standby → a % 4 = 0 → w < 32768 → s.kiln.raised = [] →
  (s.bank b = .on → bad = false → s.mem.badScratch.contains w = false → lands (.atomicAdd a v bad) (old + v) ∧ lands (.atomicSwap a v bad) v)
  ∧ (s.bank b = .on → (bad = true ∨ s.mem.badScratch.contains w = true) → Heard s m → FreeSet s m →
      exec (.atomicAdd a v bad) s = .next (s.captured m 3 1) ∧ exec (.atomicSwap a v bad) s = .next (s.captured m 3 1))
  ∧ (s.bank b ≠ .on → ∃ t, exec (.atomicAdd a v bad) s = .next t ∧ t.mem.scratch = s.mem.scratch ∧ t.mem.lastOld = s.mem.lastOld
      ∧ t.mem.stalled = s.mem.stalled ++ [⟨w, false, v, bad⟩] ∧ t.bank b ≠ .off ∧ t.bank b ≠ .retention)

/-- The scrubber: one wrong bit is MEM_CORRECTED, more are MEM_UNCORRECTABLE of the memory's class. A checkpoint entry is then without
cover, a scratch word and a log record read as uncorrectable; a word of which both banks fail is grave (R302, R325, R577). How a word
number names an entry, a record and the other bank is the model's choice (log 80).
A command whose event cannot arise in the state changes nothing: the model's choice (log 24). -/
def Says.MemoryScrub : Prop := ∀ (s : State) (mem bank word errors : Nat),
  let p := memPlace mem bank word
  let m1 := mkMsg p.1 p.2.1 kMemCorrected 0 (mem * 256 + bank) word
  let m2 := mkMsg p.1 p.2.1 kMemUncorrectable p.2.2 (mem * 256 + bank) word
  let goesTo (u : State) : Prop := exec (.memoryScrub mem bank word errors) s = .next u
  let known : State := { s with mem.pairBad := s.mem.pairBad.filter (· != (mem, bank, word)) }
  let both := s.mem.pairBad.contains (mem, otherBank bank, word)
  let m3 := mkMsg p.1 p.2.1 kMemUncorrectable (if both then 2 else 0) (mem * 256 + bank) word
  let found : State := { known with mem.pairBad := known.mem.pairBad ++ [(mem, bank, word)] }
  let quiet (m : BitVec 64) := Heard s m ∧ s.kindLimit (msgKind m) = 0
  let uncovered (e : Nat × Voice) : Nat × Voice := if e.1 = 1024 * bank + word / 96 then (e.1, { e.2 with ckptBad := true }) else e
  (s.kiln.raised = [] → s.memPowered mem bank = false → goesTo s)
  ∧ (s.memPowered mem bank = true →
      (errors = 0 → s.kiln.raised = [] → goesTo known)
      ∧ (errors = 1 → quiet m1 → goesTo (known.noted m1 0 1 0))
      ∧ (2 ≤ errors → mem ∉ [1, 2, 6, 8, 12, 13, 14, 15] → quiet m2 → goesTo (s.noted m2 0 1 0))
      ∧ (2 ≤ errors → (mem = 14 ∨ mem = 2 ∧ s.part.variant.regionCount ≠ 1) → Heard s m2 → FreeSet s m2 → goesTo (s.captured m2 0 1))
      ∧ (2 ≤ errors → mem = 1 → word / 96 < 1024 → quiet m2 →
          goesTo (({ s with mash.voices := s.mash.voices.map uncovered } : State).noted m2 0 1 0))
      ∧ (2 ≤ errors → mem = 13 → Heard s m2 → FreeSet s m2 →
          goesTo (({ s with mem.badScratch := (s.mem.badScratch.filter (· != word)) ++ [word] } : State).captured m2 0 1))
      ∧ (2 ≤ errors → mem = 15 → quiet m2 →
          goesTo (({ s with kiln.log := s.kiln.log.modify (word / 4) fun (r : LogRec) => { r with bad := true } } : State).noted m2 0 1 0))
      ∧ (2 ≤ errors → (mem = 6 ∨ mem = 8) →
          (both = false → quiet m3 → goesTo (found.noted m3 0 1 0)) ∧ (both = true → Heard s m3 → FreeSet s m3 → goesTo (found.captured m3 0 1))))

/-- A bank leaves retention with its content, or off through a clear to zero words (R582, R583).
A command whose event cannot arise in the state changes nothing: the model's choice (log 24). -/
def Says.BankPowerStates : Prop := ∀ (s : State) (b : Nat), b < 12 → s.mem.banks.length = 12 → s.clocked = true → s.kiln.raised = [] →
  (∀ o ∈ s.mem.stalled, scratchBank o.word ≠ b) →
  let words := fun (t : State) (k : Nat) => if b < 8 then sget (fun _ => 0) t.mem.sys k else t.scratchWord k
  let first := if b < 8 then b * 16384 else (b - 8) * 8192
  let size := if b < 8 then 16384 else 8192
  let cleared (t : State) (p : BankPower) : Prop := t.bank b = p ∧ (∀ c, c ≠ b → t.bank c = s.bank c)
    ∧ (∀ k, first ≤ k → k < first + size → words t k = 0) ∧ (∀ k, (k < first ∨ first + size ≤ k) → words t k = words s k)
    ∧ t = { s with mem := t.mem }
  (s.bank b = .exiting → exec (.bankPowerUpEnd b) s = .next { s with mem.banks := s.mem.banks.set b .on })
  ∧ (s.bank b = .powering → ∃ t, exec (.bankPowerUpEnd b) s = .next t ∧ cleared t .clearing)
  ∧ (s.bank b = .clearing → ∃ t, exec (.bankClearDone b) s = .next t ∧ cleared t .on)
  ∧ (s.bank b = .on → exec (.bankPowerUpEnd b) s = .next s ∧ exec (.bankClearDone b) s = .next s)

/-- AtomicOperations, MemoryScrub and BankPowerStates, above, hold. -/
def Obligations.OnChipMemories : Prop := Says.AtomicOperations ∧ Says.MemoryScrub ∧ Says.BankPowerStates

/-- A good character reaches the frame; one without a stop bit sets FERR, counts and spoils the frame; one that finds the FIFO full
overwrites the newest and sets OVR (R559 to R563). -/
def Says.UartCharacter : Prop := ∀ (s : State) (x : Nat) (c : RxChar), x < 2 → s.uarts.length = 2 → s.lineHears x = true →
  (s.uart x).newSettings = true →
  let b := bUART0 + x
  let u := s.uart x
  let block := max 1 (bits (s.regN b 0xC) 16 11)
  let parity := bits (nthW u.active 0).toNat 2 2
  let fine := c.stopOk = true ∧ (parity = 0 ∨ c.parityOk = true)
  let frames (bad : Bool) : State := { s with uarts := s.uarts.set x { u with
      frame := u.frame ++ [c.byte]
      frameBad := u.frameBad || bad
      partialBlock := (u.partialBlock + 1) % block } }
  (fine → c.noise = false → u.fifo = [] → c.stalled = false →
      ∃ t, exec (.uartCharacter x c) s = .next t ∧ (∀ k o, t.reg k o = s.reg k o) ∧ t = { frames false with regs := t.regs })
  ∧ (c.stopOk = false → c.noise = false → (parity = 0 ∨ c.parityOk = true) → u.fifo = [] → c.stalled = false →
      ∃ t, exec (.uartCharacter x c) s = .next t ∧ t = { frames true with regs := t.regs } ∧ t.reg b 0x10 = setBit (s.reg b 0x10) 9
        ∧ t.reg b 0x18 = countField (s.reg b 0x18) 16 16 1)
  ∧ (fine → c.noise = false → u.fifo.length = 32 → c.stalled = true →
      ∃ t, exec (.uartCharacter x c) s = .next t ∧ t.reg b 0x10 = setBit (s.reg b 0x10) 8 ∧ t.reg b 0x18 = countField (s.reg b 0x18) 0 16 1
        ∧ t = { s with
          regs := t.regs
          uarts := s.uarts.set x { u with fifo := u.fifo.take 31 ++ [(c.byte, false)], frameBad := true } })

/-- The timeout ends a frame that is under way (R563); a queued response goes out with DE raised, and DE falls after the tail (R564).
A command whose event cannot arise in the state changes nothing: the model's choice (log 24). -/
def Says.UartLine : Prop := ∀ (s : State) (x : Nat), x < 2 → s.uarts.length = 2 →
  let u := s.uart x
  let block := max 1 (bits (s.regN (bUART0 + x) 0xC) 16 11)
  let ctrl := [s.reg (bUART0 + x) 0, s.reg (bUART0 + x) 4]
  (s.lineOn x = true → u.fifo = [] → 0 < u.partialBlock → u.partialBlock < block →
      exec (.uartTimeout x) s = .next { s with uarts := s.uarts.set x { u with
        ready := u.ready ++ [(u.frame, u.frameBad)]
        frame := []
        frameBad := false
        partialBlock := 0 } })
  ∧ (s.lineOn x = true → u.fifo = [] → u.partialBlock = 0 → exec (.uartTimeout x) s = .next s)
  ∧ (∀ f rest, s.lineOn x = true → u.outq = f :: rest →
      exec (.uartTransmit x) s = .next { s with uarts := s.uarts.set x { u with
        outq := rest
        lastTx := f
        de := true
        active := if u.newSettings then u.active else u.active.take 2 ++ ctrl
        newSettings := u.newSettings && !rest.isEmpty } })
  ∧ (s.lineOn x = true → u.outq = [] → exec (.uartTransmit x) s = .next s)
  ∧ (s.lineUp x = true → exec (.uartDeTail x) s = .next { s with uarts := s.uarts.set x { u with de := false } })

/-- UartCharacter and UartLine, above, hold. -/
def Obligations.UartLines : Prop := Says.UartCharacter ∧ Says.UartLine

/-- A frame with a bad length or CRC counts and is dropped, one for another position is ignored, a PING to this position is answered by a
frame of ADDR 0x80 + position, one to all positions without an answer (R567 to R571). -/
def Obligations.UartFrames : Prop := ∀ (s : State) (x : Nat) (f : List Byte) (bad : Bool) (rest : List (List Byte × Bool)),
  x < 2 → s.uarts.length = 2 → s.canTake = true → s.lineServed x = true → s.fw.replies = [] → s.kiln.raised = [] →
  (s.uart x).ready = (f, bad) :: rest → ∀ rd : List PageFault,
  let b := bUART0 + x
  let u := s.uart x
  let taken (out : List (List Byte)) : State := { s with uarts := s.uarts.set x { u with ready := rest, outq := u.outq ++ out } }
  let c := frameCmd x s.ownPosition f
  let good := bad = false ∧ frameGood f = true
  (bad = true ∨ frameGood f = false →
      ∃ t, exec (.uartFrame x rd) s = .next t ∧ t = { taken [] with regs := t.regs } ∧ t.reg b 0x14 = countField (s.reg b 0x14) 16 16 1)
  ∧ (good → u8 f 0 ≠ 0x0F → u8 f 0 ≠ s.ownPosition → exec (.uartFrame x rd) s = .next (taken []))
  ∧ (good → u8 f 0 = s.ownPosition → u8 f 0 ≠ 0x0F → c.opcode = 0x02 → s.refusal c = none →
      ∃ t, exec (.uartFrame x rd) s = .next t ∧ t.reg b 0x14 = countField (s.reg b 0x14) 0 16 1
        ∧ t = { taken [lineFrame s.ownPosition (header 0x02 c.session c.seq 3 :: [okWord, w32 s.time, w32 (s.time / 2 ^ 32)])] with
            regs := t.regs })
  ∧ (good → u8 f 0 = 0x0F → c.opcode = 0x02 → s.refusal c = none →
      ∃ t, exec (.uartFrame x rd) s = .next t ∧ t.reg b 0x14 = countField (s.reg b 0x14) 0 16 1 ∧ t = { taken [] with regs := t.regs })

/-- At its update tick a DAC takes its range with its Cask code, its VALUE, its queue's next code or the sine's next code; an empty queue
holds the code and counts (R514 to R518). The tick is one of its grid, after its last one, inside the block under way. -/
def Obligations.DacUpdate : Prop := ∀ (s : State) (d t : Nat), s.dacRuns d = true → s.dacTurn d = some t → s.dacs.length = 4 →
  let k := s.dac d
  let cfg := s.dacN d 0
  let bip := bit cfg 3
  let now : State := { s with time := max s.time t }
  let src := bits cfg 0 2
  let sized (x : DacState) : DacState := { x with
    gain2 := if src = 0 then s.pwr.shadow.dacRange.testBit d else bit cfg 2
    refExt := src != 0 && bit (s.regN bDAC 0) 0 }
  let sets (x : DacState) : Prop := exec (.dacUpdate d) s = .next { now with dacs := s.dacs.set d (sized x) }
  (src = 0 → sets { k with raw := nth s.pwr.shadow.dacPwrup d, cask := true, sine := false, lastTick := some t })
  ∧ (src = 1 → sets { k with raw := rawCode bip (s.dacN d 4), cask := false, sine := false, lastTick := some t })
  ∧ (∀ c rest, src = 2 → k.queue = c :: rest →
      sets { k with raw := rawCode bip c, queue := rest, cask := false, sine := false, lastTick := some t })
  ∧ (src = 2 → k.queue = [] → ∃ u, exec (.dacUpdate d) s = .next u ∧ u.reg bDAC (dacReg d 0xC) = countField (s.reg bDAC (dacReg d 0xC)) 16 16 1
      ∧ u = { now with regs := u.regs, dacs := s.dacs.set d (sized { k with cask := false, sine := false, lastTick := some t }) })
  ∧ (src = 3 → ∃ c, c < 4096 ∧ sets { k with
        raw := c
        phase := ((if k.sine then k.phase else s.dacN d 0x18) + s.dacN d 0x10) % 2 ^ 32
        cask := false
        sine := true
        lastTick := some t })
  ∧ (s.lastBlock * 4096 ≤ t ∧ t < s.lastBlock * 4096 + 4096 ∧ t % 64 = 0 ∧ ∀ l, k.lastTick = some l → l < t)

/-- A prescaler carry adds one to the count; without a match and without a cluster nothing else changes; a compare that the count
reaches raises its event (R537, R539 to R541). -/
def Says.TimerStep : Prop := ∀ (s : State) (u : Nat), u < 4 → s.timersRun = true → bit (s.tmrN u 0) 0 = true →
  bits (s.tmrN u 0) 1 3 ≤ 3 → s.tmr.length = 4 → (s.unit u).phase < 2 ^ 32 →
  let new := (s.tmrN u 8 + 1) % 2 ^ 32
  let free := ∀ c < 3, ¬ (bit (s.tclN c 0) 0 = true ∧ bits (s.tclN c 0) 1 2 = u)
  let phase := ((s.unit u).phase + s.edgesToCarry u * s.unitInc u) % 2 ^ 32
  ((∀ k < 4, s.tmrN u (0x10 + 8 * k) ≠ new) → free →
      exec (.timerStep u) s = .next
        (({ s with tmr := s.tmr.set u { s.unit u with phase := phase } } : State).setReg bTIMER (tmrReg u 8) (w32 new)))
  ∧ (∀ k < 4, s.tmrN u (0x10 + 8 * k) = new →
      ∃ t, exec (.timerStep u) s = .next t ∧ t.tmrN u 8 = new ∧ bit (t.regN bTIMER 0xC) (4 * u + k) = true)

/-- An accepted edge below CAP_DIV is counted; the one at CAP_DIV stores the count of the cycle in which its level first showed, up to
CAP_FILT steps before, raises the capture event, and the overrun event where the one before still stands; an edge that CAP_EDGE does
not select is none (R544, R545).
A command whose event cannot arise in the state changes nothing: the model's choice (log 24). -/
def Says.TimerCaptures : Prop := ∀ (s : State) (u late : Nat) (rising : Bool), bits (s.tmrN u 0) 1 3 ≠ 4 → s.tmr.length = 4 →
  let div := bits (s.tmrN u 0) 16 8
  (s.timersRun = true → u < 4 → (s.captureOn u rising = true ↔
      bits (s.tmrN u 0) 6 2 = 2 ∨ bits (s.tmrN u 0) 6 2 = 0 ∧ rising = true ∨ bits (s.tmrN u 0) 6 2 = 1 ∧ rising = false))
  ∧ (s.captureOn u rising = false → exec (.captureInputEdge u rising) s = .next s ∧ exec (.timerCapture u rising late) s = .next s)
  ∧ (s.captureOn u rising = true →
  ((s.unit u).edges < div →
      exec (.captureInputEdge u rising) s = .next { s with tmr := s.tmr.set u { s.unit u with edges := (s.unit u).edges + 1 } })
  ∧ (div ≤ (s.unit u).edges → late ≤ bits (s.tmrN u 0) 8 8 →
      ∃ t, exec (.timerCapture u rising late) s = .next t ∧ t.reg bTIMER (tmrReg u 0xC) = s.reg bTIMER (tmrReg u 8) - w32 late
        ∧ bit (t.regN bTIMER 0xC) (16 + u) = true
        ∧ bit (t.regN bTIMER 0xC) (20 + u) = (bit (s.regN bTIMER 0xC) (20 + u) || bit (s.regN bTIMER 0xC) (16 + u))
        ∧ t = { s with regs := t.regs, tmr := s.tmr.set u { s.unit u with edges := 0 } })
  ∧ ((s.unit u).edges < div → exec (.timerCapture u rising late) s = .next s))

/-- In standby device time goes on by 750 at each LF tick, and a unit on ticks counts 750 of them; elsewhere the tick is nothing (R538).
A command whose event cannot arise in the state changes nothing: the model's choice (log 24). -/
def Says.StandbyTick : Prop := ∀ (s : State),
  (s.pwr.phase ≠ .standby → exec .standbyLfTick s = .next s)
  ∧ (s.pwr.phase = .standby → (∀ u < 4, bit (s.tmrN u 0) 0 = false) → exec .standbyLfTick s = .next { s with time := s.time + 750 })
  ∧ (s.pwr.phase = .standby → s.tmr.length = 4 → (∀ u, 1 ≤ u → u < 4 → bit (s.tmrN u 0) 0 = false) → bit (s.tmrN 0 0) 0 = true →
      bits (s.tmrN 0 0) 1 3 = 0 → s.tmrN 0 4 = 0 → (s.unit 0).phase = 0 →
      (∀ k < 4, (s.tmrN 0 (0x10 + 8 * k) + 2 ^ 32 - s.tmrN 0 8 - 1) % 2 ^ 32 ≥ 750) → (∀ c < 3, bit (s.tclN c 0) 0 = false) →
      ∃ t, exec .standbyLfTick s = .next t ∧ t.time = s.time + 750 ∧ t.tmrN 0 8 = (s.tmrN 0 8 + 750) % 2 ^ 32)

/-- TimerStep, TimerCaptures and StandbyTick, above, hold. -/
def Obligations.TimerUnits : Prop := Says.TimerStep ∧ Says.TimerCaptures ∧ Says.StandbyTick

/-- A pin shows an edge only where its level changes and its filter has passed since the one before. A tooth edge starts synchronising an
unsynced tracker and leaves those alone whose source is off; in SYNCED an interval inside the ratio limits moves on to the next tooth
and one outside loses sync with cause 1. Edges on both pins of a pair in one core cycle lose a quadrature tracker's sync with cause 4
(R151, R152, R155 to R157, R161, R169, R176, R178).
A command whose event cannot arise in the state changes nothing: the model's choice (log 24). -/
def Says.ToothEdges : Prop := ∀ (s : State) (p n cycle : Nat) (level : Bool), p < 4 → n < 4 → s.tracksEdges = true →
  s.tbs.length = 4 → s.tbPins.length = 4 →
  let c := s.tbCfg n
  let k := s.tracker n
  let period := cycle - k.lastEdge.getD cycle
  let wraps := c.teeth ≤ k.tooth + 1
  let span := c.angleOf (if wraps then k.rev + 1 else k.rev) (if wraps then 0 else k.tooth + 1) - c.angleOf k.rev k.tooth
  let plain := c.source = 1 ∧ p = c.pin ∧ s.pinActive p level = true ∧ c.dirMode = false ∧ c.refEn = false
  let synced := plain ∧ k.now = 3 ∧ k.reverse = false ∧ c.gap = 0 ∧ 1 ≤ k.valid
  (s.edgeFits p level cycle = false → ∀ both, exec (.tbEdge p level cycle both) s = .next s)
  ∧ ((s.pinOf p).2 ≠ 0 → (level = (s.pinOf p).1 ∨ cycle < (s.pinOf p).2 + 4 * bits (s.regN bTIMEBASE 0) (8 * p + 1) 7 + 1) →
      s.edgeFits p level cycle = false)
  ∧ (s.edgeFits p level cycle = true → s.edgeFits (p + 1) (!(s.pinOf (p + 1)).1) cycle = true → p % 2 = 0 → c.source = 2 → c.pin = p →
      c.refEn = false → k.now = 3 →
      ∃ t, exec (.tbEdge p level cycle true) s = .next t ∧ (t.tracker n).now = 2 ∧ (t.tracker n).cause = 4
        ∧ (t.tracker n).losses = min 0xFFFF (k.losses + 1) ∧ (t.tracker n).tooth = k.tooth ∧ (t.tracker n).rev = k.rev)
  ∧ (s.edgeFits p level cycle = true → ∃ t, exec (.tbEdge p level cycle false) s = .next t ∧ t.time = max s.time (cycle / 18) ∧ t.tbPins = s.tbPins.set p (level, cycle)
    ∧ (c.source = 0 → t.tracker n = k)
    ∧ (plain → k.now = 1 → k.reverse = false →
        t.tracker n = { k with
          lastInput := cycle
          quiet := false
          nextState := some 2
          valid := 0
          refSeen := false
          quad := []
          lastEdge := some cycle
          tooth := 0
          rev := 0
          newRef := none })
    ∧ (synced → c.toothOk k period = false →
        (t.tracker n).now = 2 ∧ (t.tracker n).cause = 1 ∧ (t.tracker n).losses = min 0xFFFF (k.losses + 1) ∧ (t.tracker n).valid = 0)
    ∧ (synced → c.toothOk k period = true → overspeed span period = false →
        let m := rndDiv (span * 2 ^ tbF) (max 1 period : Nat)
        (t.tracker n).now = 3 ∧ (t.tracker n).lastEdge = some cycle ∧ (t.tracker n).p = period
        ∧ (t.tracker n).tooth = (if wraps then 0 else k.tooth + 1) ∧ (t.tracker n).rev = (if wraps then k.rev + 1 else k.rev)
        ∧ (t.tracker n).w = if k.first then m else k.w + rndShift (m - k.w) c.sShift))

/-- TB_STALL notes STALL_MS without an edge, or HOST_MS without an update of a host-fed tracker; before that nothing happens. The next
boundary then takes a SYNCED tracker to STALLED and a SYNCING one to UNSYNCED, and one that had an input in time to neither (R175, R188).
A command whose event cannot arise in the state changes nothing: the model's choice (log 24). -/
def Says.TrackerStalls : Prop := ∀ (s : State) (n : Nat), n < 4 → s.tracksEdges = true → s.tbs.length = 4 →
  let c := s.tbCfg n
  let k := s.tracker n
  let gone := 18 * s.time - k.lastInput
  let notes : Prop := exec (.tbStall n) s = .next { s with tbs := s.tbs.set n { k with quiet := true } }
  (c.source ≠ 3 → c.stallMs * 442368 ≤ gone → (k.now = 2 ∨ k.now = 3) → notes)
  ∧ (c.source = 3 → c.hostMs * 442368 ≤ gone → k.now = 3 → notes)
  ∧ (c.source ≠ 3 → gone < c.stallMs * 442368 → exec (.tbStall n) s = .next s)
  ∧ (∀ b, (k.quiet = true → k.now = 3 → (k.boundary c b none).1.state = 4) ∧ (k.quiet = true → k.now = 2 → (k.boundary c b none).1.state = 1)
      ∧ (k.quiet = false → c.source ≠ 3 → 73728 * b - k.lastInput < c.stallMs * 442368 → (k.boundary c b none).1.state = k.now))

/-- ToothEdges and TrackerStalls, above, hold. -/
def Obligations.Trackers : Prop := Says.ToothEdges ∧ Says.TrackerStalls

/-- An output frame carries 0 where its lane is off, the slot does not exist or the part is in the safe state; a 32-bit direct slot at
96 kHz carries its Wort channel's sample, 48 frames and DEPTH back; every slot keeps to its width (R235 to R237). -/
def Says.TdmoFrames : Prop := ∀ (s : State) (f : Nat), s.outTurn = some f →
  let ctrl := s.regN bTDMO 0
  ∃ t, exec .tdmoFrame s = .next t
    ∧ t = { s with time := max s.time (f * 256), tdm.sent := t.tdm.sent, tdm.outNext := f + if bit ctrl 1 then 2 else 1 }
    ∧ (∀ k < 64, (s.kiln.safe = true ∨ bit ctrl (12 + k / 16) = false ∨ slotCount ctrl ≤ k % 16) → nthI t.tdm.sent k = 0)
    ∧ (∀ k < 64, nthI t.tdm.sent k % 2 ^ (32 - slotWidth ctrl) = 0 ∧ -(2 ^ 31) ≤ nthI t.tdm.sent k ∧ nthI t.tdm.sent k < 2 ^ 31)
    ∧ (∀ k < 64, let map := bits (s.regN bTDMO (0x10 + 0x10 * (k / 16) + k % 16 / 4 * 4)) (8 * (k % 16 % 4)) 8
        s.kiln.safe = false → bit ctrl (12 + k / 16) = true → k % 16 < slotCount ctrl → bit ctrl (16 + k / 16) = true →
        slotWidth ctrl = 32 → bit ctrl 1 = false → bit map 7 = true → 48 + s.depth ≤ f →
        nthI t.tdm.sent k = satI (-(2 ^ 31)) (2 ^ 31 - 1) (s.wortAt (f - (48 + s.depth)) (bits map 0 5)))

/-- Two whole frames lock the input; a locked input presents each frame's words, cut to the slot width; a slip unlocks it, counts and is
an event (R243 to R245). -/
def Says.TdmiFrames : Prop := ∀ (s : State) (slots : List Word), s.inputOn = true →
  let ctrl := s.regN bTDMI 0
  let ws := (List.range 32).map fun k =>
    if k % 16 < slotCount ctrl then w32 ((nthW slots k).toNat / 2 ^ (32 - slotWidth ctrl) * 2 ^ (32 - slotWidth ctrl)) else 0
  let next := s.time / 256 + 1
  (s.tdm.locked = true →
      exec (.tdmiFrame slots) s = .next { s with tdm.inPrev := s.tdm.inLast, tdm.inLast := ws, tdm.inFrame := s.tdm.inFrame + 1 })
  ∧ (s.tdm.locked = false → s.tdm.good = 0 → exec (.tdmiFrame slots) s = .next { s with tdm.good := 1 })
  ∧ (s.tdm.locked = false → s.tdm.good ≠ 0 →
      exec (.tdmiFrame slots) s = .next
        { s with
          tdm.good := 0
          tdm.locked := true
          tdm.inLast := ws
          tdm.inFrame := 0
          tdm.inPhase := if bit ctrl 1 then (next + 1) / 2 * 2 else next })
  ∧ (ClearToPost s 1 →
      let n := min (bits (s.regN bTDMI 4) 16 16 + 1) 65535
      ∃ t, exec .tdmiSlip s = .next t ∧ Posts s t 0x85 0 [w32 n] ∧ bits (t.regN bTDMI 4) 16 16 = n ∧ bit (t.regN bTDMI 4) 1 = true
        ∧ t.offRings = ({ s with
            regs := t.regs
            tdm.good := 0
            tdm.locked := false
            tdm.inPrev := if s.tdm.locked then s.tdm.inLast else s.tdm.inPrev } : State).offRings)

/-- TdmoFrames and TdmiFrames, above, hold. -/
def Obligations.TdmLanes : Prop := Says.TdmoFrames ∧ Says.TdmiFrames

/-- A device that has not entered RUN sends frame f with its header, the time of the frame, its election words and the CRC, and a frame
that it sends is good to a receiver; a good frame received in SEEK extends the good run and gives the neighbour's election words, a bad
one counts and is reported (R587 to R591, R593).
A command whose event cannot arise in the state changes nothing: the model's choice (log 24). -/
def Obligations.ChainFrames : Prop := ∀ (s : State) (ws : List Word) (win : Bool), s.linkOn = true → s.chain.enteredRun = false →
  let f := s.chain.txFrame
  let m := mkMsg 0 0 kChainCrc 0 0 (max s.time ((f + 1) * 256) / 4096)
  let listens := s.kiln.raised = [] ∧ s.linkReset 4 = false ∧ s.chain.rxFrame < f ∧ s.linkState = 1
  (∀ g, s.frameTurn f = some g → f ≤ s.chain.rxFrame → s.linkReset 5 = false →
      let id := s.offer.id.toNat
      ∃ t out, exec .chainFrameTransmit s = .next t
        ∧ t = { s with
          time := max s.time (g * 256)
          chain := { s.chain with txFrame := g, txWords := out, ownStart := none, starts := t.chain.starts } }
        ∧ out.length = 64 ∧ chainGood out true = true
        ∧ nthW out 0 = w32 (0xC3A50000 + 0x1000 * bits (s.regN bCHAIN 0) 0 2 + 0x100 * s.linkState + g % 256)
        ∧ nthW out 1 = w32 (g * 256) ∧ nthW out 2 = w32 (g * 256 / 2 ^ 32)
        ∧ nthW out 4 = w32 id ∧ nthW out 5 = w32 (id / 2 ^ 32) ∧ bits (nthW out 3).toNat 2 2 = s.offer.hops % 4
        ∧ bits (nthW out 3).toNat 4 2 = s.offer.n % 4
        ∧ (s.chain.ownStart = none → byteOf (nthW out 7) 0 = 0 ∧ t.chain.starts = s.chain.starts))
  ∧ (listens → chainGood ws win = true →
      ∃ t, exec (.chainFrameReceive ws win) s = .next t
        ∧ t = { s with time := max s.time ((f + 1) * 256), chain := t.chain, regs := t.regs }
        ∧ t.chain.rxGood = true ∧ t.chain.rxWords = ws ∧ t.chain.rxFrame = f ∧ t.chain.goodRun = s.chain.goodRun + 1 ∧ t.chain.badRun = 0
        ∧ t.chain.heard = some ⟨BitVec.ofNat 64 ((nthW ws 4).toNat + (nthW ws 5).toNat * 2 ^ 32), bits (nthW ws 3).toNat 2 2,
            bits (nthW ws 3).toNat 4 2⟩
        ∧ t.linkState = (if 16 ≤ s.chain.goodRun + 1 then 2 else 1)
        ∧ ∀ b o, (b, o) ≠ (bCHAIN, 0x30) → o < 0x10000 → t.reg b o = s.reg b o)
  ∧ (listens → chainGood ws win = false → Heard s m → s.kindLimit kChainCrc = 0 →
      ∃ t, exec (.chainFrameReceive ws win) s = .next t ∧ t.chain.rxGood = false ∧ t.chain.goodRun = 0
        ∧ t.chain.badRun = s.chain.badRun + 1 ∧ t.chain.heard = s.chain.heard ∧ t.linkState = 1
        ∧ t.reg bCHAIN 0x34 = countField (s.reg bCHAIN 0x34) 0 16 1
        ∧ t.kiln.log = s.kiln.log ++ [⟨m, max s.time ((f + 1) * 256), 8, 1, 0, 7, s.kiln.seq, false⟩] ∧ t.host = s.host ∧ t.mash = s.mash)
  ∧ (s.kiln.raised = [] → s.chain.txFrame ≤ s.chain.rxFrame → exec (.chainFrameReceive ws win) s = .next s)

/-- ALIGN_ADOPT: an idle device in ALIGN whose last good frame says that its sender is aligned takes that time and enters RUN (R594).
GLOBAL_START_RELEASE lets a start go four frames after the frame that sent it, where ACCEPT is set: a named unit runs with its
prescaler at 0, a named cluster from count 0 upwards, TMR_GSTAT takes the time, and what is not named stays (R551, R552, R597).
A command whose event cannot arise in the state changes nothing: the model's choice (log 24). -/
def Obligations.ChainTimes : Prop := ∀ (s : State),
  let at' := (nthW s.chain.rxWords 1).toNat + (nthW s.chain.rxWords 2).toNat * 2 ^ 32
  (s.mayAdopt = true →
      ∃ t, exec .alignAdopt s = .next t ∧ t.time = at' ∧ t.lastBlock = at' / 4096 ∧ t.linkState = 4 ∧ t.chain.enteredRun = true
        ∧ t.chain.txFrame = at' / 256 - 1 ∧ t.chain.rxFrame = at' / 256 - 1 ∧ t.chain.realign = true ∧ t.host.mailbox = s.host.mailbox
        ∧ t.store.flash = s.store.flash ∧ t.mem = s.mem ∧ t.mash.voices = s.mash.voices
        ∧ (s.chain.enteredRun = false → t.chain.rootId = s.offer.id ∧ t.chain.ringN = s.offer.n % 4
            ∧ bits (t.regN bCHAIN 0x30) 4 2 = s.offer.hops % 4 ∧ bits (t.regN bCHAIN 0x30) 6 2 = s.offer.n % 4))
  ∧ (s.mayAdopt = false → exec .alignAdopt s = .next s)
  ∧ (∀ f mask, s.isReady = true → s.chain.starts = [(f, mask)] → s.tmr.length = 4 → s.tcl.length = 3 →
      (16 * s.lastBlock + 16 ≤ f + 4 → exec .globalStartRelease s = .next s)
      ∧ (f + 4 < 16 * s.lastBlock + 16 →
        let u : State := { s with time := max s.time ((f + 4) * 256), chain.starts := [] }
        (bit (s.regN bTIMER 4) 0 = false → exec .globalStartRelease s = .next u)
        ∧ (bit (s.regN bTIMER 4) 0 = true →
          ∃ t, exec .globalStartRelease s = .next t ∧ t = { u with regs := t.regs, tmr := t.tmr, tcl := t.tcl }
            ∧ t.reg bTIMER 8 = w32 u.time
            ∧ (∀ k < 4, (bit mask k = true →
                  t.reg bTIMER (tmrReg k 0) = s.reg bTIMER (tmrReg k 0) ||| 1#32 ∧ (t.unit k).phase = 0 ∧ (t.unit k).edges = 0)
                ∧ (bit mask k = false → t.reg bTIMER (tmrReg k 0) = s.reg bTIMER (tmrReg k 0) ∧ t.unit k = s.unit k))
            ∧ (∀ c < 3, (bit mask (4 + c) = true →
                  t.reg bTIMER (tclReg c 0) = s.reg bTIMER (tclReg c 0) ||| 1#32 ∧ t.reg bTIMER (tclReg c 0xC) = 0
                    ∧ (t.cluster c).down = false)
                ∧ (bit mask (4 + c) = false →
                  t.reg bTIMER (tclReg c 0) = s.reg bTIMER (tclReg c 0) ∧ t.cluster c = s.cluster c)))))

/-! ### The Kiln (chapter 09) -/

/-- A message of class C1 or C2 whose unit contains nothing: the free capture set takes it, a held one merges it, and the action
configured for its kind waits for its timer (R328 to R333). One of the die link moves its traffic to the other lane, one of a unit
built as two copies disables the copy it names, and one of the last copy is LAST_COPY, which enters the safe state (R18, R312, R316). -/
def Says.KilnMessages : Prop := ∀ (s : State) (m : BitVec 64) (master access : Nat), Heard s m →
  let plain := msgKind m ∉ [kVpeCheck, kClusterMixer, kMemUncorrectable, kSwitchHalf, kRegionQuarantine, kDieLink, kCpuCheck, kCopyCompare, kCopperCore]
  let goesTo (u : State) : Prop := exec (.kilnMessage m master access false) s = .next u
  let merged : State := { s.noted m master access 2 with
    kiln.cap.merged := min (s.kiln.cap.merged + 1) 255
    kiln.cap.cls := max s.kiln.cap.cls (msgClass m) }
  let act := s.kindAction (msgKind m)
  let waits : PendAct := ⟨m, s.kiln.seq, act, s.time + s.kindTimer (msgKind m) * 24576⟩
  let room := s.kiln.acts.length < 8 ∧ s.kiln.ready = []
  (plain → msgClass m = 1 ∨ msgClass m = 2 →
      (FreeSet s m → goesTo (s.captured m master access))
      ∧ (s.kiln.cap.valid = true → s.kiln.ready = [] → act = 0 → goesTo merged)
      ∧ (s.kiln.cap.valid = false → act ≠ 0 → s.kiln.safe = false → room →
          goesTo { s.captured m master access with kiln.acts := s.kiln.acts ++ [waits] })
      ∧ (s.kiln.cap.valid = true → act ≠ 0 → s.kiln.safe = false → room → goesTo { merged with kiln.acts := s.kiln.acts ++ [waits] }))
  ∧ (plain → msgClass m = 0 →
      let n := sget (fun _ => 0) s.kiln.c0Win (msgKind m) + 1
      (s.kindLimit (msgKind m) = 0 → goesTo (s.noted m master access 0))
      ∧ (s.kindLimit (msgKind m) ≠ 0 → (n ≤ s.kindLimit (msgKind m) ∨ msgKind m ∈ s.kiln.c0Told) →
          goesTo { s.noted m master access 0 with kiln.c0Win := sput (fun _ => 0) s.kiln.c0Win (msgKind m) n }))
  ∧ (plain → msgClass m = 3 → s.kiln.safe = false → s.fw.diag = none → s.kiln.cap.valid = false → s.pwr.latch = none →
      goesTo ({ s.captured m master access with pwr.latch := some (m, s.time % 2 ^ 32) } : State).safeNow)
  ∧ (msgKind m = kDieLink → msgLevel m = 2 → msgClass m = 1 → FreeSet s m →
      goesTo (({ s with pwr.lanes := s.pwr.lanes.set (msgDetail m % 2) false } : State).captured m master access))
  ∧ (msgKind m = kCopyCompare → msgLevel m = 5 → 14 ≤ msgIndex m → msgIndex m < 28 → msgDetail m % 2 = 1 → msgClass m = 1 →
      s.mash.disabled = [] → FreeSet s m →
      goesTo (({ s with mash.disabled := [msgIndex m] } : State).captured m master access))
  ∧ (let last := mkMsg 5 (msgIndex m) kLastCopy 3 (msgKind m) (blockOf s.time)
     msgKind m = kCopyCompare → msgLevel m = 5 → 12 ≤ msgIndex m → msgIndex m < 32 →
      s.mash.disabled.contains (otherCopy (msgIndex m)) = true → s.kiln.safe = false → s.fw.diag = none → s.kiln.cap.valid = false →
      s.pwr.latch = none → Heard s last →
      goesTo ({ s.captured last master access with pwr.latch := some (last, s.time % 2 ^ 32) } : State).safeNow)

/-- A message of a block under reset is masked, a transient one for which its detector has no room is dropped and counted, one inside a consequential window is only logged, one of a reserved kind is no
message, and before READY only the analog die's own C3 messages reach the latch (R319, R322, R340, R341, R345). -/
def Says.KilnUnheard : Prop := ∀ (s : State) (m : BitVec 64) (master access : Nat), s.kiln.raised = [] →
  let goesTo (u : State) : Prop := exec (.kilnMessage m master access false) s = .next u
  (s.masked m = true → msgClass m ≠ 3 → goesTo s)
  ∧ (s.isReady = true → s.masked m = false → msgClass m = 0 →
      exec (.kilnMessage m master access true) s = .next (s.countReg bKILN 4 16 16 1))
  ∧ (kindReserved (msgKind m) = true → s.isReady = false → goesTo s)
  ∧ (s.isReady = false → kindReserved (msgKind m) = false → msgLevel m ≤ 5 →
      (¬ (msgClass m = 3 ∧ msgLevel m = 2 ∧ msgIndex m = 1) → goesTo s)
      ∧ (msgClass m = 3 → msgLevel m = 2 → msgIndex m = 1 → s.pwr.latch = none → goesTo { s with pwr.latch := some (m, s.time % 2 ^ 32) })
      ∧ (s.pwr.latch ≠ none → goesTo s))
  ∧ (s.isReady = true → kindReserved (msgKind m) = false → msgLevel m ≤ 5 → s.masked m = false → s.consequential m = true →
      s.kiln.log.length < 1024 →
      msgKind m ∉ [kVpeCheck, kClusterMixer, kMemUncorrectable, kSwitchHalf, kRegionQuarantine, kDieLink, kCpuCheck, kCopyCompare, kCopperCore] →
      goesTo { s.noted m master access 4 with
        kiln.cap.conseq := if s.kiln.cap.valid then min (s.kiln.cap.conseq + 1) 255 else s.kiln.cap.conseq })

/-- KilnMessages and KilnUnheard, above, hold. -/
def Obligations.KilnTakes : Prop := Says.KilnMessages ∧ Says.KilnUnheard

/-- ACTION_DEADLINE: expired actions wait for the boundary (R333). BLOCK_RESET_END: the reset ends, its consequential window lasts to
the second boundary after, and the block is restored (R338, R341).
A command whose event cannot arise in the state changes nothing: the model's choice (log 24). -/
def Obligations.KilnTimers : Prop := ∀ (s : State) (target : Nat) (a : PendAct), s.isReady = true → s.kiln.raised = [] →
  let now := max s.time a.deadline
  let windows := s.kiln.windows.map fun (w : BlockWindow) =>
    if w.target = target ∧ w.inReset then { w with inReset := false, until_ := s.lastBlock + 2 } else w
  let left : State := { s with kiln.windows := windows }
  let ends (u : State) : Prop := exec (.blockResetEnd target) s = .next u
  (s.firstAct = some a → a.deadline < 4096 * (s.lastBlock + 1) → (∀ x ∈ s.kiln.acts ++ s.kiln.ready, x.action ≠ actSafe) →
      exec .actionDeadline s = .next
        { s with
          time := now
          kiln.acts := s.kiln.acts.filter fun (x : PendAct) => !(decide (x.deadline ≤ now))
          kiln.ready := s.kiln.ready ++ s.kiln.acts.filter fun (x : PendAct) => decide (x.deadline ≤ now) })
  ∧ ((∃ w ∈ s.kiln.windows, w.target = target ∧ w.inReset = true) →
      (target ∉ [0, 1, 8, 9] → ends left)
      ∧ (target < 2 → ends { left with store.ports := s.store.ports.modify target fun (p : PortState) => { p with failed := false } })
      ∧ (target = 8 → ends (left.spargeRestart s.lastBlock))
      ∧ (target = 9 → ends { left with dacs := s.dacs.map fun (k : DacState) => { k with sine := false } }))
  ∧ ((∀ w ∈ s.kiln.windows, w.target = target → w.inReset = false) → ends s)

/-- ALIVE toggles while its conditions hold and stays otherwise (R342); a missed heartbeat is a message of class C1 (R343); silence on
the die link sets the latch and enters the safe state (R345 to R347).
A command whose event cannot arise in the state changes nothing: the model's choice (log 24). -/
def Says.AliveAndHeartbeat : Prop := ∀ (s : State) (t : Nat),
  let next := t + max 1 (bits s.host.aliveCfg.toNat 8 8) * 24576
  let holds := s.host.aliveCfg.getLsbD 0 = true ∧ s.kiln.hbMissed = none ∧ s.kiln.safe = false
  let u : State := { s with time := max s.time t, pwr.aliveNext := some next }
  let due := s.kiln.hbLast + bits (s.regN bKILN 0) 8 8 * 24576
  let m := mkMsg 2 0 kFwHeartbeat 1 0 0
  let late : State := { s with time := max s.time due, kiln.hbMissed := some (max s.time due) }
  (s.isReady = true → s.pwr.aliveNext = some t → t < 4096 * (s.lastBlock + 1) →
      (holds → exec .aliveToggle s = .next { u with pwr.alive := !s.pwr.alive })
      ∧ (¬ holds → exec .aliveToggle s = .next u))
  ∧ (s.kiln.hbMissed = none → due < 4096 * (s.lastBlock + 1) → Heard s m → FreeSet s m → exec .fwHeartbeat s = .next (late.captured m 3 0))
  ∧ (s.kiln.raised = [] → s.kiln.hbMissed ≠ none → exec .fwHeartbeat s = .next s)
  ∧ (s.pwr.dieWatch = true → s.kiln.safe = false → s.fw.diag = none → s.pwr.latch = none →
      exec .dieLinkSilence s = .next
        ({ s with pwr.latch := some (mkMsg 2 2 kLastCopy 3 0x0C (s.time / 4096), s.time % 2 ^ 32) } : State).safeNow)
  ∧ (s.pwr.dieWatch = false → exec .dieLinkSilence s = .next s)

/-- PIN_READBACK of a pad that is compared is class C3 on the audio outputs and C1 on ALIVE and FAULT_N; of CLD_D and CLD_S it is
CHAIN_BREAK of the downstream link; a pad that is not compared reports nothing (R593, R646).
A command whose event cannot arise in the state changes nothing: the model's choice (log 24). -/
def Says.PinReadback : Prop := ∀ (s : State) (pin : Nat) (e : Bool),
  let m := mkMsg 1 pin kPinReadback (if pin < 4 then 3 else 1) (if pin = 5 then 0 else (if e then 1 else 0)) 0
  let b := mkMsg 0 s.ownPosition kChainBreak 1 1 (s.time / 4096)
  (s.padCompared pin = true → (pin = 4 ∨ pin = 5) → Heard s m → FreeSet s m →
      exec (.pinReadback pin e) s = .next (s.captured m 0 4))
  ∧ (s.padCompared pin = true → pin < 4 → Heard s m → s.kiln.safe = false → s.fw.diag = none → s.kiln.cap.valid = false →
      s.pwr.latch = none →
      exec (.pinReadback pin e) s = .next ({ s.captured m 0 4 with pwr.latch := some (m, s.time % 2 ^ 32) } : State).safeNow)
  ∧ (s.padCompared pin = true → (pin = 6 ∨ pin = 7) → Heard s b → FreeSet s b → exec (.pinReadback pin e) s = .next (s.captured b 8 0))
  ∧ (s.kiln.raised = [] → s.padCompared pin = false → exec (.pinReadback pin e) s = .next s)

/-- AliveAndHeartbeat and PinReadback, above, hold. -/
def Obligations.KilnWatch : Prop := Says.AliveAndHeartbeat ∧ Says.PinReadback

/-! ### Supplies, clocks, reset, pins (chapters 21 and 22) -/

/-- The five ways into reset: RESET_CAUSE, latch, lifetime counts and what is cleared (R343, R378, R604, R607, R622 to R624). -/
def Says.ResetWays : Prop := ∀ (s : State) (rail ns : Nat),
  let goesTo (i : Instr) (cause : Nat) (lost : Bool) : Prop := ∃ t, exec i s = .next t ∧ Resets s t cause lost ∧ t.pwr.driveLow = true
  (goesTo .powerOnReset 0 false)
  ∧ (goesTo (.supplyThreshold 3 .reset) 0 false)
  ∧ (rail < 2 → goesTo (.supplyThreshold rail .reset) (rail + 1) false)
  ∧ (s.pwr.phase ≠ .standby → goesTo (.supplyThreshold 2 .reset) 3 false)
  ∧ (goesTo (.supplyThreshold 0 .lost) 1 true)
  ∧ (HostHears s → s.armed = true → goesTo .softReset 6 false)
  ∧ (s.isReady = true → ∀ k ms, s.kiln.hbMissed = some k → bits (s.regN bKILN 0) 16 16 = ms → ms ≠ 0 →
      k + ms * 24576 < 4096 * (s.lastBlock + 1) → goesTo .watchdog 5 false)
  ∧ (250 < ns → (s.pwr.driveLow = false ∨ 5000 < ns) → ∃ t, exec (.resetPin ns) s = .next t ∧ Resets s t 4 false ∧ t.pwr.resetHeld = true)
  ∧ (250 < ns → s.pwr.driveLow = true → ns ≤ 5000 → exec (.resetPin ns) s = .next { s with pwr.resetHeld := true })
  ∧ (ns < 150 → exec (.resetPin ns) s = .next s)
  ∧ (150 ≤ ns → ns ≤ 250 → (exec (.resetPin ns) s = .next { s with freeCount := s.freeCount + 1 })
      ∨ ∃ t, exec (.resetPin ns) s = .next t ∧ t.pwr.resetHeld = true)

/-- While the part is in reset its digital outputs are not driven and keep their pulls; ALIVE is low, the open-drain pins follow latch and
reset, and a flash port is free of any drive while RESET_N is held low from outside (R606, R633, R635, R644). -/
def Says.PinsInReset : Prop := ∀ (s : State), s.pwr.phase = .inReset →
  (∀ p ∈ [Pin.tdmoClock, .tdmoFrame, .chainData, .chainStrobe], s.pin p = .pullDown)
  ∧ (∀ k, s.pin (.tdmoData k) = .pullDown ∧ s.pin (.timerOut k) = .pullDown ∧ s.pin (.uartDe k) = .pullDown ∧ s.pin (.uartTx k) = .pullUp)
  ∧ (∀ p ∈ [Pin.hostData, .hostIrq, .testData], s.pin p = .released) ∧ s.pin .alive = .low
  ∧ s.pin .faultN = (if s.latched then .low else .released) ∧ s.pin .resetN = (if s.pwr.driveLow then .low else .released)
  ∧ (∀ port, port ≠ 1 ∨ s.part.variant ≠ .qk1024n → s.pin (.flashSelect port) = .pullUp ∧ s.pin (.flashData port) = .released
      ∧ s.pin (.flashClock port) = (if s.pwr.resetHeld then .released else .pullDown) ∧ s.portListens port = false)

/-- ResetWays and PinsInReset, above, hold. -/
def Obligations.ResetCauses : Prop := Says.ResetWays ∧ Says.PinsInReset

/-- Supply warnings, comparators that disagree, and rails that come back (R604, R605, R623). A warning is raised once until its rail
has come back.
A command whose event cannot arise in the state changes nothing: the model's choice (log 24). -/
def Obligations.SupplyWarnings : Prop := ∀ (s : State) (rail : Nat) (back : Bool), rail < 4 → s.kiln.raised = [] →
  let m := fun code => mkMsg 2 1 kSupply 1 code 0
  let warns (l : RailLevel) (code : Nat) : Prop := Heard s (m code) → FreeSet s (m code) →
    (nthB s.pwr.warned code = false ∨ back = true) →
    exec (.supplyThreshold rail l) s = .next (({ s with pwr.warned := s.pwr.warned.set code true } : State).captured (m code) 11 0)
  warns (.low back) rail ∧ warns (.high back) (rail + 4)
  ∧ (nthB s.pwr.warned rail = true → exec (.supplyThreshold rail (.low false)) s = .next s)
  ∧ (s.isReady = false → exec (.supplyThreshold rail (.low back)) s = .next s)
  ∧ (Heard s (m (8 + rail)) → FreeSet s (m (8 + rail)) →
      exec (.comparatorDisagreement rail) s = .next (s.captured (m (8 + rail)) 11 0))
  ∧ exec (.supplyRelease rail) s = .next { s with pwr.railLow := s.pwr.railLow.set rail false }

/-- RESET_N high starts the part once no rail is low; sources qualify; the PLL uses the first of them (R608, R609, R612, R613, R628, R630).
A command whose event cannot arise in the state changes nothing: the model's choice (log 24). -/
def Says.StartAndReference : Prop := ∀ (s : State) (primary : Bool),
  let u : State := if primary then { s with pwr.qualP := some (s.pwr.qualP.getD s.time) } else { s with pwr.qualB := some (s.pwr.qualB.getD s.time) }
  let qualifies := s.pwr.phase ≠ .inReset ∧ s.pwr.phase ≠ .standby ∧ (primary = true ∨ s.pwr.shadow.refBackup ≠ 3)
  (s.pwr.phase = .inReset → (∀ x ∈ s.pwr.railLow, x = false) → s.part.caskBad = false → s.pwr.latch = none →
      exec .resetRelease s = .next
        { s with
          pwr.phase := .released
          pwr.resetHeld := false
          pwr.driveLow := false
          pwr.shadow := s.part.shadow
          pwr.resetCause := s.pwr.resetCause &&& ~~~0x80#32 })
  ∧ (s.pwr.phase = .inReset → true ∈ s.pwr.railLow → exec .resetRelease s = .next s)
  ∧ (qualifies → s.pwr.refUsed = none → s.pwr.phase = .released →
      exec (.referenceQualified primary) s = .next { u with pwr.refUsed := some primary })
  ∧ (qualifies → s.pwr.refUsed ≠ none → exec (.referenceQualified primary) s = .next u)
  ∧ (qualifies → s.pwr.refUsed = none → s.pwr.phase ≠ .released →
      exec (.referenceQualified primary) s = .next
        (if primary then u else { u with pwr.refUsed := some false, pwr.holdover := none, pwr.holdTold := false }))
  ∧ (s.pwr.refUsed ≠ some primary →
      exec (.backupLost primary) s = .next (if primary then { s with pwr.qualP := none } else { s with pwr.qualB := none }))
  ∧ (∀ t, s.pwr.qualP = some t → s.clocked = true → s.pwr.phase ≠ .standby → s.pwr.refUsed ≠ some true → t + 24576000 ≤ s.time →
      s.time % 4096 = 0 →
      exec .primaryTakeback s = .next { s with pwr.refUsed := some true, pwr.holdover := none, pwr.holdTold := false })
  ∧ (∀ t, s.pwr.qualP = some t → s.time < t + 24576000 → exec .primaryTakeback s = .next s)

/-- A lost reference, a long holdover and a failed PLL loop (R610 to R612, R614).
A command whose event cannot arise in the state changes nothing: the model's choice (log 24). -/
def Says.ReferenceFaults : Prop := ∀ (s : State), s.kiln.raised = [] →
  let m := fun cls => mkMsg 2 1 kClock cls 0 0
  (s.pwr.phase ≠ .standby → Heard s (m 1) → FreeSet s (m 1) →
      (s.pwr.refUsed = some true → s.pwr.qualB ≠ none →
        exec .referenceLoss s = .next (({ s with pwr.qualP := none, pwr.refUsed := some false } : State).captured (m 1) 11 0))
      ∧ (s.pwr.refUsed = some true → s.pwr.qualB = none →
        exec .referenceLoss s = .next (({ s with
          pwr.qualP := none
          pwr.refUsed := none
          pwr.holdover := some s.time
          pwr.holdTold := false } : State).captured (m 1) 11 0))
      ∧ (s.pwr.refUsed = some false →
        exec .referenceLoss s = .next (({ s with
          pwr.qualB := none
          pwr.refUsed := none
          pwr.holdover := some s.time
          pwr.holdTold := false } : State).captured (m 1) 11 0))
      ∧ (s.pwr.mainLoop = true → s.pwr.standbyLoop = true →
        exec (.pllLoopFail true) s = .next (({ s with pwr.mainLoop := false } : State).captured (m 1) 11 0)
        ∧ exec (.pllLoopFail false) s = .next (({ s with pwr.standbyLoop := false } : State).captured (m 1) 11 0)))
  ∧ (∀ t, s.pwr.holdover = some t → s.pwr.holdTold = false → t + 245760000 ≤ s.time → s.pwr.qualP = none → s.pwr.qualB = none →
      Heard s (m 2) → FreeSet s (m 2) → exec .holdoverTimeout s = .next (({ s with pwr.holdTold := true } : State).captured (m 2) 11 0))
  ∧ (∀ t, s.pwr.holdover = some t → s.time < t + 245760000 → exec .holdoverTimeout s = .next s)

/-- StartAndReference and ReferenceFaults, above, hold. -/
def Obligations.References : Prop := Says.StartAndReference ∧ Says.ReferenceFaults

/-- The PLL locks and the boot ROM takes the anchor's slot, the other one where that fails, or neither; a fallback shows in
HANDOVER_STATE with its IRQ_STATUS bit (R375, R411, R610, R630 to R632). -/
def Says.PllLockBoots : Prop := ∀ (s : State) (slotA slotB : Nat), s.pwr.phase = .released → s.pwr.refUsed ≠ none →
  let u : State := { s with pwr.phase := .locked, lastBlock := s.time / 4096 }
  let verdict := fun slot => if slot = 0 then slotA else slotB
  (∀ a, u.findAnchor = some a → verdict a.fwSlot = 0 →
      exec (.pllLock slotA slotB) s = .next
        { u with
          store.anchor := a
          host.activeSlot := a.fwSlot
          pwr.bootSlot := a.fwSlot
          pwr.bootFault := 0 })
  ∧ (∀ a, u.findAnchor = some a → verdict a.fwSlot ≠ 0 → verdict (1 - a.fwSlot) = 0 →
      exec (.pllLock slotA slotB) s = .next
        { u with
          store.anchor := a
          host.activeSlot := 1 - a.fwSlot
          pwr.bootSlot := 1 - a.fwSlot
          pwr.bootFault := verdict a.fwSlot
          host.hoStep := 7
          host.hoResult := verdict a.fwSlot
          host.irqStatus := setBit s.host.irqStatus 7 })
  ∧ (u.findAnchor = none →
      exec (.pllLock slotA slotB) s = .next
        { u with
          pwr.phase := .bootFailed
          host.hoStep := 7
          host.hoResult := 6
          host.irqStatus := setBit s.host.irqStatus 7 })

/-- READY: the firmware runs, session 0 is open, IRQ_STATUS.READY sets. A port whose device meets R252 is in use: a read latency of 8 to
30 clocks, and 2^25 to 2^31 bytes, 2^26 at least on M0 where M1 is not in use (R252, R254, R634). -/
def Says.ReadyState : Prop := ∀ (s : State) (m0 m1 : PortSetup),
  s.pwr.phase = .locked → s.pwr.debugHalt = false → s.pwr.wakeCause = none → s.pwr.latch = none → s.store.ports.length = 2 →
  s.kiln.raised = [] →
  let fits (f : PortSetup) (least : Nat) : Bool := f.meets && decide (8 ≤ f.dummy ∧ f.dummy ≤ 30 ∧ least ≤ f.sizeLog2 ∧ f.sizeLog2 ≤ 31)
  let second := fits m1 25 && s.part.variant != .qk1024n
  let first := fits m0 (if second then 25 else 26)
  ∃ t, exec (.ready m0 m1) s = .next t
    ∧ t = { s with
        pwr.phase := .ready
        pwr.woken := false
        pwr.por := false
        pwr.dieWatch := true
        pwr.aliveNext := some (s.time + max 1 (bits s.host.aliveCfg.toNat 8 8) * 24576)
        pwr.wakeCause := none
        fw.running := true
        fw.sessions := s.fw.sessions.set 0 ⟨true, false, 7, 0⟩
        kiln.hbLast := s.time
        lastBlock := s.time / 4096
        host.irqStatus := setBit s.host.irqStatus 6
        store.ports := [⟨first, false⟩, ⟨second, false⟩]
        mash.gains := [(s.time / 4096, (List.range 32).map fun ch => s.regN bWORT (4 * ch))]
        regs := t.regs }
    ∧ (first = true → bits (t.regN bGRIST 0x10) 8 5 = m0.dummy ∧ bits (t.regN bGRIST 0x10) 16 5 = m0.sizeLog2)
    ∧ (first = false → t.reg bGRIST 0x10 = s.reg bGRIST 0x10)
    ∧ (second = true → bits (t.regN bGRIST 0x14) 8 5 = m1.dummy ∧ bits (t.regN bGRIST 0x14) 16 5 = m1.sizeLog2)
    ∧ (second = false → t.reg bGRIST 0x14 = s.reg bGRIST 0x14)
    ∧ (∀ b o, (b, o) ≠ (bGRIST, 0x10) → (b, o) ≠ (bGRIST, 0x14) → o < 0x10000 → t.reg b o = s.reg b o)

/-- PllLockBoots and ReadyState, above, hold. -/
def Obligations.StartToReady : Prop := Says.PllLockBoots ∧ Says.ReadyState

/-- The host's edge and an armed comparator wake the part into the start sequence; a comparator that is not armed does not (R369, R620,
R621). JTAG instructions take effect as R648 says.
A command whose event cannot arise in the state changes nothing: the model's choice (log 24). -/
def Obligations.WakeAndTap : Prop := ∀ (s : State) (c k : Nat) (j : TapInstr),
  let woken (cause : Option (Nat × Nat × Nat)) : State := { s with
    pwr.phase := .released
    pwr.woken := true
    pwr.refUsed := none
    pwr.qualP := none
    pwr.qualB := none
    pwr.holdover := none
    pwr.holdTold := false
    pwr.mainLoop := true
    pwr.standbyLoop := true
    pwr.wakeCause := cause
    pwr.wakeSet := [] }
  (s.pwr.phase = .standby → nthB s.pwr.railLow 2 = false → exec .wakeHost s = .next (woken none))
  ∧ (s.pwr.phase ≠ .standby → exec .wakeHost s = .next s)
  ∧ (s.pwr.phase = .standby → nthB s.pwr.railLow 2 = false → WakeComp.mk c k ∈ s.pwr.wakeSet → exec (.wakeComparator c k) s = .next (woken (some (c, k, s.time))))
  ∧ (WakeComp.mk c k ∉ s.pwr.wakeSet → exec (.wakeComparator c k) s = .next s)
  ∧ (j ∈ [.bypass, .idcode, .sample] → exec (.tapInstruction j) s = .next { s with pwr.tap := j })
  ∧ (j ∈ [.extest, .clamp, .highz] →
      exec (.tapInstruction j) s = .next { s with pwr.tap := if s.pwr.resetHeld then j else .bypass })
  ∧ (HostHears s → exec (.tapInstruction .debug) s = .next { s with pwr.tap := .debug, pwr.debugHalt := true })
end

