-- ==== Sys2Proof/Laws/Copper.lean ====
section
/-! SUPPORT. Small lemmas about one instruction of the Copper. -/
namespace Sys2Proof.Machine

/-! ### What the end of an instruction leaves alone -/

@[simp] theorem Copper.advance_d (c b : Copper) (e : Effect) : (c.advance b e).d = c.d := by
  unfold Copper.advance Copper.loopStep; repeat' (first | rfl | split)

@[simp] theorem Copper.advance_a (c b : Copper) (e : Effect) : (c.advance b e).a = c.a := by
  unfold Copper.advance Copper.loopStep; repeat' (first | rfl | split)

@[simp] theorem Copper.advance_aOld (c b : Copper) (e : Effect) : (c.advance b e).aOld = c.aOld := by
  unfold Copper.advance Copper.loopStep; repeat' (first | rfl | split)

@[simp] theorem Copper.advance_ptr (c b : Copper) (e : Effect) : (c.advance b e).ptr = c.ptr := by
  unfold Copper.advance Copper.loopStep; repeat' (first | rfl | split)

@[simp] theorem Copper.advance_sr (c b : Copper) (e : Effect) : (c.advance b e).sr = c.sr := by
  unfold Copper.advance Copper.loopStep; repeat' (first | rfl | split)

@[simp] theorem Copper.advance_flights (c b : Copper) (e : Effect) : (c.advance b e).flights = c.flights := by
  unfold Copper.advance Copper.loopStep; repeat' (first | rfl | split)

@[simp] theorem Copper.advance_rest (c b : Copper) (e : Effect) : (c.advance b e).rest = c.rest := by
  unfold Copper.advance Copper.loopStep; repeat' (first | rfl | split)

@[simp] theorem Copper.advance_cycles (c b : Copper) (e : Effect) : (c.advance b e).cycles = c.cycles := by
  unfold Copper.advance Copper.loopStep; repeat' (first | rfl | split)

/-- A write by code changes registers only. -/
theorem Copper.writeCode_cycles (c : Copper) (r : Nat) (w : Word) : (c.writeCode r w).cycles = c.cycles := by
  unfold Copper.writeCode; repeat' (first | rfl | split)

theorem Copper.land_cycles (c : Copper) (f : Flight) : (c.land f).cycles = c.cycles := by
  unfold Copper.land Copper.xPut Copper.yPut Copper.ioWrite
  repeat' (first | rfl | exact c.writeCode_cycles _ _ | split)

@[simp] theorem Copper.landAll_cycles (c : Copper) : c.landAll.cycles = c.cycles := by
  unfold Copper.landAll
  show (c.flights.foldl Copper.land c).cycles = c.cycles
  generalize c.flights = fs
  induction fs generalizing c with
  | nil => rfl
  | cons f fs ih => rw [List.foldl_cons, ih, Copper.land_cycles]

@[simp] theorem Copper.landAll_flights (c : Copper) : c.landAll.flights = [] := rfl

/-! ### Effects -/

@[simp] theorem Copper.ptrEffect_codes (c : Copper) (k : Nat) (m : Option Int) : (c.ptrEffect k m).codes = [] := by
  cases m <;> rfl

@[simp] theorem Copper.ptrEffect_accs (c : Copper) (k : Nat) (m : Option Int) : (c.ptrEffect k m).accs = [] := by
  cases m <;> rfl

@[simp] theorem Copper.ptrEffect_flights (c : Copper) (k : Nat) (m : Option Int) : (c.ptrEffect k m).flights = [] := by
  cases m <;> rfl

theorem Effect.also_codes (e f : Effect) : (e.also f).codes = e.codes ++ f.codes := rfl
theorem Effect.also_accs (e f : Effect) : (e.also f).accs = e.accs ++ f.accs := rfl
theorem Effect.also_ptrs (e f : Effect) : (e.also f).ptrs = e.ptrs ++ f.ptrs := rfl
theorem Effect.also_flights (e f : Effect) : (e.also f).flights = e.flights ++ f.flights := rfl
theorem Effect.also_flow (e f : Effect) : (e.also f).flow = e.flow := rfl
theorem Effect.also_loop (e f : Effect) : (e.also f).loop = e.loop := rfl
theorem Effect.also_restore (e f : Effect) : (e.also f).restore = e.restore := rfl

@[simp] theorem Copper.moveEffect_codes (c : Copper) (y : Bool) (m : Mv) : (c.moveEffect y m).codes = [] := by
  unfold Copper.moveEffect; dsimp only; repeat' split
  all_goals simp [Effect.also_codes]

@[simp] theorem Copper.moveEffect_accs (c : Copper) (y : Bool) (m : Mv) : (c.moveEffect y m).accs = [] := by
  unfold Copper.moveEffect; dsimp only; repeat' split
  all_goals simp [Effect.also_accs]

@[simp] theorem Copper.movesEffect_codes (c : Copper) (a : FmtA) : (c.movesEffect a).codes = [] := by
  simp [Copper.movesEffect, Effect.also_codes]

@[simp] theorem Copper.movesEffect_accs (c : Copper) (a : FmtA) : (c.movesEffect a).accs = [] := by
  simp [Copper.movesEffect, Effect.also_accs]

/-- A parallel move sets no GV. -/
theorem Copper.moveEffect_gv (c : Copper) (y : Bool) (m : Mv) : (c.moveEffect y m).flags.gv = false := by
  have hp : ∀ k o, (c.ptrEffect k o).flags.gv = false := by intro k o; cases o <;> rfl
  unfold Copper.moveEffect; dsimp only; repeat' split
  all_goals simp [Effect.also, hp]

@[simp] theorem Copper.movesEffect_gv (c : Copper) (a : FmtA) : (c.movesEffect a).flags.gv = false := by
  simp [Copper.movesEffect, Effect.also, Copper.moveEffect_gv]

/-! ### A row that runs -/

/-- A Copper row whose instruction stands at the program counter carries it out; nothing outside the Copper changes. -/
theorem copperRow_runs (s : State) (i : Instr) (eff : Copper → Effect) (h : CopperRuns s i) :
    s.copperRow i eff = .next { s with cop := s.cop.carryOut (eff s.cop) } := by
  obtain ⟨h1, h2, h3, h4⟩ := h
  simp [State.copperRow, State.done, h1, h2, h3, h4]

/-- The instruction at the program counter has accepted codes. -/
theorem current_ok (c : Copper) (i : Instr) (h : c.current = some i) : copperOk i = true := by
  unfold Copper.current at h
  split at h
  · unfold decodeCopper at h
    split at h
    · split at h
      · cases h; assumption
      · cases h
    · cases h
  · cases h

/-! ### Flags -/

theorem srPut_get (sr : BitVec 16) (i : Nat) (b : Bool) (j : Nat) (hi : i < 16) :
    (srPut sr i b).getLsbD j = if j = i then b else sr.getLsbD j := by
  unfold srPut
  by_cases hj : j < 16
  · have h1 : ∀ k, k < 16 → (1#16 <<< i).getLsbD k = decide (k = i) := by
      intro k hk
      simp only [BitVec.getLsbD_shiftLeft, hk, decide_true, Bool.true_and, BitVec.getLsbD_one]
      by_cases h : k = i <;> simp [h]
      omega
    cases b <;> simp only [Bool.false_eq_true, if_true, if_false, BitVec.getLsbD_or, BitVec.getLsbD_and, BitVec.getLsbD_not, hj, h1 j hj] <;>
      by_cases h : j = i <;> simp [h, hi]
  · have : ∀ x : BitVec 16, x.getLsbD j = false := fun x => BitVec.getLsbD_of_ge x j (by omega)
    rw [this, this]
    split <;> simp_all

theorem srFlag_get (sr : BitVec 16) (i : Nat) (o : Option Bool) (j : Nat) (hi : i < 16) :
    (srFlag sr i o).getLsbD j = if j = i then o.getD (sr.getLsbD i) else sr.getLsbD j := by
  cases o with
  | none => simp only [srFlag]; split <;> simp_all
  | some b => exact srPut_get sr i b j hi

theorem srStick_get (sr : BitVec 16) (i : Nat) (b : Bool) (j : Nat) (hi : i < 16) :
    (srStick sr i b).getLsbD j = if j = i then (sr.getLsbD i || b) else sr.getLsbD j := by
  unfold srStick
  cases b with
  | false => simp only [Bool.false_eq_true, if_false, Bool.or_false]; split <;> simp_all
  | true => simp only [if_true, Bool.or_true]; exact srPut_get sr i true j hi

/-- What an instruction's flags leave of `sr`, bit by bit. -/
theorem apply_srIs (f : FlagOut) (sr : BitVec 16) :
    SrIs sr (f.apply sr) (f.z.getD (sr.getLsbD 0)) (f.n.getD (sr.getLsbD 1)) (f.c.getD (sr.getLsbD 2)) (f.v.getD (sr.getLsbD 3)) f.gv f.ss f.cp := by
  unfold SrIs FlagOut.apply
  simp only [srStick_get _ _ _ _ (by decide : 4 < 16), srStick_get _ _ _ _ (by decide : 5 < 16), srStick_get _ _ _ _ (by decide : 6 < 16),
    srFlag_get _ _ _ _ (by decide : 0 < 16), srFlag_get _ _ _ _ (by decide : 1 < 16), srFlag_get _ _ _ _ (by decide : 2 < 16),
    srFlag_get _ _ _ _ (by decide : 3 < 16)]
  refine ⟨by simp, by simp, by simp, by simp, by simp, by simp, by simp, fun i hi => ?_⟩
  have : ∀ k, k < 7 → i ≠ k := by omega
  simp [this]

/-! ### One plain instruction -/

/-- The data an instruction leaves that neither branches, waits nor restores `sr`. -/
theorem carryOut_plain (c : Copper) (e : Effect) (hf : e.flow ≠ .waitFrame) (hr : e.restore = none) :
    (c.carryOut e).d = (c.landAll.store e).d ∧ (c.carryOut e).a = (c.landAll.store e).a
      ∧ (c.carryOut e).ptr = (c.landAll.store e).ptr ∧ (c.carryOut e).rest = (c.landAll.store e).rest
      ∧ (c.carryOut e).sr = e.flags.apply c.landAll.sr ∧ (c.carryOut e).flights = e.flights
      ∧ (c.carryOut e).aOld = oldAccs c.a c.landAll.a e ∧ (c.carryOut e).cycles = (c.landAll.store e).cycles + 1 := by
  have key : c.carryOut e = { (c.finish e) with cycles := c.cycles + 1 } := by
    unfold Copper.carryOut; split
    · contradiction
    · rfl
  have hc : (c.landAll.store e).cycles = c.cycles := by
    unfold Copper.store
    show (e.codes.foldl (fun (c : Copper) x => c.writeCode x.1 x.2) c.landAll).cycles = c.cycles
    rw [← Copper.landAll_cycles c]
    generalize c.landAll = l
    generalize e.codes = cs
    induction cs generalizing l with
    | nil => rfl
    | cons x cs ih => rw [List.foldl_cons, ih, Copper.writeCode_cycles]
  have hrest : ∀ k : Copper, ∀ n, ({ k with cycles := n } : Copper).rest = k.rest := fun _ _ => rfl
  rw [key]
  refine ⟨?_, ?_, ?_, ?_, ?_, ?_, ?_, ?_⟩
  · show (c.finish e).d = _; simp [Copper.finish, Copper.settle]
  · show (c.finish e).a = _; simp [Copper.finish, Copper.settle]
  · show (c.finish e).ptr = _; simp [Copper.finish, Copper.settle]
  · rw [hrest]; simp [Copper.finish, Copper.settle]; rfl
  · show (c.finish e).sr = _; simp [Copper.finish, Copper.settle, endSr, hr]
  · show (c.finish e).flights = _; simp [Copper.finish, Copper.settle]
  · show (c.finish e).aOld = _; simp [Copper.finish, Copper.settle]
  · show c.cycles + 1 = _; rw [hc]

/-- The values an effect stores, by what it writes. -/
theorem store_d (l : Copper) (e : Effect) (k : Nat) (w : Word) (hc : e.codes = [(k, w)]) (ha : e.accs = []) (hk : k < 8) :
    l.store e = { l with d := l.d.set k w, ptr := setPtrs l.ptr e } := by
  simp [Copper.store, hc, ha, Copper.writeCode, hk, setPtrs]

theorem store_a (l : Copper) (e : Effect) (k : Nat) (w : Acc) (hc : e.codes = []) (ha : e.accs = [(k, w)]) :
    l.store e = { l with a := l.a.set k w, ptr := setPtrs l.ptr e } := by
  simp [Copper.store, hc, ha, setPtrs]

theorem store_none (l : Copper) (e : Effect) (hc : e.codes = []) (ha : e.accs = []) :
    l.store e = { l with ptr := setPtrs l.ptr e } := by
  simp [Copper.store, hc, ha, setPtrs]

/-- A d result with its parallel moves. -/
theorem dResult_writes (s : State) (i : Instr) (a : FmtA) (r : DOut)
    (he : exec i s = .next { s with cop := s.cop.carryOut (s.cop.dResult a r) }) (hd : isD a.dst = true)
    (hz : r.2.z = some (r.1 == 0)) (hn : r.2.n = some (r.1.getLsbD 31)) (hg : r.2.gv = false) (hp : r.2.cp = false) :
    WritesD s i a r.1 (r.2.c.getD (s.cop.landAll.sr.getLsbD 2)) (r.2.v.getD (s.cop.landAll.sr.getLsbD 3)) r.2.ss := by
  let e := s.cop.dResult a r
  have hk : a.dst.toNat < 8 := by
    have := hd; unfold isD at this
    simpa [BitVec.lt_def] using this
  have hs := store_d s.cop.landAll e a.dst.toNat r.1 (by simp [e, Copper.dResult, Effect.also_codes]) (by simp [e, Copper.dResult, Effect.also_accs]) hk
  have hp' := carryOut_plain s.cop e (by simp [e, Copper.dResult, Effect.also_flow]) (by simp [e, Copper.dResult, Effect.also_restore])
  obtain ⟨q1, q2, q3, q4, q5, q6, -, q8⟩ := hp'
  have hptr : setPtrs s.cop.landAll.ptr e = setPtrs s.cop.landAll.ptr (s.cop.movesEffect a) := by
    simp [setPtrs, e, Copper.dResult, Effect.also_ptrs]
  refine ⟨s.cop.carryOut e, he, ?_, ?_, ⟨?_, ?_, ?_, ?_⟩, ?_⟩
  · rw [q1, hs]
  · rw [q2, hs]
  · rw [q4, hs]; rfl
  · rw [q3, hs]; exact hptr
  · rw [q6]; simp [e, Copper.dResult, Effect.also_flights]
  · rw [q8, hs]; simp
  · rw [q5]
    have := apply_srIs e.flags s.cop.landAll.sr
    simpa [e, Copper.dResult, Effect.also, hz, hn, hg, hp] using this

/-- An accumulator result with its parallel moves. -/
theorem aResult_writes (s : State) (i : Instr) (a : FmtA) (x : Int) (r : AOut)
    (he : exec i s = .next { s with cop := s.cop.carryOut (s.cop.aResult a r) }) (hd : isA a.dst = true)
    (hr : r.1 = BitVec.ofInt 72 x) (hz : r.2.z = some (r.1 == 0)) (hn : r.2.n = some (r.1.getLsbD 71)) (hc : r.2.c = none)
    (hv : r.2.v = some (outside63 r.1)) (hg : r.2.gv = (r.1.toInt != x)) (hs' : r.2.ss = false) (hp : r.2.cp = false) :
    WritesA s i a x := by
  let e := s.cop.aResult a r
  have hk : a.dst.toNat - 8 < 4 := by
    have := hd; unfold isA at this
    simp [BitVec.lt_def, BitVec.le_def] at this
    omega
  have hs := store_a s.cop.landAll e (a.dst.toNat - 8) r.1 (by simp [e, Copper.aResult, Effect.also_codes])
    (by simp [e, Copper.aResult, Effect.also_accs])
  obtain ⟨q1, q2, q3, q4, q5, q6, q7, q8⟩ :=
    carryOut_plain s.cop e (by simp [e, Copper.aResult, Effect.also_flow]) (by simp [e, Copper.aResult, Effect.also_restore])
  have hptr : setPtrs s.cop.landAll.ptr e = setPtrs s.cop.landAll.ptr (s.cop.movesEffect a) := by
    simp [setPtrs, e, Copper.aResult, Effect.also_ptrs]
  unfold WritesA
  rw [← hr]
  refine ⟨s.cop.carryOut e, he, ?_, ?_, ?_, ⟨?_, ?_, ?_, ?_⟩, ?_⟩
  · rw [q2, hs]
  · rw [q1, hs]
  · have hacc : e.accs = [(a.dst.toNat - 8, r.1)] := by simp [e, Copper.aResult, Effect.also_accs]
    simp only [Copper.accOld, q7, oldAccs, hacc, Copper.acc]
    rw [List.getD_eq_getElem?_getD, List.getElem?_map, List.getElem?_range hk]
    simp
  · rw [q4, hs]; rfl
  · rw [q3, hs]; exact hptr
  · rw [q6]; simp [e, Copper.aResult, Effect.also_flights]
  · rw [q8, hs]; simp
  · rw [q5]
    have := apply_srIs e.flags s.cop.landAll.sr
    simpa [e, Copper.aResult, Effect.also, hz, hn, hc, hv, hg, hs', hp] using this

/-- A complex result with its parallel moves. -/
theorem pair_writes (s : State) (i : Instr) (a : FmtA) (conj : Bool) (keep sign re im : Int) 
    (he : exec i s = .next { s with cop := s.cop.carryOut (s.cop.cplxResult a conj keep sign) })
    (h1 : keep * (s.cop.acc (a.dst.toNat - 8)).toInt + sign * (s.cop.cplxProd a conj).1 = re)
    (h2 : keep * (s.cop.acc (a.dst.toNat - 8 + 1)).toInt + sign * (s.cop.cplxProd a conj).2 = im) : WritesPair s i a re im := by
  have hE : s.cop.cplxResult a conj keep sign = Effect.also { accs := [(a.dst.toNat - 8, BitVec.ofInt 72 re), (a.dst.toNat - 8 + 1, BitVec.ofInt 72 im)], flags := (cplxOut re im).2.2 } (s.cop.movesEffect a) := by
    subst h1 h2; rfl
  let e := s.cop.cplxResult a conj keep sign
  have hc : e.codes = [] := by simp [e, hE, Effect.also_codes]
  have ha : e.accs = [(a.dst.toNat - 8, BitVec.ofInt 72 re), (a.dst.toNat - 8 + 1, BitVec.ofInt 72 im)] := by simp [e, hE, Effect.also_accs]
  have hs : s.cop.landAll.store e = { s.cop.landAll with a := (s.cop.landAll.a.set (a.dst.toNat - 8) (BitVec.ofInt 72 re)).set (a.dst.toNat - 8 + 1) (BitVec.ofInt 72 im), ptr := setPtrs s.cop.landAll.ptr e } := by
    simp [Copper.store, hc, ha, setPtrs]
  obtain ⟨q1, q2, q3, q4, q5, q6, q7, q8⟩ := carryOut_plain s.cop e (by simp [e, hE, Effect.also_flow]) (by simp [e, hE, Effect.also_restore])
  refine ⟨s.cop.carryOut e, he, ?_, ?_, ⟨?_, ?_, ?_, ?_⟩, ?_⟩
  · rw [q2, hs]
  · rw [q1, hs]
  · rw [q4, hs]; rfl
  · rw [q3, hs]; simp [setPtrs, e, hE, Effect.also_ptrs]
  · rw [q6]; simp [e, hE, Effect.also_flights]
  · rw [q8, hs]; simp
  · rw [q5]
    have := apply_srIs e.flags s.cop.landAll.sr
    simpa [e, hE, Effect.also, cplxOut, accWrap] using this

/-- An instruction without data results. -/
theorem plain_keeps (s : State) (e : Effect) (hc : e.codes = []) (ha : e.accs = []) (hf : e.flow ≠ .waitFrame) (hr : e.restore = none) :
   NoArith s (s.cop.carryOut e) ∧ CopperKeeps s.cop (s.cop.carryOut e) e ∧ (s.cop.carryOut e).sr = e.flags.apply s.cop.landAll.sr := by
  obtain ⟨q1, q2, q3, q4, q5, q6, q7, q8⟩ := carryOut_plain s.cop e hf hr
  have hs := store_none s.cop.landAll e hc ha
  refine ⟨⟨by rw [q1, hs], by rw [q2, hs]⟩, ⟨by rw [q4, hs]; rfl, by rw [q3, hs], q6, by rw [q8, hs]; simp⟩, q5⟩


/-- A parallel move is plain: no branch, no restore, no flag but the sticky ones. -/
@[simp] theorem Copper.moveEffect_flow (c : Copper) (y : Bool) (m : Mv) : (c.moveEffect y m).flow = .next := by
  unfold Copper.moveEffect; dsimp only; repeat' split
  all_goals simp [Effect.also_flow]
@[simp] theorem Copper.moveEffect_restore (c : Copper) (y : Bool) (m : Mv) : (c.moveEffect y m).restore = none := by
  unfold Copper.moveEffect; dsimp only; repeat' split
  all_goals simp [Effect.also_restore]
@[simp] theorem Copper.moveEffect_zncv (c : Copper) (y : Bool) (m : Mv) : (c.moveEffect y m).flags.z = none ∧ (c.moveEffect y m).flags.n = none ∧ (c.moveEffect y m).flags.c = none ∧ (c.moveEffect y m).flags.v = none := by
  unfold Copper.moveEffect; dsimp only; repeat' split
  all_goals simp [Effect.also]

/-! ### Where an instruction leads -/

theorem loopStep_next (b : Copper) : (if (b.loopStep).2 = true then b.ls else b.pc + 1) = b.nextPc := by
  unfold Copper.loopStep Copper.nextPc
  by_cases c1 : (b.lc != 0 && b.pc == b.le) = true
  · rw [if_pos c1]
    simp only [Bool.and_eq_true, bne_iff_ne, beq_iff_eq] at c1
    by_cases c2 : b.lc = 1
    · rw [if_neg (by rw [c2]; simp), if_neg (fun h => h.2.2 c2)]
    · rw [if_pos (bne_iff_ne.2 c2), if_pos ⟨c1.1, c1.2, c2⟩]
  · rw [if_neg c1]
    simp only [Bool.and_eq_true, bne_iff_ne, beq_iff_eq, not_and] at c1
    rw [if_neg (by simp), if_neg (fun h => c1 h.1 h.2.1)]

/-- The next address, the branch under way and the repeat after an instruction, nothing being repeated and no branch under way. -/
theorem advance_next (c b : Copper) (e : Effect) (h : PlainFlow b) (hf : e.flow = .next) :
    (c.advance b e).pc = b.nextPc ∧ (c.advance b e).branch = c.branch ∧ (c.advance b e).rep = none := by
  obtain ⟨h1, h2⟩ := h
  unfold Copper.advance
  rw [h1, h2, hf]
  refine ⟨loopStep_next b, ?_, rfl⟩
  dsimp only
  repeat' (first | rfl | split)

theorem advance_branch (c b : Copper) (e : Effect) (t : BitVec 14) (h : PlainFlow b) (hf : e.flow = .branch t) :
    (c.advance b e).pc = b.nextPc ∧ (c.advance b e).branch = some (t, 2) ∧ (c.advance b e).rep = none := by
  obtain ⟨h1, h2⟩ := h
  unfold Copper.advance
  rw [h1, hf]
  exact ⟨loopStep_next b, rfl, rfl⟩

theorem advance_repeat (c b : Copper) (e : Effect) (n : Nat) (h : PlainFlow b) (hf : e.flow = .repeatNext n) :
    (n = 0 → (c.advance b e).pc = b.nextPc + 1 ∧ (c.advance b e).rep = none)
      ∧ (n ≠ 0 → (c.advance b e).pc = b.nextPc ∧ (c.advance b e).rep = some n) := by
  obtain ⟨h1, h2⟩ := h
  unfold Copper.advance
  rw [h1, hf]
  cases n with
  | zero =>
    refine ⟨fun _ => ⟨?_, rfl⟩, fun h => absurd rfl h⟩
    exact congrArg (· + 1) (loopStep_next b)
  | succ n => exact ⟨fun h => by omega, fun _ => ⟨loopStep_next b, rfl⟩⟩

theorem advance_loop (c b : Copper) (e : Effect) (n : BitVec 16) (ls le : BitVec 14) (h : PlainFlow b) (hf : e.flow = .next)
    (hl : e.loop = some (n, ls, le)) : (c.advance b e).lc = n ∧ (c.advance b e).ls = ls ∧ (c.advance b e).le = le := by
  obtain ⟨h1, h2⟩ := h
  unfold Copper.advance
  rw [h1, h2, hf, hl]
  exact ⟨rfl, rfl, rfl⟩

/-- The end of an instruction that is carried out: where it leads. -/
theorem carryOut_flow (c : Copper) (e : Effect) (hf : e.flow ≠ .waitFrame) :
    c.carryOut e = { (c.settle e).advance c e with cycles := c.cycles + 1 } := by
  unfold Copper.carryOut; split
  · contradiction
  · rfl

/-- What lands changes no branch. -/
theorem landAll_branch (c : Copper) : c.landAll.branch = c.branch := by
  unfold Copper.landAll
  show (c.flights.foldl Copper.land c).branch = c.branch
  generalize c.flights = fs
  induction fs generalizing c with
  | nil => rfl
  | cons f fs ih =>
    rw [List.foldl_cons, ih]
    unfold Copper.land Copper.writeCode Copper.xPut Copper.yPut Copper.ioWrite
    repeat' (first | rfl | split)

theorem settle_branch (c : Copper) (e : Effect) : (c.settle e).branch = (c.landAll.store e).branch := rfl

/-- The decided codes of the instruction that runs. -/
theorem CopperRuns.ok {s : State} {i : Instr} (h : CopperRuns s i) : copperOk i = true := current_ok s.cop i h.2.2.2

end Sys2Proof.Machine
end

