-- ==== Sys2Proof/Laws/CopperRows.lean ====
section
/-! SUPPORT. Each Copper row that runs, and the codes its instruction accepts, one lemma each. -/
namespace Sys2Proof.Machine

theorem runs_cNop (a : FmtA) (s : State) (h : CopperRuns s (.cNop a)) :
    exec (.cNop a) s = .next { s with cop := s.cop.carryOut (s.cop.movesEffect a) } :=
  copperRow_runs s (.cNop a) (fun c => c.movesEffect a) h

theorem ok_cNop (a : FmtA) : copperOk (.cNop a) = ((mvOk a.x && mvOk a.y)) := rfl

theorem runs_cMpy (a : FmtA) (s : State) (h : CopperRuns s (.cMpy a)) :
    exec (.cMpy a) s = .next { s with cop := s.cop.carryOut (s.cop.aResult a (accOut (s.cop.product a))) } :=
  copperRow_runs s (.cMpy a) (fun c => c.aResult a (accOut (c.product a))) h

theorem ok_cMpy (a : FmtA) : copperOk (.cMpy a) = (((mvOk a.x && mvOk a.y) && isA a.dst && isD a.s1 && isD a.s2)) := rfl

theorem runs_cMac (a : FmtA) (s : State) (h : CopperRuns s (.cMac a)) :
    exec (.cMac a) s = .next { s with cop := s.cop.carryOut (s.cop.aResult a (accOut ((s.cop.opA a.dst).toInt + s.cop.product a))) } :=
  copperRow_runs s (.cMac a) (fun c => c.aResult a (accOut ((c.opA a.dst).toInt + c.product a))) h

theorem ok_cMac (a : FmtA) : copperOk (.cMac a) = (((mvOk a.x && mvOk a.y) && isA a.dst && isD a.s1 && isD a.s2)) := rfl

theorem runs_cMsu (a : FmtA) (s : State) (h : CopperRuns s (.cMsu a)) :
    exec (.cMsu a) s = .next { s with cop := s.cop.carryOut (s.cop.aResult a (accOut ((s.cop.opA a.dst).toInt - s.cop.product a))) } :=
  copperRow_runs s (.cMsu a) (fun c => c.aResult a (accOut ((c.opA a.dst).toInt - c.product a))) h

theorem ok_cMsu (a : FmtA) : copperOk (.cMsu a) = (((mvOk a.x && mvOk a.y) && isA a.dst && isD a.s1 && isD a.s2)) := rfl

theorem runs_cCmpy (a : FmtA) (s : State) (h : CopperRuns s (.cCmpy a)) :
    exec (.cCmpy a) s = .next { s with cop := s.cop.carryOut (s.cop.cplxResult a false 0 1) } :=
  copperRow_runs s (.cCmpy a) (fun c => c.cplxResult a false 0 1) h

theorem ok_cCmpy (a : FmtA) : copperOk (.cCmpy a) = (((mvOk a.x && mvOk a.y) && isAp a.dst && isDp a.s1 && isDp a.s2)) := rfl

theorem runs_cCmac (a : FmtA) (s : State) (h : CopperRuns s (.cCmac a)) :
    exec (.cCmac a) s = .next { s with cop := s.cop.carryOut (s.cop.cplxResult a false 1 1) } :=
  copperRow_runs s (.cCmac a) (fun c => c.cplxResult a false 1 1) h

theorem ok_cCmac (a : FmtA) : copperOk (.cCmac a) = (((mvOk a.x && mvOk a.y) && isAp a.dst && isDp a.s1 && isDp a.s2)) := rfl

theorem runs_cCmsu (a : FmtA) (s : State) (h : CopperRuns s (.cCmsu a)) :
    exec (.cCmsu a) s = .next { s with cop := s.cop.carryOut (s.cop.cplxResult a false 1 (-1)) } :=
  copperRow_runs s (.cCmsu a) (fun c => c.cplxResult a false 1 (-1)) h

theorem ok_cCmsu (a : FmtA) : copperOk (.cCmsu a) = (((mvOk a.x && mvOk a.y) && isAp a.dst && isDp a.s1 && isDp a.s2)) := rfl

theorem runs_cCmacj (a : FmtA) (s : State) (h : CopperRuns s (.cCmacj a)) :
    exec (.cCmacj a) s = .next { s with cop := s.cop.carryOut (s.cop.cplxResult a true 1 1) } :=
  copperRow_runs s (.cCmacj a) (fun c => c.cplxResult a true 1 1) h

theorem ok_cCmacj (a : FmtA) : copperOk (.cCmacj a) = (((mvOk a.x && mvOk a.y) && isAp a.dst && isDp a.s1 && isDp a.s2)) := rfl

theorem runs_cAdd (a : FmtA) (s : State) (h : CopperRuns s (.cAdd a)) :
    exec (.cAdd a) s = .next { s with cop := s.cop.carryOut (s.cop.dResult a (addOut (s.cop.opD a.s1) (s.cop.opD a.s2))) } :=
  copperRow_runs s (.cAdd a) (fun c => c.dResult a (addOut (c.opD a.s1) (c.opD a.s2))) h

theorem ok_cAdd (a : FmtA) : copperOk (.cAdd a) = (((mvOk a.x && mvOk a.y) && isD a.dst && isD a.s1 && isD a.s2)) := rfl

theorem runs_cSub (a : FmtA) (s : State) (h : CopperRuns s (.cSub a)) :
    exec (.cSub a) s = .next { s with cop := s.cop.carryOut (s.cop.dResult a (subOut (s.cop.opD a.s1) (s.cop.opD a.s2))) } :=
  copperRow_runs s (.cSub a) (fun c => c.dResult a (subOut (c.opD a.s1) (c.opD a.s2))) h

theorem ok_cSub (a : FmtA) : copperOk (.cSub a) = (((mvOk a.x && mvOk a.y) && isD a.dst && isD a.s1 && isD a.s2)) := rfl

theorem runs_cAdds (a : FmtA) (s : State) (h : CopperRuns s (.cAdds a)) :
    exec (.cAdds a) s = .next { s with cop := s.cop.carryOut (s.cop.dResult a (addsOut (s.cop.opD a.s1) (s.cop.opD a.s2))) } :=
  copperRow_runs s (.cAdds a) (fun c => c.dResult a (addsOut (c.opD a.s1) (c.opD a.s2))) h

theorem ok_cAdds (a : FmtA) : copperOk (.cAdds a) = (((mvOk a.x && mvOk a.y) && isD a.dst && isD a.s1 && isD a.s2)) := rfl

theorem runs_cSubs (a : FmtA) (s : State) (h : CopperRuns s (.cSubs a)) :
    exec (.cSubs a) s = .next { s with cop := s.cop.carryOut (s.cop.dResult a (subsOut (s.cop.opD a.s1) (s.cop.opD a.s2))) } :=
  copperRow_runs s (.cSubs a) (fun c => c.dResult a (subsOut (c.opD a.s1) (c.opD a.s2))) h

theorem ok_cSubs (a : FmtA) : copperOk (.cSubs a) = (((mvOk a.x && mvOk a.y) && isD a.dst && isD a.s1 && isD a.s2)) := rfl

theorem runs_cAnd (a : FmtA) (s : State) (h : CopperRuns s (.cAnd a)) :
    exec (.cAnd a) s = .next { s with cop := s.cop.carryOut (s.cop.dResult a (logicOut (s.cop.opD a.s1 &&& s.cop.opD a.s2))) } :=
  copperRow_runs s (.cAnd a) (fun c => c.dResult a (logicOut (c.opD a.s1 &&& c.opD a.s2))) h

theorem ok_cAnd (a : FmtA) : copperOk (.cAnd a) = (((mvOk a.x && mvOk a.y) && isD a.dst && isD a.s1 && isD a.s2)) := rfl

theorem runs_cOr (a : FmtA) (s : State) (h : CopperRuns s (.cOr a)) :
    exec (.cOr a) s = .next { s with cop := s.cop.carryOut (s.cop.dResult a (logicOut (s.cop.opD a.s1 ||| s.cop.opD a.s2))) } :=
  copperRow_runs s (.cOr a) (fun c => c.dResult a (logicOut (c.opD a.s1 ||| c.opD a.s2))) h

theorem ok_cOr (a : FmtA) : copperOk (.cOr a) = (((mvOk a.x && mvOk a.y) && isD a.dst && isD a.s1 && isD a.s2)) := rfl

theorem runs_cXor (a : FmtA) (s : State) (h : CopperRuns s (.cXor a)) :
    exec (.cXor a) s = .next { s with cop := s.cop.carryOut (s.cop.dResult a (logicOut (s.cop.opD a.s1 ^^^ s.cop.opD a.s2))) } :=
  copperRow_runs s (.cXor a) (fun c => c.dResult a (logicOut (c.opD a.s1 ^^^ c.opD a.s2))) h

theorem ok_cXor (a : FmtA) : copperOk (.cXor a) = (((mvOk a.x && mvOk a.y) && isD a.dst && isD a.s1 && isD a.s2)) := rfl

theorem runs_cAbs (a : FmtA) (s : State) (h : CopperRuns s (.cAbs a)) :
    exec (.cAbs a) s = .next { s with cop := s.cop.carryOut (s.cop.dResult a (absOut (s.cop.opD a.s1))) } :=
  copperRow_runs s (.cAbs a) (fun c => c.dResult a (absOut (c.opD a.s1))) h

theorem ok_cAbs (a : FmtA) : copperOk (.cAbs a) = (((mvOk a.x && mvOk a.y) && isD a.dst && isD a.s1)) := rfl

theorem runs_cSha (a : FmtA) (s : State) (h : CopperRuns s (.cSha a)) :
    exec (.cSha a) s = .next { s with cop := s.cop.carryOut (s.cop.dResult a (shaOut (s.cop.opD a.s1) (auxShift a))) } :=
  copperRow_runs s (.cSha a) (fun c => c.dResult a (shaOut (c.opD a.s1) (auxShift a))) h

theorem ok_cSha (a : FmtA) : copperOk (.cSha a) = (((mvOk a.x && mvOk a.y) && isD a.dst && isD a.s1)) := rfl

theorem runs_cShl (a : FmtA) (s : State) (h : CopperRuns s (.cShl a)) :
    exec (.cShl a) s = .next { s with cop := s.cop.carryOut (s.cop.dResult a (shlOut (s.cop.opD a.s1) (auxShift a))) } :=
  copperRow_runs s (.cShl a) (fun c => c.dResult a (shlOut (c.opD a.s1) (auxShift a))) h

theorem ok_cShl (a : FmtA) : copperOk (.cShl a) = (((mvOk a.x && mvOk a.y) && isD a.dst && isD a.s1)) := rfl

theorem runs_cAadd (a : FmtA) (s : State) (h : CopperRuns s (.cAadd a)) :
    exec (.cAadd a) s = .next { s with cop := s.cop.carryOut (s.cop.aResult a (accOut ((s.cop.opA a.s1).toInt + (s.cop.opA a.s2).toInt))) } :=
  copperRow_runs s (.cAadd a) (fun c => c.aResult a (accOut ((c.opA a.s1).toInt + (c.opA a.s2).toInt))) h

theorem ok_cAadd (a : FmtA) : copperOk (.cAadd a) = ((mvOk a.x && mvOk a.y) && isA a.dst && isA a.s1 && isA a.s2) := rfl

theorem runs_cAsub (a : FmtA) (s : State) (h : CopperRuns s (.cAsub a)) :
    exec (.cAsub a) s = .next { s with cop := s.cop.carryOut (s.cop.aResult a (accOut ((s.cop.opA a.s1).toInt - (s.cop.opA a.s2).toInt))) } :=
  copperRow_runs s (.cAsub a) (fun c => c.aResult a (accOut ((c.opA a.s1).toInt - (c.opA a.s2).toInt))) h

theorem ok_cAsub (a : FmtA) : copperOk (.cAsub a) = ((mvOk a.x && mvOk a.y) && isA a.dst && isA a.s1 && isA a.s2) := rfl

theorem runs_cAsh (a : FmtA) (s : State) (h : CopperRuns s (.cAsh a)) :
    exec (.cAsh a) s = .next { s with cop := s.cop.carryOut (s.cop.aResult a (accOut (scale (s.cop.opAOld a.s1).toInt (auxShift a)))) } :=
  copperRow_runs s (.cAsh a) (fun c => c.aResult a (accOut (scale (c.opAOld a.s1).toInt (auxShift a)))) h

theorem ok_cAsh (a : FmtA) : copperOk (.cAsh a) = ((mvOk a.x && mvOk a.y) && isA a.dst && isA a.s1) := rfl

theorem runs_cRnd (a : FmtA) (s : State) (h : CopperRuns s (.cRnd a)) :
    exec (.cRnd a) s = .next { s with cop := s.cop.carryOut (s.cop.dResult a (rndOut s.cop.sat (s.cop.opAOld a.s1) (a.aux.toNat % 8))) } :=
  copperRow_runs s (.cRnd a) (fun c => c.dResult a (rndOut c.sat (c.opAOld a.s1) (a.aux.toNat % 8))) h

theorem ok_cRnd (a : FmtA) : copperOk (.cRnd a) = ((mvOk a.x && mvOk a.y) && isD a.dst && isA a.s1) := rfl

theorem runs_cClr (a : FmtA) (s : State) (h : CopperRuns s (.cClr a)) :
    exec (.cClr a) s = .next { s with cop := s.cop.carryOut (s.cop.aResult a (0, { z := some true, n := some false, v := some false })) } :=
  copperRow_runs s (.cClr a) (fun c => c.aResult a (0, { z := some true, n := some false, v := some false })) h

theorem ok_cClr (a : FmtA) : copperOk (.cClr a) = ((mvOk a.x && mvOk a.y) && isA a.dst) := rfl

theorem runs_cCmp (a : FmtA) (s : State) (h : CopperRuns s (.cCmp a)) :
    exec (.cCmp a) s = .next { s with cop := s.cop.carryOut (Effect.also { flags := (subOut (s.cop.opD a.s1) (s.cop.opD a.s2)).2 } (s.cop.movesEffect a)) } :=
  copperRow_runs s (.cCmp a) (fun c => Effect.also { flags := (subOut (c.opD a.s1) (c.opD a.s2)).2 } (c.movesEffect a)) h

theorem ok_cCmp (a : FmtA) : copperOk (.cCmp a) = ((mvOk a.x && mvOk a.y) && isD a.s1 && isD a.s2) := rfl

theorem runs_cTsta (a : FmtA) (s : State) (h : CopperRuns s (.cTsta a)) :
    exec (.cTsta a) s = .next { s with cop := s.cop.carryOut (Effect.also { flags := accFlags (s.cop.opA a.s1) } (s.cop.movesEffect a)) } :=
  copperRow_runs s (.cTsta a) (fun c => Effect.also { flags := accFlags (c.opA a.s1) } (c.movesEffect a)) h

theorem ok_cTsta (a : FmtA) : copperOk (.cTsta a) = ((mvOk a.x && mvOk a.y) && isA a.s1) := rfl

theorem runs_cMaxi (a : FmtA) (s : State) (h : CopperRuns s (.cMaxi a)) :
    exec (.cMaxi a) s = .next { s with cop := s.cop.carryOut (s.cop.scanEffect a (fun v d => decide (d.toInt < v.toInt))) } :=
  copperRow_runs s (.cMaxi a) (fun c => c.scanEffect a (fun v d => decide (d.toInt < v.toInt))) h

theorem ok_cMaxi (a : FmtA) : copperOk (.cMaxi a) = (((mvOk a.x && mvOk a.y) && isDp a.dst && (memField a).k == 1 && (memField a).r == a.dst)) := rfl

theorem runs_cMini (a : FmtA) (s : State) (h : CopperRuns s (.cMini a)) :
    exec (.cMini a) s = .next { s with cop := s.cop.carryOut (s.cop.scanEffect a (fun v d => decide (v.toInt < d.toInt))) } :=
  copperRow_runs s (.cMini a) (fun c => c.scanEffect a (fun v d => decide (v.toInt < d.toInt))) h

theorem ok_cMini (a : FmtA) : copperOk (.cMini a) = (((mvOk a.x && mvOk a.y) && isDp a.dst && (memField a).k == 1 && (memField a).r == a.dst)) := rfl

theorem runs_cMvc (a : FmtA) (s : State) (h : CopperRuns s (.cMvc a)) :
    exec (.cMvc a) s = .next { s with cop := s.cop.carryOut (Effect.also (if condHolds s.cop.sr (a.aux.extractLsb' 0 4) then { codes := [(a.dst.toNat, s.cop.opD a.s1)] } else {}) (s.cop.movesEffect a)) } :=
  copperRow_runs s (.cMvc a) (fun c => Effect.also (if condHolds c.sr (a.aux.extractLsb' 0 4) then { codes := [(a.dst.toNat, c.opD a.s1)] } else {}) (c.movesEffect a)) h

theorem ok_cMvc (a : FmtA) : copperOk (.cMvc a) = (((mvOk a.x && mvOk a.y) && isD a.dst && isD a.s1) && condOk (a.aux.extractLsb' 0 4)) := rfl

theorem runs_cLdi (reg : BitVec 6) (imm : Word) (s : State) (h : CopperRuns s (.cLdi reg imm)) :
    exec (.cLdi reg imm) s = .next { s with cop := s.cop.carryOut (moveInto reg imm) } :=
  copperRow_runs s (.cLdi reg imm) (fun _ => moveInto reg imm) h

theorem ok_cLdi (r : BitVec 6) (v1 : Word) : copperOk (.cLdi r v1) = (regOk r) := rfl

theorem runs_cMv (reg src : BitVec 6) (s : State) (h : CopperRuns s (.cMv reg src)) :
    exec (.cMv reg src) s = .next { s with cop := s.cop.carryOut (Effect.also (moveInto reg (s.cop.readCode src.toNat).1) { flags := { ss := (s.cop.readCode src.toNat).2 } }) } :=
  copperRow_runs s (.cMv reg src) (fun c => Effect.also (moveInto reg (c.readCode src.toNat).1) { flags := { ss := (c.readCode src.toNat).2 } }) h

theorem ok_cMv (r : BitVec 6) (q : BitVec 6) : copperOk (.cMv r q) = (regOk r && regOk q) := rfl

theorem runs_cLdx (reg : BitVec 6) (addr : BitVec 16) (s : State) (h : CopperRuns s (.cLdx reg addr)) :
    exec (.cLdx reg addr) s = .next { s with cop := s.cop.carryOut (loadInto reg (s.cop.xAt addr.toNat)) } :=
  copperRow_runs s (.cLdx reg addr) (fun c => loadInto reg (c.xAt addr.toNat)) h

theorem ok_cLdx (r : BitVec 6) (v1 : BitVec 16) : copperOk (.cLdx r v1) = (regOk r) := rfl

theorem runs_cLdy (reg : BitVec 6) (addr : BitVec 16) (s : State) (h : CopperRuns s (.cLdy reg addr)) :
    exec (.cLdy reg addr) s = .next { s with cop := s.cop.carryOut (loadInto reg (s.cop.yAt addr.toNat)) } :=
  copperRow_runs s (.cLdy reg addr) (fun c => loadInto reg (c.yAt addr.toNat)) h

theorem ok_cLdy (r : BitVec 6) (v1 : BitVec 16) : copperOk (.cLdy r v1) = (regOk r) := rfl

theorem runs_cStx (reg : BitVec 6) (addr : BitVec 16) (s : State) (h : CopperRuns s (.cStx reg addr)) :
    exec (.cStx reg addr) s = .next { s with cop := s.cop.carryOut (s.cop.storeReg (.x addr.toNat) reg) } :=
  copperRow_runs s (.cStx reg addr) (fun c => c.storeReg (.x addr.toNat) reg) h

theorem ok_cStx (r : BitVec 6) (v1 : BitVec 16) : copperOk (.cStx r v1) = (regOk r) := rfl

theorem runs_cSty (reg : BitVec 6) (addr : BitVec 16) (s : State) (h : CopperRuns s (.cSty reg addr)) :
    exec (.cSty reg addr) s = .next { s with cop := s.cop.carryOut (s.cop.storeReg (.y addr.toNat) reg) } :=
  copperRow_runs s (.cSty reg addr) (fun c => c.storeReg (.y addr.toNat) reg) h

theorem ok_cSty (r : BitVec 6) (v1 : BitVec 16) : copperOk (.cSty r v1) = (regOk r) := rfl

theorem runs_cLdio (reg : BitVec 6) (addr : BitVec 12) (s : State) (h : CopperRuns s (.cLdio reg addr)) :
    exec (.cLdio reg addr) s = .next { s with cop := s.cop.carryOut (loadInto reg (s.cop.ioRead addr.toNat)) } :=
  copperRow_runs s (.cLdio reg addr) (fun c => loadInto reg (c.ioRead addr.toNat)) h

theorem ok_cLdio (r : BitVec 6) (v1 : BitVec 12) : copperOk (.cLdio r v1) = (regOk r) := rfl

theorem runs_cStio (reg : BitVec 6) (addr : BitVec 12) (s : State) (h : CopperRuns s (.cStio reg addr)) :
    exec (.cStio reg addr) s = .next { s with cop := s.cop.carryOut (s.cop.storeReg (.io addr.toNat) reg) } :=
  copperRow_runs s (.cStio reg addr) (fun c => c.storeReg (.io addr.toNat) reg) h

theorem ok_cStio (r : BitVec 6) (v1 : BitVec 12) : copperOk (.cStio r v1) = (regOk r) := rfl

theorem runs_cPush (reg : BitVec 6) (s : State) (h : CopperRuns s (.cPush reg)) :
    exec (.cPush reg) s = .next { s with cop := s.cop.carryOut ((s.cop.storeReg (.x (h16 s.cop.ptr 3).toNat) reg).also (s.cop.stackStep (-1))) } :=
  copperRow_runs s (.cPush reg) (fun c => (c.storeReg (.x (h16 c.ptr 3).toNat) reg).also (c.stackStep (-1))) h

theorem ok_cPush (r : BitVec 6) : copperOk (.cPush r) = (regOk r) := rfl

theorem runs_cPop (reg : BitVec 6) (s : State) (h : CopperRuns s (.cPop reg)) :
    exec (.cPop reg) s = .next { s with cop := s.cop.carryOut ((loadInto reg s.cop.stackTop).also (s.cop.stackStep 1)) } :=
  copperRow_runs s (.cPop reg) (fun c => (loadInto reg c.stackTop).also (c.stackStep 1)) h

theorem ok_cPop (r : BitVec 6) : copperOk (.cPop r) = (regOk r && r != 27) := rfl

theorem runs_cBr (cond : BitVec 4) (target : BitVec 14) (s : State) (h : CopperRuns s (.cBr cond target)) :
    exec (.cBr cond target) s = .next { s with cop := s.cop.carryOut ({ flow := if condHolds s.cop.sr cond then .branch target else .next }) } :=
  copperRow_runs s (.cBr cond target) (fun c => { flow := if condHolds c.sr cond then .branch target else .next }) h

theorem ok_cBr (c : BitVec 4) (v1 : BitVec 14) : copperOk (.cBr c v1) = (condOk c) := rfl

theorem runs_cCall (target : BitVec 14) (s : State) (h : CopperRuns s (.cCall target)) :
    exec (.cCall target) s = .next { s with cop := s.cop.carryOut (Effect.also { flights := [⟨.x (h16 s.cop.ptr 3).toNat, (s.cop.pc + 3).setWidth 32⟩], flow := .branch target } (s.cop.stackStep (-1))) } :=
  copperRow_runs s (.cCall target) (fun c => Effect.also { flights := [⟨.x (h16 c.ptr 3).toNat, (c.pc + 3).setWidth 32⟩], flow := .branch target } (c.stackStep (-1))) h

theorem runs_cRet (s : State) (h : CopperRuns s .cRet) :
    exec .cRet s = .next { s with cop := s.cop.carryOut (Effect.also { flow := .branch (s.cop.stackTop.setWidth 14) } (s.cop.stackStep 1)) } :=
  copperRow_runs s .cRet (fun c => Effect.also { flow := .branch (c.stackTop.setWidth 14) } (c.stackStep 1)) h

theorem runs_cReti (s : State) (h : CopperRuns s .cReti) :
    exec .cReti s = .next { s with cop := s.cop.carryOut ({ restore := some (srPut s.cop.isr 10 false), flow := .branch s.cop.ipc }) } :=
  copperRow_runs s .cReti (fun c => { restore := some (srPut c.isr 10 false), flow := .branch c.ipc }) h

theorem runs_cLoop (target : BitVec 14) (count : BitVec 16) (s : State) (h : CopperRuns s (.cLoop target count)) :
    exec (.cLoop target count) s = .next { s with cop := s.cop.carryOut ({ loop := some (count, s.cop.pc + 2, target) }) } :=
  copperRow_runs s (.cLoop target count) (fun c => { loop := some (count, c.pc + 2, target) }) h

theorem runs_cRep (count : BitVec 16) (s : State) (h : CopperRuns s (.cRep count)) :
    exec (.cRep count) s = .next { s with cop := s.cop.carryOut ({ flow := .repeatNext count.toNat }) } :=
  copperRow_runs s (.cRep count) (fun _ => { flow := .repeatNext count.toNat }) h

theorem runs_cWfr (s : State) (h : CopperRuns s .cWfr) :
    exec .cWfr s = .next { s with cop := s.cop.carryOut ({ flow := .waitFrame }) } :=
  copperRow_runs s .cWfr (fun _ => { flow := .waitFrame }) h

end Sys2Proof.Machine
end

