-- ==== Sys2Proof/Laws/Exec.lean ====
section
/-! SUPPORT. Each command's arm, one lemma a constructor, so that no proof unfolds the whole dispatch. -/
namespace Sys2Proof.Machine

theorem exec_hostTransfer (x : Transfer) (s : State) : exec (.hostTransfer x) s = execHostTransfer x s := rfl
theorem exec_registerWrite (addr : Nat) (value : Word) (s : State) : exec (.registerWrite addr value) s = execRegisterWrite addr value s := rfl
theorem exec_doorbellCmd (s : State) : exec .doorbellCmd s = execDoorbellCmd s := rfl
theorem exec_doorbellBulk (h : Nat) (s : State) : exec (.doorbellBulk h) s = execDoorbellBulk h s := rfl
theorem exec_faultAck (value : Word) (s : State) : exec (.faultAck value) s = execFaultAck value s := rfl
theorem exec_softResetArm (s : State) : exec .softResetArm s = execSoftResetArm s := rfl
theorem exec_softReset (s : State) : exec .softReset s = execSoftReset s := rfl
theorem exec_standbyRequest (s : State) : exec .standbyRequest s = execStandbyRequest s := rfl
theorem exec_softResetDisarm (s : State) : exec .softResetDisarm s = execSoftResetDisarm s := rfl
theorem exec_takeDoorbell (bad : List Nat) (rd : List PageFault) (s : State) : exec (.takeDoorbell bad rd) s = execTakeDoorbell bad s rd := rfl
theorem exec_takingResume (bad : List Nat) (rd : List PageFault) (s : State) : exec (.takingResume bad rd) s = execTakingResume s bad rd := rfl
theorem exec_overflow (s : State) : exec .overflow s = execOverflow s := rfl
theorem exec_hello (m : Msg) (s : State) : exec (.hello m) s = execHello m s := rfl
theorem exec_ping (m : Msg) (s : State) : exec (.ping m) s = execPing m s := rfl
theorem exec_sessionOpen (m : Msg) (s : State) : exec (.sessionOpen m) s = execSessionOpen m s := rfl
theorem exec_sessionSet (m : Msg) (s : State) : exec (.sessionSet m) s = execSessionSet m s := rfl
theorem exec_sessionClose (m : Msg) (s : State) : exec (.sessionClose m) s = execSessionClose m s := rfl
theorem exec_imageWrite (m : Msg) (s : State) : exec (.imageWrite m) s = execImageWrite m s := rfl
theorem exec_imageRead (m : Msg) (s : State) : exec (.imageRead m) s = execImageRead m s := rfl
theorem exec_globalStart (m : Msg) (s : State) : exec (.globalStart m) s = execGlobalStart m s := rfl
theorem exec_dacPush (m : Msg) (s : State) : exec (.dacPush m) s = execDacPush m s := rfl
theorem exec_noteOn (m : Msg) (s : State) : exec (.noteOn m) s = execNoteOn m s := rfl
theorem exec_release (m : Msg) (s : State) : exec (.release m) s = execRelease m s := rfl
theorem exec_kill (m : Msg) (s : State) : exec (.kill m) s = execKill m s := rfl
theorem exec_param (m : Msg) (s : State) : exec (.param m) s = execParam m s := rfl
theorem exec_controller (m : Msg) (s : State) : exec (.controller m) s = execController m s := rfl
theorem exec_profile (m : Msg) (s : State) : exec (.profile m) s = execProfile m s := rfl
theorem exec_event (m : Msg) (s : State) : exec (.event m) s = execEvent m s := rfl
theorem exec_cancel (m : Msg) (s : State) : exec (.cancel m) s = execCancel m s := rfl
theorem exec_allocCfg (m : Msg) (s : State) : exec (.allocCfg m) s = execAllocCfg m s := rfl
theorem exec_hopperStatus (m : Msg) (s : State) : exec (.hopperStatus m) s = execHopperStatus m s := rfl
theorem exec_deviceStatus (m : Msg) (s : State) : exec (.deviceStatus m) s = execDeviceStatus m s := rfl
theorem exec_bankLoad (m : Msg) (s : State) : exec (.bankLoad m) s = execBankLoad m s := rfl
theorem exec_bankLoadDone (rd : List PageFault) (s : State) : exec (.bankLoadDone rd) s = execBankLoadDone rd s := rfl
theorem exec_bankUnload (m : Msg) (s : State) : exec (.bankUnload m) s = execBankUnload m s := rfl
theorem exec_svtLoad (m : Msg) (s : State) : exec (.svtLoad m) s = execSvtLoad m s := rfl
theorem exec_svtLoadDone (rd : List PageFault) (s : State) : exec (.svtLoadDone rd) s = execSvtLoadDone rd s := rfl
theorem exec_wtLoad (m : Msg) (s : State) : exec (.wtLoad m) s = execWtLoad m s := rfl
theorem exec_wtLoadDone (rd : List PageFault) (s : State) : exec (.wtLoadDone rd) s = execWtLoadDone rd s := rfl
theorem exec_wtUnload (m : Msg) (s : State) : exec (.wtUnload m) s = execWtUnload m s := rfl
theorem exec_bankStatus (m : Msg) (s : State) : exec (.bankStatus m) s = execBankStatus m s := rfl
theorem exec_tbUpdate (m : Msg) (s : State) : exec (.tbUpdate m) s = execTbUpdate m s := rfl
theorem exec_gristPrepare (m : Msg) (s : State) : exec (.gristPrepare m) s = execGristPrepare m s := rfl
theorem exec_gristPrepareDone (s : State) : exec .gristPrepareDone s = execGristPrepareDone s := rfl
theorem exec_gristWrite (m : Msg) (s : State) : exec (.gristWrite m) s = execGristWrite m s := rfl
theorem exec_gristWriteDone (s : State) : exec .gristWriteDone s = execGristWriteDone s := rfl
theorem exec_gristMeta (m : Msg) (s : State) : exec (.gristMeta m) s = execGristMeta m s := rfl
theorem exec_gristMetaDone (s : State) : exec .gristMetaDone s = execGristMetaDone s := rfl
theorem exec_gristCommit (m : Msg) (s : State) : exec (.gristCommit m) s = execGristCommit m s := rfl
theorem exec_gristCommitDone (rd : List PageFault) (s : State) : exec (.gristCommitDone rd) s = execGristCommitDone rd s := rfl
theorem exec_gristAbort (m : Msg) (s : State) : exec (.gristAbort m) s = execGristAbort m s := rfl
theorem exec_gristStatus (m : Msg) (s : State) : exec (.gristStatus m) s = execGristStatus m s := rfl
theorem exec_gristRead (m : Msg) (s : State) : exec (.gristRead m) s = execGristRead m s := rfl
theorem exec_gristReadDone (rd : List PageFault) (s : State) : exec (.gristReadDone rd) s = execGristReadDone rd s := rfl
theorem exec_copperLoad (m : Msg) (s : State) : exec (.copperLoad m) s = execCopperLoad m s := rfl
theorem exec_copperLoadDone (rd : List PageFault) (s : State) : exec (.copperLoadDone rd) s = execCopperLoadDone rd s := rfl
theorem exec_copperSwap (m : Msg) (s : State) : exec (.copperSwap m) s = execCopperSwap m s := rfl
theorem exec_copperParam (m : Msg) (s : State) : exec (.copperParam m) s = execCopperParam m s := rfl
theorem exec_diagStart (m : Msg) (rd : List PageFault) (s : State) : exec (.diagStart m rd) s = execDiagStart m s rd := rfl
theorem exec_diagRead (m : Msg) (s : State) : exec (.diagRead m) s = execDiagRead m s := rfl
theorem exec_diagAbort (m : Msg) (s : State) : exec (.diagAbort m) s = execDiagAbort m s := rfl
theorem exec_captureStart (m : Msg) (s : State) : exec (.captureStart m) s = execCaptureStart m s := rfl
theorem exec_captureStop (m : Msg) (s : State) : exec (.captureStop m) s = execCaptureStop m s := rfl
theorem exec_faultLogRead (m : Msg) (s : State) : exec (.faultLogRead m) s = execFaultLogRead m s := rfl
theorem exec_blockReset (m : Msg) (s : State) : exec (.blockReset m) s = execBlockReset m s := rfl
theorem exec_lifetimeRead (m : Msg) (s : State) : exec (.lifetimeRead m) s = execLifetimeRead m s := rfl
theorem exec_lifetimeSet (m : Msg) (s : State) : exec (.lifetimeSet m) s = execLifetimeSet m s := rfl
theorem exec_fwLoad (m : Msg) (s : State) : exec (.fwLoad m) s = execFwLoad m s := rfl
theorem exec_fwLoadDone (fails : Bool) (s : State) : exec (.fwLoadDone fails) s = execFwLoadDone s fails := rfl
theorem exec_fwVerify (m : Msg) (s : State) : exec (.fwVerify m) s = execFwVerify m s := rfl
theorem exec_fwVerifyDone (result : Nat) (s : State) : exec (.fwVerifyDone result) s = execFwVerifyDone result s := rfl
theorem exec_handover (m : Msg) (s : State) : exec (.handover m) s = execHandover m s := rfl
theorem exec_fwSelect (m : Msg) (s : State) : exec (.fwSelect m) s = execFwSelect m s := rfl
theorem exec_firmwareResume (s : State) : exec .firmwareResume s = execFirmwareResume s := rfl
theorem exec_handoverTimeout (s : State) : exec .handoverTimeout s = execHandoverTimeout s := rfl
theorem exec_fwAnchorWritten (s : State) : exec .fwAnchorWritten s = execFwAnchorWritten s := rfl
theorem exec_blockBoundary (b : BoundaryInput) (s : State) : exec (.blockBoundary b) s = execBlockBoundary b s := rfl
theorem exec_sheddingCeiling (s : State) : exec .sheddingCeiling s = execSheddingCeiling s := rfl
theorem exec_regionInService (s : State) : exec .regionInService s = execRegionInService s := rfl
theorem exec_standbyEntry (s : State) : exec .standbyEntry s = execStandbyEntry s := rfl
theorem exec_voiceBlock (v : Nat) (out : VoiceOutcome) (s : State) : exec (.voiceBlock v out) s = execVoiceBlock v out s := rfl
theorem exec_voiceBlockRetry (v : Nat) (out : VoiceOutcome) (s : State) : exec (.voiceBlockRetry v out) s = execVoiceBlockRetry v out s := rfl
theorem exec_twinCompare (v : Nat) (agree : Bool) (s : State) : exec (.twinCompare v agree) s = execTwinCompare v agree s := rfl
theorem exec_twinRecompute (v : Nat) (outA : VoiceOutcome) (outB : VoiceOutcome) (disagree : Option Nat) (s : State) : exec (.twinRecompute v outA outB disagree) s = execTwinRecompute v outA outB s disagree := rfl
theorem exec_deviceMix (f : MixFault) (s : State) : exec (.deviceMix f) s = execDeviceMix f s := rfl
theorem exec_copperFrame (s : State) : exec .copperFrame s = execCopperFrame s := rfl
theorem exec_copperInterrupt (s : State) : exec .copperInterrupt s = execCopperInterrupt s := rfl
theorem exec_copperTrap (s : State) : exec .copperTrap s = execCopperTrap s := rfl
theorem exec_cNop (a : FmtA) (s : State) : exec (.cNop a) s = execCNop a s := rfl
theorem exec_cMpy (a : FmtA) (s : State) : exec (.cMpy a) s = execCMpy a s := rfl
theorem exec_cMac (a : FmtA) (s : State) : exec (.cMac a) s = execCMac a s := rfl
theorem exec_cMsu (a : FmtA) (s : State) : exec (.cMsu a) s = execCMsu a s := rfl
theorem exec_cCmpy (a : FmtA) (s : State) : exec (.cCmpy a) s = execCCmpy a s := rfl
theorem exec_cCmac (a : FmtA) (s : State) : exec (.cCmac a) s = execCCmac a s := rfl
theorem exec_cCmsu (a : FmtA) (s : State) : exec (.cCmsu a) s = execCCmsu a s := rfl
theorem exec_cCmacj (a : FmtA) (s : State) : exec (.cCmacj a) s = execCCmacj a s := rfl
theorem exec_cAdd (a : FmtA) (s : State) : exec (.cAdd a) s = execCAdd a s := rfl
theorem exec_cSub (a : FmtA) (s : State) : exec (.cSub a) s = execCSub a s := rfl
theorem exec_cAdds (a : FmtA) (s : State) : exec (.cAdds a) s = execCAdds a s := rfl
theorem exec_cSubs (a : FmtA) (s : State) : exec (.cSubs a) s = execCSubs a s := rfl
theorem exec_cAnd (a : FmtA) (s : State) : exec (.cAnd a) s = execCAnd a s := rfl
theorem exec_cOr (a : FmtA) (s : State) : exec (.cOr a) s = execCOr a s := rfl
theorem exec_cXor (a : FmtA) (s : State) : exec (.cXor a) s = execCXor a s := rfl
theorem exec_cAbs (a : FmtA) (s : State) : exec (.cAbs a) s = execCAbs a s := rfl
theorem exec_cSha (a : FmtA) (s : State) : exec (.cSha a) s = execCSha a s := rfl
theorem exec_cShl (a : FmtA) (s : State) : exec (.cShl a) s = execCShl a s := rfl
theorem exec_cAadd (a : FmtA) (s : State) : exec (.cAadd a) s = execCAadd a s := rfl
theorem exec_cAsub (a : FmtA) (s : State) : exec (.cAsub a) s = execCAsub a s := rfl
theorem exec_cAsh (a : FmtA) (s : State) : exec (.cAsh a) s = execCAsh a s := rfl
theorem exec_cRnd (a : FmtA) (s : State) : exec (.cRnd a) s = execCRnd a s := rfl
theorem exec_cClr (a : FmtA) (s : State) : exec (.cClr a) s = execCClr a s := rfl
theorem exec_cCmp (a : FmtA) (s : State) : exec (.cCmp a) s = execCCmp a s := rfl
theorem exec_cTsta (a : FmtA) (s : State) : exec (.cTsta a) s = execCTsta a s := rfl
theorem exec_cMaxi (a : FmtA) (s : State) : exec (.cMaxi a) s = execCMaxi a s := rfl
theorem exec_cMini (a : FmtA) (s : State) : exec (.cMini a) s = execCMini a s := rfl
theorem exec_cMvc (a : FmtA) (s : State) : exec (.cMvc a) s = execCMvc a s := rfl
theorem exec_cLdi (reg : BitVec 6) (imm : Word) (s : State) : exec (.cLdi reg imm) s = execCLdi reg imm s := rfl
theorem exec_cMv (reg : BitVec 6) (src : BitVec 6) (s : State) : exec (.cMv reg src) s = execCMv reg src s := rfl
theorem exec_cLdx (reg : BitVec 6) (addr : BitVec 16) (s : State) : exec (.cLdx reg addr) s = execCLdx reg addr s := rfl
theorem exec_cLdy (reg : BitVec 6) (addr : BitVec 16) (s : State) : exec (.cLdy reg addr) s = execCLdy reg addr s := rfl
theorem exec_cStx (reg : BitVec 6) (addr : BitVec 16) (s : State) : exec (.cStx reg addr) s = execCStx reg addr s := rfl
theorem exec_cSty (reg : BitVec 6) (addr : BitVec 16) (s : State) : exec (.cSty reg addr) s = execCSty reg addr s := rfl
theorem exec_cLdio (reg : BitVec 6) (addr : BitVec 12) (s : State) : exec (.cLdio reg addr) s = execCLdio reg addr s := rfl
theorem exec_cStio (reg : BitVec 6) (addr : BitVec 12) (s : State) : exec (.cStio reg addr) s = execCStio reg addr s := rfl
theorem exec_cPush (reg : BitVec 6) (s : State) : exec (.cPush reg) s = execCPush reg s := rfl
theorem exec_cPop (reg : BitVec 6) (s : State) : exec (.cPop reg) s = execCPop reg s := rfl
theorem exec_cBr (cond : BitVec 4) (target : BitVec 14) (s : State) : exec (.cBr cond target) s = execCBr cond target s := rfl
theorem exec_cCall (target : BitVec 14) (s : State) : exec (.cCall target) s = execCCall target s := rfl
theorem exec_cRet (s : State) : exec .cRet s = execCRet s := rfl
theorem exec_cReti (s : State) : exec .cReti s = execCReti s := rfl
theorem exec_cLoop (target : BitVec 14) (count : BitVec 16) (s : State) : exec (.cLoop target count) s = execCLoop target count s := rfl
theorem exec_cRep (count : BitVec 16) (s : State) : exec (.cRep count) s = execCRep count s := rfl
theorem exec_cWfr (s : State) : exec .cWfr s = execCWfr s := rfl
theorem exec_tdmoFrame (s : State) : exec .tdmoFrame s = execTdmoFrame s := rfl
theorem exec_tdmiFrame (slots : List Word) (s : State) : exec (.tdmiFrame slots) s = execTdmiFrame slots s := rfl
theorem exec_tdmiSlip (s : State) : exec .tdmiSlip s = execTdmiSlip s := rfl
theorem exec_chainFrameTransmit (s : State) : exec .chainFrameTransmit s = execChainFrameTransmit s := rfl
theorem exec_chainFrameReceive (words : List Word) (inWindow : Bool) (s : State) : exec (.chainFrameReceive words inWindow) s = execChainFrameReceive words inWindow s := rfl
theorem exec_alignAdopt (s : State) : exec .alignAdopt s = execAlignAdopt s := rfl
theorem exec_globalStartRelease (s : State) : exec .globalStartRelease s = execGlobalStartRelease s := rfl
theorem exec_spargeStage1Output (c : Nat) (bits : List Bool) (overload : Bool) (s : State) : exec (.spargeStage1Output c bits overload) s = execSpargeStage1Output c bits overload s := rfl
theorem exec_spargeFineValue (c : Nat) (s : State) : exec (.spargeFineValue c) s = execSpargeFineValue c s := rfl
theorem exec_thresholdChange (c : Nat) (k : Nat) (s : State) : exec (.thresholdChange c k) s = execThresholdChange c k s := rfl
theorem exec_dacUpdate (d : Nat) (s : State) : exec (.dacUpdate d) s = execDacUpdate d s := rfl
theorem exec_timerStep (u : Nat) (s : State) : exec (.timerStep u) s = execTimerStep u s := rfl
theorem exec_timerCapture (u : Nat) (rising : Bool) (late : Nat) (s : State) : exec (.timerCapture u rising late) s = execTimerCapture u s rising late := rfl
theorem exec_standbyLfTick (s : State) : exec .standbyLfTick s = execStandbyLfTick s := rfl
theorem exec_tbEdge (pin : Nat) (level : Bool) (cycle : Nat) (both : Bool) (s : State) : exec (.tbEdge pin level cycle both) s = execTbEdge pin level cycle s both := rfl
theorem exec_tbStall (n : Nat) (s : State) : exec (.tbStall n) s = execTbStall n s := rfl
theorem exec_gristReadComplete (id : Nat) (out : ReadOutcome) (s : State) : exec (.gristReadComplete id out) s = execGristReadComplete id out s := rfl
theorem exec_readDeadline (id : Nat) (s : State) : exec (.readDeadline id) s = execReadDeadline id s := rfl
theorem exec_gristPort (p : Nat) (s : State) : exec (.gristPort p) s = execGristPort p s := rfl
theorem exec_kilnMessage (msg : BitVec 64) (master : Nat) (access : Nat) (full : Bool) (s : State) : exec (.kilnMessage msg master access full) s = execKilnMessage msg master access s full := rfl
theorem exec_actionDeadline (s : State) : exec .actionDeadline s = execActionDeadline s := rfl
theorem exec_blockResetEnd (target : Nat) (s : State) : exec (.blockResetEnd target) s = execBlockResetEnd target s := rfl
theorem exec_aliveToggle (s : State) : exec .aliveToggle s = execAliveToggle s := rfl
theorem exec_fwHeartbeat (s : State) : exec .fwHeartbeat s = execFwHeartbeat s := rfl
theorem exec_watchdog (s : State) : exec .watchdog s = execWatchdog s := rfl
theorem exec_dieLinkSilence (s : State) : exec .dieLinkSilence s = execDieLinkSilence s := rfl
theorem exec_pinReadback (pin : Nat) (expected : Bool) (s : State) : exec (.pinReadback pin expected) s = execPinReadback pin expected s := rfl
theorem exec_supplyThreshold (rail : Nat) (level : RailLevel) (s : State) : exec (.supplyThreshold rail level) s = execSupplyThreshold rail level s := rfl
theorem exec_comparatorDisagreement (rail : Nat) (s : State) : exec (.comparatorDisagreement rail) s = execComparatorDisagreement rail s := rfl
theorem exec_powerOnReset (s : State) : exec .powerOnReset s = execPowerOnReset s := rfl
theorem exec_resetPin (ns : Nat) (s : State) : exec (.resetPin ns) s = execResetPin ns s := rfl
theorem exec_resetRelease (s : State) : exec .resetRelease s = execResetRelease s := rfl
theorem exec_referenceQualified (primary : Bool) (s : State) : exec (.referenceQualified primary) s = execReferenceQualified primary s := rfl
theorem exec_pllLock (slotA : Nat) (slotB : Nat) (s : State) : exec (.pllLock slotA slotB) s = execPllLock slotA slotB s := rfl
theorem exec_ready (m0 : PortSetup) (m1 : PortSetup) (s : State) : exec (.ready m0 m1) s = execReady m0 m1 s := rfl
theorem exec_referenceLoss (s : State) : exec .referenceLoss s = execReferenceLoss s := rfl
theorem exec_holdoverTimeout (s : State) : exec .holdoverTimeout s = execHoldoverTimeout s := rfl
theorem exec_primaryTakeback (s : State) : exec .primaryTakeback s = execPrimaryTakeback s := rfl
theorem exec_pllLoopFail (main : Bool) (s : State) : exec (.pllLoopFail main) s = execPllLoopFail main s := rfl
theorem exec_wakeHost (s : State) : exec .wakeHost s = execWakeHost s := rfl
theorem exec_wakeComparator (c : Nat) (k : Nat) (s : State) : exec (.wakeComparator c k) s = execWakeComparator c k s := rfl
theorem exec_bankClearDone (b : Nat) (s : State) : exec (.bankClearDone b) s = execBankClearDone b s := rfl
theorem exec_memoryScrub (mem : Nat) (bank : Nat) (word : Nat) (errors : Nat) (s : State) : exec (.memoryScrub mem bank word errors) s = execMemoryScrub mem bank word errors s := rfl
theorem exec_atomicAdd (a : Nat) (v : Word) (bad : Bool) (s : State) : exec (.atomicAdd a v bad) s = execAtomicAdd a v bad s := rfl
theorem exec_atomicSwap (a : Nat) (v : Word) (bad : Bool) (s : State) : exec (.atomicSwap a v bad) s = execAtomicSwap a v bad s := rfl
theorem exec_uartCharacter (x : Nat) (ch : RxChar) (s : State) : exec (.uartCharacter x ch) s = execUartCharacter x ch s := rfl
theorem exec_uartTimeout (x : Nat) (s : State) : exec (.uartTimeout x) s = execUartTimeout x s := rfl
theorem exec_uartFrame (x : Nat) (rd : List PageFault) (s : State) : exec (.uartFrame x rd) s = execUartFrame x s rd := rfl
theorem exec_uartTransmit (x : Nat) (s : State) : exec (.uartTransmit x) s = execUartTransmit x s := rfl
theorem exec_uartDeTail (x : Nat) (s : State) : exec (.uartDeTail x) s = execUartDeTail x s := rfl
theorem exec_diagStepEnd (s : State) : exec .diagStepEnd s = execDiagStepEnd s := rfl
theorem exec_diagDoneTimeout (s : State) : exec .diagDoneTimeout s = execDiagDoneTimeout s := rfl
theorem exec_supplyRelease (rail : Nat) (s : State) : exec (.supplyRelease rail) s = execSupplyRelease rail s := rfl
theorem exec_backupLost (primary : Bool) (s : State) : exec (.backupLost primary) s = execBackupLost primary s := rfl
theorem exec_captureInputEdge (u : Nat) (rising : Bool) (s : State) : exec (.captureInputEdge u rising) s = execCaptureInputEdge u s rising := rfl
theorem exec_bankPowerUpEnd (b : Nat) (s : State) : exec (.bankPowerUpEnd b) s = execBankPowerUpEnd b s := rfl
theorem exec_tapInstruction (t : TapInstr) (s : State) : exec (.tapInstruction t) s = execTapInstruction t s := rfl

end Sys2Proof.Machine
end

