-- ==== Sys2Proof/Laws/Sparse.lean ====
section
/-! SUPPORT. Sparse data: reads after writes, and the canonical form that every write keeps. -/
namespace Sys2Proof.Machine

variable {α : Type}

/-! ### Reads after writes -/

@[simp] theorem sget_sinsert_same (d : Nat → α) (m : Sparse α) (k : Nat) (v : α) : sget d (sinsert m k v) k = v := by
  induction m with
  | nil => simp [sinsert, sget]
  | cons e m ih =>
    obtain ⟨a, w⟩ := e
    simp only [sinsert]
    split
    · simp [sget]
    · split
      · simp [sget]
      · rename_i h; simp [sget, h, ih]

theorem sget_sinsert_ne (d : Nat → α) (m : Sparse α) (k j : Nat) (v : α) (h : j ≠ k) : sget d (sinsert m k v) j = sget d m j := by
  induction m with
  | nil => simp [sinsert, sget, h]
  | cons e m ih =>
    obtain ⟨a, w⟩ := e
    simp only [sinsert]
    split
    · simp [sget, h]
    · split
      · rename_i e; subst e; simp [sget, h]
      · simp [sget, ih]

@[simp] theorem sget_serase_same (d : Nat → α) (m : Sparse α) (k : Nat) : sget d (serase m k) k = d k := by
  induction m with
  | nil => rfl
  | cons e m ih =>
    obtain ⟨a, w⟩ := e
    simp only [serase]
    split
    · exact ih
    · rename_i h; simp [sget, h, ih]

theorem sget_serase_ne (d : Nat → α) (m : Sparse α) (k j : Nat) (h : j ≠ k) : sget d (serase m k) j = sget d m j := by
  induction m with
  | nil => rfl
  | cons e m ih =>
    obtain ⟨a, w⟩ := e
    simp only [serase]
    split
    · rename_i e; subst e; simp [sget, h, ih]
    · simp [sget, ih]

variable [DecidableEq α]

/-- A read after a write to the same key gives the value written. -/
@[simp] theorem sget_sput_same (d : Nat → α) (m : Sparse α) (k : Nat) (v : α) : sget d (sput d m k v) k = v := by
  unfold sput; split
  · rename_i h; rw [sget_serase_same, h]
  · simp

/-- A write leaves every other key alone. -/
theorem sget_sput_ne (d : Nat → α) (m : Sparse α) (k j : Nat) (v : α) (h : j ≠ k) : sget d (sput d m k v) j = sget d m j := by
  unfold sput; split
  · exact sget_serase_ne d m k j h
  · exact sget_sinsert_ne d m k j v h

theorem sget_sputs (d : Nat → α) (m : Sparse α) (k : Nat) (vs : List α) (j : Nat) :
    sget d (sputs d m k vs) j = if k ≤ j then (vs[j - k]?).getD (sget d m j) else sget d m j := by
  induction vs generalizing m k with
  | nil => simp [sputs]
  | cons v vs ih =>
    simp only [sputs]
    rw [ih]
    by_cases h : j = k
    · subst h
      rw [if_neg (by omega), if_pos (Nat.le_refl _), sget_sput_same]
      simp
    · rw [sget_sput_ne d m k j v h]
      by_cases h1 : k + 1 ≤ j
      · rw [if_pos h1, if_pos (by omega)]
        have : j - k = (j - (k + 1)) + 1 := by omega
        rw [this, List.getElem?_cons_succ]
      · rw [if_neg h1, if_neg (by omega)]

/-! ### The canonical form -/

omit [DecidableEq α] in
theorem srising_mono {lo hi : Nat} (m : Sparse α) (h : srising hi m = true) (hl : lo ≤ hi) : srising lo m = true := by
  cases m with
  | nil => rfl
  | cons e m =>
    simp only [srising, Bool.and_eq_true, decide_eq_true_eq] at h ⊢
    exact ⟨by omega, h.2⟩

omit [DecidableEq α] in
theorem srising_serase (lo : Nat) (m : Sparse α) (k : Nat) (h : srising lo m = true) : srising lo (serase m k) = true := by
  induction m generalizing lo with
  | nil => rfl
  | cons e m ih =>
    obtain ⟨a, w⟩ := e
    simp only [srising, Bool.and_eq_true, decide_eq_true_eq] at h
    simp only [serase]
    split
    · exact srising_mono _ (ih (a + 1) h.2) (by omega)
    · simp only [srising, Bool.and_eq_true, decide_eq_true_eq]; exact ⟨h.1, ih _ h.2⟩

omit [DecidableEq α] in
theorem srising_sinsert (lo : Nat) (m : Sparse α) (k : Nat) (v : α) (h : srising lo m = true) (hk : lo ≤ k) :
    srising lo (sinsert m k v) = true := by
  induction m generalizing lo with
  | nil => simp [sinsert, srising, hk]
  | cons e m ih =>
    obtain ⟨a, w⟩ := e
    simp only [srising, Bool.and_eq_true, decide_eq_true_eq] at h
    simp only [sinsert]
    split
    · simp only [srising, Bool.and_eq_true, decide_eq_true_eq]; exact ⟨hk, by omega, h.2⟩
    · split
      · rename_i e; subst e; simp only [srising, Bool.and_eq_true, decide_eq_true_eq]; exact ⟨hk, h.2⟩
      · simp only [srising, Bool.and_eq_true, decide_eq_true_eq]; exact ⟨h.1, ih _ h.2 (by omega)⟩

omit [DecidableEq α] in
theorem mem_serase {m : Sparse α} {k : Nat} {e : Nat × α} (h : e ∈ serase m k) : e ∈ m := by
  induction m with
  | nil => exact h
  | cons x m ih =>
    obtain ⟨a, w⟩ := x
    simp only [serase] at h
    split at h
    · exact List.mem_cons_of_mem _ (ih h)
    · cases h with
      | head => exact List.mem_cons_self
      | tail _ h => exact List.mem_cons_of_mem _ (ih h)

omit [DecidableEq α] in
theorem mem_sinsert {m : Sparse α} {k : Nat} {v : α} {e : Nat × α} (h : e ∈ sinsert m k v) : e = (k, v) ∨ e ∈ m := by
  induction m with
  | nil => simp only [sinsert, List.mem_singleton] at h; exact Or.inl h
  | cons x m ih =>
    obtain ⟨a, w⟩ := x
    simp only [sinsert] at h
    split at h
    · cases h with
      | head => exact Or.inl rfl
      | tail _ h => exact Or.inr h
    · split at h
      · cases h with
        | head => exact Or.inl rfl
        | tail _ h => exact Or.inr (List.mem_cons_of_mem _ h)
      · cases h with
        | head => exact Or.inr List.mem_cons_self
        | tail _ h => exact (ih h).imp id (List.mem_cons_of_mem _)

/-- A write keeps the canonical form. -/
theorem swf_sput (d : Nat → α) (m : Sparse α) (k : Nat) (v : α) (h : swf d m = true) : swf d (sput d m k v) = true := by
  simp only [swf, Bool.and_eq_true, List.all_eq_true, decide_eq_true_eq] at h ⊢
  unfold sput
  split
  · exact ⟨srising_serase 0 m k h.1, fun e he => h.2 e (mem_serase he)⟩
  · rename_i hv
    refine ⟨srising_sinsert 0 m k v h.1 (Nat.zero_le _), fun e he => ?_⟩
    cases mem_sinsert he with
    | inl h' => subst h'; exact hv
    | inr h' => exact h.2 e h'

theorem swf_sputs (d : Nat → α) (m : Sparse α) (k : Nat) (vs : List α) (h : swf d m = true) : swf d (sputs d m k vs) = true := by
  induction vs generalizing m k with
  | nil => exact h
  | cons v vs ih => exact ih _ _ (swf_sput d m k v h)

omit [DecidableEq α] in
/-- Dropping entries keeps the canonical form. -/
theorem srising_filter (lo : Nat) (m : Sparse α) (p : Nat × α → Bool) (h : srising lo m = true) : srising lo (m.filter p) = true := by
  induction m generalizing lo with
  | nil => rfl
  | cons e m ih =>
    obtain ⟨a, w⟩ := e
    simp only [srising, Bool.and_eq_true, decide_eq_true_eq] at h
    rw [List.filter_cons]
    split
    · simp only [srising, Bool.and_eq_true, decide_eq_true_eq]; exact ⟨h.1, ih _ h.2⟩
    · exact srising_mono _ (ih _ h.2) (by omega)

theorem swf_filter (d : Nat → α) (m : Sparse α) (p : Nat × α → Bool) (h : swf d m = true) : swf d (m.filter p) = true := by
  simp only [swf, Bool.and_eq_true, List.all_eq_true, decide_eq_true_eq] at h ⊢
  exact ⟨srising_filter 0 m p h.1, fun e he => h.2 e (List.mem_filter.1 he).1⟩

end Sys2Proof.Machine
end

