-- ==== Sys2Proof/Laws/Rings.lean ====
section
/-! SUPPORT. The rings: what a response and an event change, and that they change nothing else. -/
namespace Sys2Proof.Machine

/-! ### Off the rings nothing changes -/

@[simp] theorem irq_off (s : State) (k : Nat) : (s.irq k).offRings = s.offRings := rfl
@[simp] theorem setMbx_off (s : State) (i : Nat) (w : Word) : (s.setMbx i w).offRings = s.offRings := rfl

@[simp] theorem ringWrite_off (s : State) (base n i : Nat) (ws : List Word) : (s.ringWrite base n i ws).offRings = s.offRings := by
  induction ws generalizing s i with
  | nil => rfl
  | cons w ws ih => rw [State.ringWrite, ih]; rfl

theorem evtMoved_off (s : State) (a b : Nat) : ({ s with host.evtHead := a, fw.evtSeq := b } : State).offRings = s.offRings := rfl
theorem rspMoved_off (s : State) (a : Nat) : ({ s with host.rspHead := a } : State).offRings = s.offRings := rfl

theorem putEvent_off (s : State) (code session : Nat) (ws : List Word) : (s.putEvent code session ws).offRings = s.offRings := by
  unfold State.putEvent
  dsimp only
  rw [irq_off, evtMoved_off, ringWrite_off]

theorem checkEvtTail_off (s : State) : s.checkEvtTail.offRings = s.offRings := by
  unfold State.checkEvtTail; split
  · rfl
  · rw [putEvent_off]; rfl

theorem postOverflow_off (s : State) : s.postOverflow.offRings = s.offRings := by
  unfold State.postOverflow; split
  · rfl
  · rw [putEvent_off]; rfl

/-- An event changes nothing but the rings. -/
@[simp] theorem event_off (s : State) (code session : Nat) (ws : List Word) : (s.event code session ws).offRings = s.offRings := by
  unfold State.event; split
  · rfl
  · dsimp only; split
    · show (State.offRings _) = _; exact (postOverflow_off _).trans (checkEvtTail_off s)
    · rw [putEvent_off]; exact (postOverflow_off _).trans (checkEvtTail_off s)

theorem checkRspTail_off (s : State) : s.checkRspTail.offRings = s.offRings := by
  unfold State.checkRspTail; split
  · rfl
  · dsimp only; rw [event_off]; rfl

theorem putResponse_off (s : State) (op session seq : Nat) (ws : List Word) : (s.putResponse op session seq ws).offRings = s.offRings := by
  unfold State.putResponse
  dsimp only
  rw [irq_off, rspMoved_off, ringWrite_off, checkRspTail_off]

theorem queueFrame_off (s : State) (x : Nat) (f : List Byte) : (s.queueFrame x f).offRings = s.offRings := by
  unfold State.queueFrame State.offRings modAt
  have : (s.uarts.modify x fun u => { u with outq := u.outq ++ [f] }).map (fun (u : Uart) => { u with outq := [] })
      = s.uarts.map fun (u : Uart) => { u with outq := [] } := by
    generalize s.uarts = l
    induction l generalizing x with
    | nil => cases x <;> rfl
    | cons u l ih =>
      cases x with
      | zero => rfl
      | succ x => simp [List.modify_succ_cons, ih]
  simp only [this]

theorem sendReply_off (s : State) (r : Reply) (ws : List Word) : (s.sendReply r ws).offRings = s.offRings := by
  unfold State.sendReply; split
  · exact putResponse_off ..
  · split
    · exact queueFrame_off ..
    · rfl

/-- No waiting response carries an agreement (R402). -/
def State.plainReplies (s : State) : Prop := ∀ r ∈ s.fw.replies, r.agrees = none

theorem postReply_off (s : State) (r : Reply) (ws : List Word) (h : r.agrees = none) : (s.postReply r ws).offRings = s.offRings := by
  unfold State.postReply; rw [h]; exact sendReply_off ..

theorem flush_fold_off (l : List Reply) (a : State × List Reply) (h : ∀ r ∈ l, r.agrees = none) :
    (l.foldl (fun (acc : State × List Reply) r =>
      match r.words with
      | some ws =>
        if acc.2.any (fun q => q.origin == r.origin) then (acc.1, acc.2 ++ [r])
        else (acc.1.postReply r ws, acc.2)
      | none => (acc.1, acc.2 ++ [r])) a).1.offRings = a.1.offRings := by
  induction l generalizing a with
  | nil => rfl
  | cons r l ih =>
    rw [List.foldl_cons, ih _ fun x hx => h x (by simp [hx])]
    split
    · split
      · rfl
      · exact postReply_off _ _ _ (h r (by simp))
    · rfl

theorem flushReplies_off (s : State) (h : s.plainReplies) : s.flushReplies.offRings = s.offRings := by
  unfold State.flushReplies
  exact flush_fold_off s.fw.replies (s, []) h

/-- An answer changes nothing but the rings. -/
theorem respond_off (s : State) (c : Cmd) (ws : List Word) (h : s.plainReplies) : (s.respond c ws).offRings = s.offRings := by
  unfold State.respond
  rw [flushReplies_off]
  · rfl
  · intro r hr
    rcases List.mem_append.mp hr with hr | hr
    · exact h r hr
    · rw [List.mem_singleton.mp hr]

theorem answer_off (s : State) (c : Cmd) (st d : Nat) (h : s.plainReplies) : (s.answer c st d).offRings = s.offRings := respond_off _ _ _ h
theorem ok_off (s : State) (c : Cmd) (ws : List Word) (h : s.plainReplies) : (s.ok c ws).offRings = s.offRings := respond_off _ _ _ h
@[simp] theorem awaitReply_off (s : State) (c : Cmd) : (s.awaitReply c).offRings = s.offRings := rfl

/-- What two states that agree off the rings share. -/
theorem offRings_part {s t : State} (h : t.offRings = s.offRings) : t.part = s.part ∧ t.pending = s.pending :=
  ⟨(congrArg State.part h : _), (congrArg State.pending h : _)⟩

/-! ### Words of a ring -/

theorem mbx_setMbx_same (s : State) (i : Nat) (w : Word) : (s.setMbx i w).mbx i = w := sget_sput_same ..
theorem mbx_setMbx_ne (s : State) (i j : Nat) (w : Word) (h : j ≠ i) : (s.setMbx i w).mbx j = s.mbx j := sget_sput_ne _ _ _ _ _ h

/-- Words outside those written stay. -/
theorem ringWrite_other (s : State) (base n i j : Nat) (ws : List Word)
    (h : ∀ k, k < ws.length → j ≠ base + (i + k) % n) : (s.ringWrite base n i ws).mbx j = s.mbx j := by
  induction ws generalizing s i with
  | nil => rfl
  | cons w ws ih =>
    rw [State.ringWrite, ih]
    · exact mbx_setMbx_ne _ _ _ _ (by simpa using h 0 (by simp))
    · intro k hk
      have := h (k + 1) (by simp; omega)
      rw [Nat.mod_add_mod]
      rwa [show i + 1 + k = i + (k + 1) by omega]

/-- The words written read back. -/
theorem ringWrite_read (s : State) (base n i k : Nat) (ws : List Word) (hl : ws.length ≤ n) (hk : k < ws.length) :
    (s.ringWrite base n i ws).mbx (base + (i + k) % n) = ws.getD k 0 := by
  induction ws generalizing s i k with
  | nil => simp at hk
  | cons w ws ih =>
    simp only [List.length_cons] at hl hk
    rw [State.ringWrite]
    cases k with
    | zero =>
      rw [ringWrite_other _ _ _ _ _ _]
      · simpa using mbx_setMbx_same s (base + i % n) w
      · intro q hq e
        have e' : (i + 0) % n = ((i + 1) % n + q) % n := by omega
        rw [Nat.mod_add_mod] at e'
        have : (i + 1 + q) % n = (i + (q + 1)) % n := by congr 1; omega
        rw [this] at e'
        have h1 := Nat.div_add_mod (i + 0) n
        have h2 := Nat.div_add_mod (i + (q + 1)) n
        rw [e'] at h1
        have h3 : n * ((i + (q + 1)) / n) = n * ((i + 0) / n) + (q + 1) := by omega
        have h4 : n * ((i + (q + 1)) / n - (i + 0) / n) = q + 1 := by rw [Nat.mul_sub]; omega
        have h5 : 1 ≤ (i + (q + 1)) / n - (i + 0) / n := by
          rcases Nat.eq_zero_or_pos ((i + (q + 1)) / n - (i + 0) / n) with h | h
          · rw [h] at h4; omega
          · exact h
        have h6 := Nat.mul_le_mul_left n h5
        omega
    | succ k =>
      have := ih (s.setMbx (base + i % n) w) ((i + 1) % n) k (by omega) (by omega)
      rw [Nat.mod_add_mod] at this
      rw [show i + (k + 1) = i + 1 + k by omega, this]; simp

theorem ringWrite_rspHead (s : State) (base n i : Nat) (ws : List Word) : (s.ringWrite base n i ws).host.rspHead = s.host.rspHead := by
  induction ws generalizing s i with
  | nil => rfl
  | cons w ws ih => rw [State.ringWrite, ih]; rfl

/-- A ring command's answer where no other waits is posted at once. -/
theorem respond_clear (s : State) (c : Cmd) (ws : List Word) (h : s.fw.replies = []) (ho : c.origin = .ring) :
    s.respond c ws = { ({ s with fw.replies := [Reply.mk c.opcode c.session c.seq c.origin (some ws) none] }).putResponse c.opcode c.session c.seq ws with
      fw.replies := [] } := by
  unfold State.respond State.flushReplies
  rw [h]
  simp [State.postReply, State.sendReply, ho]

/-- A legal tail is only remembered. -/
theorem checkRspTail_legal (s : State) (h : tailLegal s.fw.seenRspTail s.host.rspTail s.host.rspHead = true) :
    s.checkRspTail = { s with fw.seenRspTail := s.host.rspTail } := by
  unfold State.checkRspTail; rw [if_pos h]

theorem irq_get (s : State) (k : Nat) (h : k < 32) : (s.irq k).host.irqStatus.getLsbD k = true := by
  unfold State.irq setBit
  simp [h]

/-- Two states with the same rings, queue and factory facts. -/
def SameRings (s u : State) : Prop :=
  u.host.mailbox = s.host.mailbox ∧ u.host.rspHead = s.host.rspHead ∧ u.host.rspTail = s.host.rspTail
    ∧ u.host.evtHead = s.host.evtHead ∧ u.host.evtTail = s.host.evtTail ∧ u.host.irqStatus = s.host.irqStatus
    ∧ u.fw.evtSeq = s.fw.evtSeq ∧ u.fw.dropped = s.fw.dropped ∧ u.fw.replies = s.fw.replies
    ∧ u.fw.seenRspTail = s.fw.seenRspTail ∧ u.fw.seenEvtTail = s.fw.seenEvtTail ∧ u.uarts = s.uarts
    ∧ u.pending = s.pending ∧ u.part = s.part

theorem SameRings.refl (s : State) : SameRings s s := ⟨rfl, rfl, rfl, rfl, rfl, rfl, rfl, rfl, rfl, rfl, rfl, rfl, rfl, rfl⟩

theorem ringWrite_host (s : State) (base n i : Nat) (ws : List Word) :
    ∃ mb, s.ringWrite base n i ws = { s with host.mailbox := mb } := by
  induction ws generalizing s i with
  | nil => exact ⟨s.host.mailbox, rfl⟩
  | cons w ws ih =>
    obtain ⟨mb, h⟩ := ih (s.setMbx (base + i % n) w) ((i + 1) % n)
    exact ⟨mb, by rw [State.ringWrite, h]; rfl⟩

/-- A response that is posted at once stands in the ring, and no other word of the mailbox has changed. -/
theorem responds_respond (s u : State) (op : Nat) (m : Msg) (ws : List Word) (h : ClearToAnswer s) (hr : SameRings s u)
    (hl : ws.length < 2047) :
    Responds s (u.respond (cmdOf op m) ws) op m ws ∧ OnlyResponds s (u.respond (cmdOf op m) ws) ws.length := by
  obtain ⟨r1, r2, r3, r4, r5, r6, r7, r8, r9, r10, r11, r12, r13, r14⟩ := hr
  rw [respond_clear u _ ws (r9.trans h.1) rfl]
  let v : State := { u with fw.replies := [Reply.mk op m.session m.seq Origin.ring (some ws) none] }
  let x : State := { v with fw.seenRspTail := v.host.rspTail }
  have e : v.checkRspTail = x := checkRspTail_legal v (by
    show tailLegal u.fw.seenRspTail u.host.rspTail u.host.rspHead = true
    rw [r10, r3, r2]; exact h.2)
  let y := x.ringWrite 4096 2048 x.host.rspHead (header op m.session m.seq ws.length :: ws)
  have f : v.putResponse op m.session m.seq ws = ({ y with host.rspHead := (x.host.rspHead + ws.length + 1) % 2048 }).irq 0 := by
    unfold State.putResponse; rw [e]
  have hx : x.host.rspHead = s.host.rspHead := r2
  obtain ⟨mb, hm⟩ := ringWrite_host x 4096 2048 x.host.rspHead (header op m.session m.seq ws.length :: ws)
  show Responds s { v.putResponse op m.session m.seq ws with fw.replies := [] } op m ws
    ∧ OnlyResponds s { v.putResponse op m.session m.seq ws with fw.replies := [] } ws.length
  rw [f]
  refine ⟨⟨fun i hi => ?_, ?_, irq_get _ 0 (by decide)⟩, fun j hj => ?_, ?_⟩
  · have := ringWrite_read x 4096 2048 x.host.rspHead i (header op m.session m.seq ws.length :: ws) (by simp; omega) (by simp; omega)
    rw [← hx]
    exact this
  · rw [← hx]; rfl
  · have := ringWrite_other x 4096 2048 x.host.rspHead j (header op m.session m.seq ws.length :: ws)
      (fun k hk => by rw [hx]; exact hj k (by simp at hk; omega))
    refine Eq.trans this ?_
    show sget _ u.host.mailbox j = sget _ s.host.mailbox j
    rw [r1]
  · show setBit y.host.irqStatus 0 = _ ∧ y.host.rspTail = _ ∧ y.host.evtHead = _ ∧ y.host.evtTail = _ ∧ y.fw.evtSeq = _ ∧ y.fw.dropped = _
      ∧ [] = [] ∧ y.uarts = _
    show setBit (x.ringWrite 4096 2048 x.host.rspHead (header op m.session m.seq ws.length :: ws)).host.irqStatus 0 = _
      ∧ (x.ringWrite 4096 2048 x.host.rspHead (header op m.session m.seq ws.length :: ws)).host.rspTail = _
      ∧ (x.ringWrite 4096 2048 x.host.rspHead (header op m.session m.seq ws.length :: ws)).host.evtHead = _
      ∧ (x.ringWrite 4096 2048 x.host.rspHead (header op m.session m.seq ws.length :: ws)).host.evtTail = _
      ∧ (x.ringWrite 4096 2048 x.host.rspHead (header op m.session m.seq ws.length :: ws)).fw.evtSeq = _
      ∧ (x.ringWrite 4096 2048 x.host.rspHead (header op m.session m.seq ws.length :: ws)).fw.dropped = _
      ∧ _ ∧ (x.ringWrite 4096 2048 x.host.rspHead (header op m.session m.seq ws.length :: ws)).uarts = _
    rw [hm]
    exact ⟨congrArg (setBit · 0) r6, r3, r4, r5, r7, r8, rfl, r12⟩

/-- Putting back the queue and the factory facts a state already has changes nothing. -/
theorem done_same (s t : State) (h1 : t.pending = s.pending) (h2 : t.part = s.part) : s.done t = .next t := by
  unfold State.done
  rw [← h1, ← h2]

/-- A row whose command is taken answers at once: its work ends in an answer from `u`, whose rings are those of `s`. -/
theorem answers_of (s u : State) (i : Instr) (op : Nat) (m : Msg) (ws : List Word) (hc : ClearToAnswer s)
    (h : exec i s = s.done (u.respond (cmdOf op m) ws)) (hr : SameRings s u) (hl : ws.length < 2047) : Answers s i op m ws u := by
  have ho := respond_off u (cmdOf op m) ws (by
    obtain ⟨_, _, _, _, _, _, _, _, r9, _, _, _, _, _⟩ := hr
    intro r h; rw [r9, hc.1] at h; exact absurd h (by simp))
  have h1 := offRings_part ho
  have hr' := hr
  obtain ⟨_, _, _, _, _, _, _, _, _, _, _, _, r13, r14⟩ := hr'
  exact ⟨_, h.trans (done_same _ _ (h1.2.trans r13) (h1.1.trans r14)), ho, responds_respond s u op m ws hc hr hl⟩

/-! ### Events -/

theorem putEvent_posts (s : State) (code session : Nat) (ws : List Word) (hl : ws.length < 2045) :
    Posts s (s.putEvent code session ws) code session ws ∧ OnlyPosts s (s.putEvent code session ws) ws.length := by
  unfold State.putEvent
  have len : (header code session s.fw.evtSeq (ws.length + 2) :: (timeWords s.time ++ ws)).length = ws.length + 3 := by simp [timeWords]
  generalize hh : header code session s.fw.evtSeq (ws.length + 2) :: (timeWords s.time ++ ws) = h at len
  obtain ⟨mb, hm⟩ := ringWrite_host s 6144 2048 s.host.evtHead h
  have a1 := fun i (hi : i ≤ ws.length + 2) => ringWrite_read s 6144 2048 s.host.evtHead i h (by omega) (by omega)
  have a2 := fun j (hj : ∀ i, i ≤ ws.length + 2 → j ≠ 6144 + (s.host.evtHead + i) % 2048) =>
    ringWrite_other s 6144 2048 s.host.evtHead j h (fun k hk => hj k (by omega))
  unfold Posts OnlyPosts
  rw [hh]
  dsimp only
  rw [hh]
  generalize s.ringWrite 6144 2048 s.host.evtHead h = y at hm a1 a2
  subst hm
  exact ⟨⟨a1, rfl, rfl, irq_get _ 1 (by decide)⟩, a2, rfl, rfl, rfl, rfl, rfl⟩

/-- An event that finds room is posted at once, and no other word of the mailbox has changed. -/
theorem event_posts (s : State) (code session : Nat) (ws : List Word) (h : ClearToPost s ws.length) :
    Posts s (s.event code session ws) code session ws ∧ OnlyPosts s (s.event code session ws) ws.length := by
  obtain ⟨h1, h2, h3, h4⟩ := h
  have e1 : s.checkEvtTail = { s with fw.seenEvtTail := s.host.evtTail } := by unfold State.checkEvtTail; rw [if_pos h3]
  let x : State := { s with fw.seenEvtTail := s.host.evtTail }
  have e2 : x.postOverflow = x := by unfold State.postOverflow; rw [if_pos (Or.inl h2)]
  have e : s.event code session ws = x.putEvent code session ws := by
    unfold State.event
    rw [h1, e1]
    show (if (!true) = true then s else
      if (x.postOverflow.fw.dropped != 0 || decide (x.postOverflow.evtFree < ws.length + 3)) = true
      then { x.postOverflow with fw.dropped := satAdd 32 x.postOverflow.fw.dropped 1 } else x.postOverflow.putEvent code session ws) = _
    rw [e2]
    have : x.evtFree = s.evtFree := rfl
    have h5 : x.fw.dropped = 0 := h2
    rw [h5, this]
    simp [Nat.not_lt.mpr h4]
  rw [e]
  exact putEvent_posts x code session ws (by unfold State.evtFree at h4; omega)

/-- Two states with the same event ring, time, queue and factory facts. -/
def SameEvents (s u : State) : Prop :=
  u.host.evtHead = s.host.evtHead ∧ u.host.evtTail = s.host.evtTail ∧ u.fw.evtSeq = s.fw.evtSeq ∧ u.fw.dropped = s.fw.dropped
    ∧ u.fw.seenEvtTail = s.fw.seenEvtTail ∧ u.time = s.time ∧ u.isReady = s.isReady ∧ u.pending = s.pending ∧ u.part = s.part

theorem SameEvents.refl (s : State) : SameEvents s s := ⟨rfl, rfl, rfl, rfl, rfl, rfl, rfl, rfl, rfl⟩

/-- What `Posts` says only speaks of the event ring and the time. -/
theorem posts_same {s u t : State} {code session : Nat} {ws : List Word} (hr : SameEvents s u)
    (h : Posts u t code session ws) : Posts s t code session ws := by
  obtain ⟨r1, r2, r3, r4, r5, r6, r7, r8, r9⟩ := hr
  unfold Posts at *
  rw [r1, r3, r6] at h
  exact h

theorem clearToPost_same {s u : State} {n : Nat} (hr : SameEvents s u) (h : ClearToPost s n) : ClearToPost u n := by
  obtain ⟨r1, r2, r3, r4, r5, r6, r7, r8, r9⟩ := hr
  unfold ClearToPost State.evtFree at *
  rw [r7, r4, r5, r2, r1]
  exact h

/-- An outstanding command of the ring ends with its COMPLETION. -/
theorem finishes_of (s u : State) (i : Instr) (j : Job) (st : Nat) (ws : List Word) (hj : j.origin = .ring)
    (h : exec i s = s.done (u.complete j st ws)) (hc : ClearToPost s (ws.length + 1)) (hr : SameEvents s u) :
    Finishes s i j st ws u := by
  let v : State := { u with fw.jobs := u.fw.jobs.erase j }
  have e : u.complete j st ws = v.event 0x81 j.session (completionWords j st ws) := by
    unfold State.complete; rw [hj]; rfl
  have hv : SameEvents s v := hr
  have hcv : ClearToPost v (completionWords j st ws).length := by
    unfold completionWords; simp only [List.length_cons]; exact clearToPost_same (u := v) hv hc
  rw [e] at h
  have ho := event_off v 0x81 j.session (completionWords j st ws)
  have h1 := offRings_part ho
  obtain ⟨_, _, _, _, _, _, _, r13, r14⟩ := hr
  exact ⟨_, h.trans (done_same _ _ (h1.2.trans r13) (h1.1.trans r14)), ho, posts_same hv (event_posts v _ _ _ hcv).1⟩

/-- Calling banks on changes no more than the memories' own state. -/
theorem wakeBank_mem (s : State) (b : Nat) : s.wakeBank b = { s with mem.banks := (s.wakeBank b).mem.banks } := by
  unfold State.wakeBank State.setBank
  split <;> rfl

@[simp] theorem cmdOf_w (op : Nat) (m : Msg) (i : Nat) : (cmdOf op m).w i = payload m i := rfl
@[simp] theorem cmdOf_words (op : Nat) (m : Msg) : (cmdOf op m).words = m.words := rfl
@[simp] theorem cmdOf_session (op : Nat) (m : Msg) : (cmdOf op m).session = m.session := rfl

/-- A command of the ring that is taken does its work. -/
theorem takeWith_takes (s : State) (c : Cmd) (work : Cmd → State → State) (h : Takes s c) (_ho : c.origin = .ring) :
    s.takeWith c work = work c s := by
  obtain ⟨h1, h2, h3⟩ := h
  unfold State.takeWith
  rw [h1, h2, h3]; simp

/-- A row whose message is taken now does its command's work. -/
theorem run_row (s : State) (op : Nat) (m : Msg) (work : Cmd → State → State) (h : TakenNow s op m) :
    s.done (s.takeWith (cmdOf op m) work) = s.done (work (cmdOf op m) s) := by rw [takeWith_takes _ _ _ h.1 rfl]

/-- A row that leaves its response for later. -/
theorem awaits_of (s u : State) (i : Instr) (c : Cmd) (h : exec i s = s.done (u.awaitReply c)) (hp : u.pending = s.pending)
    (hq : u.part = s.part) (hh : u.host = s.host) (hf : u.fw.replies = s.fw.replies) : AwaitsReply s i c u := by
  refine ⟨_, h.trans (done_same _ _ hp hq), rfl, hh, ?_⟩
  show u.fw.replies ++ _ = _
  rw [hf]

end Sys2Proof.Machine
end

