-- ==== Sys2Proof/Laws/Kiln.lean ====
section
/-! SUPPORT. How a row that may raise messages ends: what the Kiln has taken (R319, R321). -/
namespace Sys2Proof.Machine

/-- Clearing a list of messages that is empty already changes nothing. -/
theorem Kiln.cleared (k : Kiln) (h : k.raised = []) : { k with raised := [] } = k := by
  cases k
  simp only at h
  subst h
  rfl

/-- Where no message was raised the Kiln takes none. -/
theorem hear_nil (s : State) (h : s.kiln.raised = []) : s.hear = s := by
  unfold State.hear
  rw [h]
  show { s with kiln := { s.kiln with raised := [] } } = s
  rw [Kiln.cleared s.kiln h]

/-- A row that raised nothing and kept the queue and the factory facts ends in its state. -/
theorem ends_quiet (s t : State) (h : t.kiln.raised = []) (h1 : t.pending = s.pending) (h2 : t.part = s.part) : s.ends t = .next t := by
  unfold State.ends
  rw [hear_nil t h]
  exact done_same s t h1 h2

/-- A message raised where none waits is taken alone. -/
theorem hear_report (s : State) (m : BitVec 64) (master access : Nat) (h : s.isReady = true) (hr : s.kiln.raised = [])
    (hk : kindReserved (msgKind m) = false) (hl : msgLevel m ≤ 5) :
    (s.report m master access).hear = (s.takeMsg m master access).c0Rate m master access := by
  have e : s.report m master access = { s with kiln.raised := [⟨m, master, access⟩] } := by
    unfold State.report
    rw [hk, h, hr, if_neg (by simp; omega)]
    rfl
  rw [e]
  show ((({ s with kiln := { s.kiln with raised := [] } } : State).takeMsg m master access).c0Rate m master access) = _
  rw [Kiln.cleared s.kiln hr]

/-- An answer leaves the Kiln as it was. -/
theorem respond_kiln (s : State) (c : Cmd) (ws : List Word) (h : s.plainReplies) : (s.respond c ws).kiln = s.kiln :=
  (congrArg (fun x : State => x.kiln) (respond_off s c ws h) : _)

/-- An event leaves the Kiln as it was. -/
theorem event_kiln (s : State) (code session : Nat) (ws : List Word) : (s.event code session ws).kiln = s.kiln :=
  (congrArg (fun x : State => x.kiln) (event_off s code session ws) : _)

/-- An outstanding command of the ring ends with its COMPLETION, in a row that may raise messages and raised none. -/
theorem finishes_of_ends (s u : State) (i : Instr) (j : Job) (st : Nat) (ws : List Word) (hj : j.origin = .ring)
    (h : exec i s = s.ends (u.complete j st ws)) (hq : u.kiln.raised = []) (hc : ClearToPost s (ws.length + 1)) (hr : SameEvents s u) :
    Finishes s i j st ws u := by
  refine finishes_of s u i j st ws hj (h.trans ?_) hc hr
  have e : (u.complete j st ws).kiln = u.kiln := by
    unfold State.complete; rw [hj]
    exact event_kiln _ _ _ _
  unfold State.ends
  rw [hear_nil _ (by rw [e]; exact hq)]

end Sys2Proof.Machine
end

