-- ==== Sys2Proof/Laws/Locks.lean ====
section
/-! SUPPORT. Locks of the memory banks: calling locked banks on changes the memories' state alone; a deferred command's answer. -/
namespace Sys2Proof.Machine

/-- A bank called on. -/
def calledOn (p : BankPower) : BankPower :=
  match p with
  | .retention => .exiting
  | .off => .powering
  | p => p

/-- The banks after those of a mask have been called on. -/
def wakeMask (l : Nat) (banks : List BankPower) : List Nat → List BankPower
  | [] => banks
  | b :: rest => wakeMask l (if bit l b then banks.set b (calledOn (banks.getD b .on)) else banks) rest

theorem set_getD_self {α : Type} (l : List α) (b : Nat) (d : α) : l.set b (l.getD b d) = l := by
  induction l generalizing b with
  | nil => rfl
  | cons a l ih => cases b with
    | zero => rfl
    | succ b => simp only [List.set_cons_succ, List.getD_cons_succ, ih]

theorem wakeBank_eq (s : State) (b : Nat) :
    s.wakeBank b = { s with mem.banks := s.mem.banks.set b (calledOn (s.mem.banks.getD b .on)) } := by
  have same : ∀ p, s.mem.banks.getD b .on = p → calledOn p = p → s = { s with mem.banks := s.mem.banks.set b (calledOn (s.mem.banks.getD b .on)) } := by
    intro p h1 h2
    rw [h1, h2, ← h1, set_getD_self]
  have hs := same _ rfl
  unfold State.wakeBank State.setBank State.bank
  revert hs
  cases s.mem.banks.getD b .on
  all_goals first | exact fun hs => hs rfl | exact fun _ => rfl

theorem banks_locks (s : State) (l : List BankPower) : ({ s with mem.banks := l } : State).locks = s.locks := rfl

theorem wakeFold_eq (s : State) (l : List Nat) :
    l.foldl (fun (s : State) b => if bit s.locks b then s.wakeBank b else s) s = { s with mem.banks := wakeMask s.locks s.mem.banks l } := by
  induction l generalizing s with
  | nil => rfl
  | cons b l ih =>
    rw [List.foldl_cons, ih]
    have e : wakeMask s.locks s.mem.banks (b :: l)
        = wakeMask s.locks (if bit s.locks b then s.mem.banks.set b (calledOn (s.mem.banks.getD b .on)) else s.mem.banks) l := rfl
    rw [e]
    by_cases h : bit s.locks b
    · rw [if_pos h, if_pos h, wakeBank_eq, banks_locks]
    · rw [if_neg h, if_neg h]

/-- Calling every locked bank on changes the memories' own state alone. -/
theorem applyLocks_eq (s : State) :
    s.applyLocks = { s with mem := { s.mem with banks := wakeMask s.locks s.mem.banks (List.range 12), locked := s.mem.locked ||| s.locks } } := by
  unfold State.applyLocks
  dsimp only
  rw [wakeFold_eq]
  rfl

theorem locks_off {s t : State} (h : t.offRings = s.offRings) : t.locks = s.locks := by
  have h1 : t.host.hoStep = s.host.hoStep := (congrArg (fun x : State => x.host.hoStep) h : _)
  have h2 : t.fw.anchorDue = s.fw.anchorDue := (congrArg (fun x : State => x.fw.anchorDue) h : _)
  have h3 : t.fw.jobs = s.fw.jobs := (congrArg (fun x : State => x.fw.jobs) h : _)
  unfold State.locks State.sysLock State.scratchLock State.jobOf
  rw [h1, h2, h3]

/-- A row whose command is deferred answers ACCEPTED. -/
theorem answers_deferred (s u : State) (i : Instr) (op : Nat) (m : Msg) (work : Cmd → State → State) (ht : TakenNow s op m)
    (he : exec i s = s.done (s.takeWith (cmdOf op m) work)) (hw : work (cmdOf op m) s = u.deferWork (cmdOf op m)) (hr : SameRings s u) :
    Answers s i op m [acceptedWord] (u.deferred (cmdOf op m)) := by
  have hd := responds_respond s u op m [acceptedWord] ht.2 hr (by simp)
  have ho : (u.respond (cmdOf op m) [acceptedWord]).offRings = u.offRings := respond_off _ _ _ (by
    obtain ⟨_, _, _, _, _, _, _, _, r9, _, _, _, _, _⟩ := hr
    intro r h; rw [r9, ht.2.1] at h; exact absurd h (by simp))
  let a := u.respond (cmdOf op m) [acceptedWord]
  let b : State := { a with fw.jobs := a.fw.jobs ++ [Job.mk op m.session m.seq Origin.ring m.words 0] }
  have hb : b.offRings = (u.withJob (cmdOf op m)).offRings := by
    have h3 : a.fw.jobs = u.fw.jobs := (congrArg (fun x : State => x.fw.jobs) ho : _)
    have : b.offRings = { a.offRings with fw.jobs := a.fw.jobs ++ [Job.mk op m.session m.seq Origin.ring m.words 0] } := rfl
    rw [this, ho, h3]
    rfl
  have hl := locks_off hb
  have e : u.deferWork (cmdOf op m) = b.applyLocks := rfl
  have hm : b.mem = (u.withJob (cmdOf op m)).mem := (congrArg (fun x : State => x.mem) hb : _)
  have hoff : b.applyLocks.offRings = (u.deferred (cmdOf op m)).offRings := by
    unfold State.deferred
    rw [applyLocks_eq b, applyLocks_eq (u.withJob (cmdOf op m)), hl, hm]
    exact congrArg (fun x : State => { x with mem := { (u.withJob (cmdOf op m)).mem with
      banks := wakeMask (u.withJob (cmdOf op m)).locks (u.withJob (cmdOf op m)).mem.banks (List.range 12)
      locked := (u.withJob (cmdOf op m)).mem.locked ||| (u.withJob (cmdOf op m)).locks } }) hb
  have h1 := offRings_part hoff
  have hp : (u.deferred (cmdOf op m)).pending = s.pending ∧ (u.deferred (cmdOf op m)).part = s.part := by
    obtain ⟨_, _, _, _, _, _, _, _, _, _, _, _, r13, r14⟩ := hr
    unfold State.deferred
    rw [applyLocks_eq]
    exact ⟨r13, r14⟩
  refine ⟨b.applyLocks, ?_, hoff, ?_⟩
  · rw [he, run_row _ _ _ _ ht, hw, e]
    exact done_same _ _ (h1.2.trans hp.1) (h1.1.trans hp.2)
  · rw [applyLocks_eq]
    exact hd

end Sys2Proof.Machine
end

