-- ==== Sys2Proof/Laws/State.lean ====
section
/-! SUPPORT. What each named update of the state leaves as it was, field by field. -/
namespace Sys2Proof.Machine

@[simp] theorem State.setReg_pending (s : State) (b o : Nat) (w : Word) : (s.setReg b o w).pending = s.pending := rfl
@[simp] theorem State.setReg_freeCount (s : State) (b o : Nat) (w : Word) : (s.setReg b o w).freeCount = s.freeCount := rfl
@[simp] theorem State.setReg_part (s : State) (b o : Nat) (w : Word) : (s.setReg b o w).part = s.part := rfl
@[simp] theorem State.setReg_time (s : State) (b o : Nat) (w : Word) : (s.setReg b o w).time = s.time := rfl
@[simp] theorem State.setReg_lastBlock (s : State) (b o : Nat) (w : Word) : (s.setReg b o w).lastBlock = s.lastBlock := rfl
@[simp] theorem State.setReg_pwr (s : State) (b o : Nat) (w : Word) : (s.setReg b o w).pwr = s.pwr := rfl
@[simp] theorem State.setReg_host (s : State) (b o : Nat) (w : Word) : (s.setReg b o w).host = s.host := rfl
@[simp] theorem State.setReg_fw (s : State) (b o : Nat) (w : Word) : (s.setReg b o w).fw = s.fw := rfl
@[simp] theorem State.setReg_hop (s : State) (b o : Nat) (w : Word) : (s.setReg b o w).hop = s.hop := rfl
@[simp] theorem State.setReg_mash (s : State) (b o : Nat) (w : Word) : (s.setReg b o w).mash = s.mash := rfl
@[simp] theorem State.setReg_tbs (s : State) (b o : Nat) (w : Word) : (s.setReg b o w).tbs = s.tbs := rfl
@[simp] theorem State.setReg_tbPins (s : State) (b o : Nat) (w : Word) : (s.setReg b o w).tbPins = s.tbPins := rfl
@[simp] theorem State.setReg_store (s : State) (b o : Nat) (w : Word) : (s.setReg b o w).store = s.store := rfl
@[simp] theorem State.setReg_kiln (s : State) (b o : Nat) (w : Word) : (s.setReg b o w).kiln = s.kiln := rfl
@[simp] theorem State.setReg_cop (s : State) (b o : Nat) (w : Word) : (s.setReg b o w).cop = s.cop := rfl
@[simp] theorem State.setReg_tdm (s : State) (b o : Nat) (w : Word) : (s.setReg b o w).tdm = s.tdm := rfl
@[simp] theorem State.setReg_sns (s : State) (b o : Nat) (w : Word) : (s.setReg b o w).sns = s.sns := rfl
@[simp] theorem State.setReg_prof (s : State) (b o : Nat) (w : Word) : (s.setReg b o w).prof = s.prof := rfl
@[simp] theorem State.setReg_dacs (s : State) (b o : Nat) (w : Word) : (s.setReg b o w).dacs = s.dacs := rfl
@[simp] theorem State.setReg_tmr (s : State) (b o : Nat) (w : Word) : (s.setReg b o w).tmr = s.tmr := rfl
@[simp] theorem State.setReg_tcl (s : State) (b o : Nat) (w : Word) : (s.setReg b o w).tcl = s.tcl := rfl
@[simp] theorem State.setReg_uarts (s : State) (b o : Nat) (w : Word) : (s.setReg b o w).uarts = s.uarts := rfl
@[simp] theorem State.setReg_mem (s : State) (b o : Nat) (w : Word) : (s.setReg b o w).mem = s.mem := rfl
@[simp] theorem State.setReg_chain (s : State) (b o : Nat) (w : Word) : (s.setReg b o w).chain = s.chain := rfl

@[simp] theorem State.irq_pending (s : State) (k : Nat) : (s.irq k).pending = s.pending := rfl
@[simp] theorem State.irq_freeCount (s : State) (k : Nat) : (s.irq k).freeCount = s.freeCount := rfl
@[simp] theorem State.irq_part (s : State) (k : Nat) : (s.irq k).part = s.part := rfl
@[simp] theorem State.irq_time (s : State) (k : Nat) : (s.irq k).time = s.time := rfl
@[simp] theorem State.irq_lastBlock (s : State) (k : Nat) : (s.irq k).lastBlock = s.lastBlock := rfl
@[simp] theorem State.irq_pwr (s : State) (k : Nat) : (s.irq k).pwr = s.pwr := rfl
@[simp] theorem State.irq_fw (s : State) (k : Nat) : (s.irq k).fw = s.fw := rfl
@[simp] theorem State.irq_regs (s : State) (k : Nat) : (s.irq k).regs = s.regs := rfl
@[simp] theorem State.irq_hop (s : State) (k : Nat) : (s.irq k).hop = s.hop := rfl
@[simp] theorem State.irq_mash (s : State) (k : Nat) : (s.irq k).mash = s.mash := rfl
@[simp] theorem State.irq_tbs (s : State) (k : Nat) : (s.irq k).tbs = s.tbs := rfl
@[simp] theorem State.irq_tbPins (s : State) (k : Nat) : (s.irq k).tbPins = s.tbPins := rfl
@[simp] theorem State.irq_store (s : State) (k : Nat) : (s.irq k).store = s.store := rfl
@[simp] theorem State.irq_kiln (s : State) (k : Nat) : (s.irq k).kiln = s.kiln := rfl
@[simp] theorem State.irq_cop (s : State) (k : Nat) : (s.irq k).cop = s.cop := rfl
@[simp] theorem State.irq_tdm (s : State) (k : Nat) : (s.irq k).tdm = s.tdm := rfl
@[simp] theorem State.irq_sns (s : State) (k : Nat) : (s.irq k).sns = s.sns := rfl
@[simp] theorem State.irq_prof (s : State) (k : Nat) : (s.irq k).prof = s.prof := rfl
@[simp] theorem State.irq_dacs (s : State) (k : Nat) : (s.irq k).dacs = s.dacs := rfl
@[simp] theorem State.irq_tmr (s : State) (k : Nat) : (s.irq k).tmr = s.tmr := rfl
@[simp] theorem State.irq_tcl (s : State) (k : Nat) : (s.irq k).tcl = s.tcl := rfl
@[simp] theorem State.irq_uarts (s : State) (k : Nat) : (s.irq k).uarts = s.uarts := rfl
@[simp] theorem State.irq_mem (s : State) (k : Nat) : (s.irq k).mem = s.mem := rfl
@[simp] theorem State.irq_chain (s : State) (k : Nat) : (s.irq k).chain = s.chain := rfl

@[simp] theorem State.setMbx_pending (s : State) (i : Nat) (w : Word) : (s.setMbx i w).pending = s.pending := rfl
@[simp] theorem State.setMbx_freeCount (s : State) (i : Nat) (w : Word) : (s.setMbx i w).freeCount = s.freeCount := rfl
@[simp] theorem State.setMbx_part (s : State) (i : Nat) (w : Word) : (s.setMbx i w).part = s.part := rfl
@[simp] theorem State.setMbx_time (s : State) (i : Nat) (w : Word) : (s.setMbx i w).time = s.time := rfl
@[simp] theorem State.setMbx_lastBlock (s : State) (i : Nat) (w : Word) : (s.setMbx i w).lastBlock = s.lastBlock := rfl
@[simp] theorem State.setMbx_pwr (s : State) (i : Nat) (w : Word) : (s.setMbx i w).pwr = s.pwr := rfl
@[simp] theorem State.setMbx_fw (s : State) (i : Nat) (w : Word) : (s.setMbx i w).fw = s.fw := rfl
@[simp] theorem State.setMbx_regs (s : State) (i : Nat) (w : Word) : (s.setMbx i w).regs = s.regs := rfl
@[simp] theorem State.setMbx_hop (s : State) (i : Nat) (w : Word) : (s.setMbx i w).hop = s.hop := rfl
@[simp] theorem State.setMbx_mash (s : State) (i : Nat) (w : Word) : (s.setMbx i w).mash = s.mash := rfl
@[simp] theorem State.setMbx_tbs (s : State) (i : Nat) (w : Word) : (s.setMbx i w).tbs = s.tbs := rfl
@[simp] theorem State.setMbx_tbPins (s : State) (i : Nat) (w : Word) : (s.setMbx i w).tbPins = s.tbPins := rfl
@[simp] theorem State.setMbx_store (s : State) (i : Nat) (w : Word) : (s.setMbx i w).store = s.store := rfl
@[simp] theorem State.setMbx_kiln (s : State) (i : Nat) (w : Word) : (s.setMbx i w).kiln = s.kiln := rfl
@[simp] theorem State.setMbx_cop (s : State) (i : Nat) (w : Word) : (s.setMbx i w).cop = s.cop := rfl
@[simp] theorem State.setMbx_tdm (s : State) (i : Nat) (w : Word) : (s.setMbx i w).tdm = s.tdm := rfl
@[simp] theorem State.setMbx_sns (s : State) (i : Nat) (w : Word) : (s.setMbx i w).sns = s.sns := rfl
@[simp] theorem State.setMbx_prof (s : State) (i : Nat) (w : Word) : (s.setMbx i w).prof = s.prof := rfl
@[simp] theorem State.setMbx_dacs (s : State) (i : Nat) (w : Word) : (s.setMbx i w).dacs = s.dacs := rfl
@[simp] theorem State.setMbx_tmr (s : State) (i : Nat) (w : Word) : (s.setMbx i w).tmr = s.tmr := rfl
@[simp] theorem State.setMbx_tcl (s : State) (i : Nat) (w : Word) : (s.setMbx i w).tcl = s.tcl := rfl
@[simp] theorem State.setMbx_uarts (s : State) (i : Nat) (w : Word) : (s.setMbx i w).uarts = s.uarts := rfl
@[simp] theorem State.setMbx_mem (s : State) (i : Nat) (w : Word) : (s.setMbx i w).mem = s.mem := rfl
@[simp] theorem State.setMbx_chain (s : State) (i : Nat) (w : Word) : (s.setMbx i w).chain = s.chain := rfl

@[simp] theorem State.life_pending (s : State) (i k : Nat) : (s.life i k).pending = s.pending := rfl
@[simp] theorem State.life_freeCount (s : State) (i k : Nat) : (s.life i k).freeCount = s.freeCount := rfl
@[simp] theorem State.life_part (s : State) (i k : Nat) : (s.life i k).part = s.part := rfl
@[simp] theorem State.life_time (s : State) (i k : Nat) : (s.life i k).time = s.time := rfl
@[simp] theorem State.life_lastBlock (s : State) (i k : Nat) : (s.life i k).lastBlock = s.lastBlock := rfl
@[simp] theorem State.life_host (s : State) (i k : Nat) : (s.life i k).host = s.host := rfl
@[simp] theorem State.life_fw (s : State) (i k : Nat) : (s.life i k).fw = s.fw := rfl
@[simp] theorem State.life_regs (s : State) (i k : Nat) : (s.life i k).regs = s.regs := rfl
@[simp] theorem State.life_hop (s : State) (i k : Nat) : (s.life i k).hop = s.hop := rfl
@[simp] theorem State.life_mash (s : State) (i k : Nat) : (s.life i k).mash = s.mash := rfl
@[simp] theorem State.life_tbs (s : State) (i k : Nat) : (s.life i k).tbs = s.tbs := rfl
@[simp] theorem State.life_tbPins (s : State) (i k : Nat) : (s.life i k).tbPins = s.tbPins := rfl
@[simp] theorem State.life_store (s : State) (i k : Nat) : (s.life i k).store = s.store := rfl
@[simp] theorem State.life_kiln (s : State) (i k : Nat) : (s.life i k).kiln = s.kiln := rfl
@[simp] theorem State.life_cop (s : State) (i k : Nat) : (s.life i k).cop = s.cop := rfl
@[simp] theorem State.life_tdm (s : State) (i k : Nat) : (s.life i k).tdm = s.tdm := rfl
@[simp] theorem State.life_sns (s : State) (i k : Nat) : (s.life i k).sns = s.sns := rfl
@[simp] theorem State.life_prof (s : State) (i k : Nat) : (s.life i k).prof = s.prof := rfl
@[simp] theorem State.life_dacs (s : State) (i k : Nat) : (s.life i k).dacs = s.dacs := rfl
@[simp] theorem State.life_tmr (s : State) (i k : Nat) : (s.life i k).tmr = s.tmr := rfl
@[simp] theorem State.life_tcl (s : State) (i k : Nat) : (s.life i k).tcl = s.tcl := rfl
@[simp] theorem State.life_uarts (s : State) (i k : Nat) : (s.life i k).uarts = s.uarts := rfl
@[simp] theorem State.life_mem (s : State) (i k : Nat) : (s.life i k).mem = s.mem := rfl
@[simp] theorem State.life_chain (s : State) (i k : Nat) : (s.life i k).chain = s.chain := rfl

/-- A step of a voice leaves whatever does not look at the voices. -/
theorem setVoice_field {α : Sort _} (f : State → α) (s : State) (v : Nat) (x : Voice)
    (h : ∀ m : Mash, f { s with mash := m } = f s := by intros; rfl) : f (s.setVoice v x) = f s := by
  unfold State.setVoice
  split
  · split <;> exact h _
  · exact h _

@[simp] theorem State.setVoice_pending (s : State) (v : Nat) (x : Voice) : (s.setVoice v x).pending = s.pending := setVoice_field (·.pending) s v x
@[simp] theorem State.setVoice_freeCount (s : State) (v : Nat) (x : Voice) : (s.setVoice v x).freeCount = s.freeCount := setVoice_field (·.freeCount) s v x
@[simp] theorem State.setVoice_part (s : State) (v : Nat) (x : Voice) : (s.setVoice v x).part = s.part := setVoice_field (·.part) s v x
@[simp] theorem State.setVoice_time (s : State) (v : Nat) (x : Voice) : (s.setVoice v x).time = s.time := setVoice_field (·.time) s v x
@[simp] theorem State.setVoice_lastBlock (s : State) (v : Nat) (x : Voice) : (s.setVoice v x).lastBlock = s.lastBlock := setVoice_field (·.lastBlock) s v x
@[simp] theorem State.setVoice_pwr (s : State) (v : Nat) (x : Voice) : (s.setVoice v x).pwr = s.pwr := setVoice_field (·.pwr) s v x
@[simp] theorem State.setVoice_host (s : State) (v : Nat) (x : Voice) : (s.setVoice v x).host = s.host := setVoice_field (·.host) s v x
@[simp] theorem State.setVoice_fw (s : State) (v : Nat) (x : Voice) : (s.setVoice v x).fw = s.fw := setVoice_field (·.fw) s v x
@[simp] theorem State.setVoice_regs (s : State) (v : Nat) (x : Voice) : (s.setVoice v x).regs = s.regs := setVoice_field (·.regs) s v x
@[simp] theorem State.setVoice_hop (s : State) (v : Nat) (x : Voice) : (s.setVoice v x).hop = s.hop := setVoice_field (·.hop) s v x
@[simp] theorem State.setVoice_tbs (s : State) (v : Nat) (x : Voice) : (s.setVoice v x).tbs = s.tbs := setVoice_field (·.tbs) s v x
@[simp] theorem State.setVoice_tbPins (s : State) (v : Nat) (x : Voice) : (s.setVoice v x).tbPins = s.tbPins := setVoice_field (·.tbPins) s v x
@[simp] theorem State.setVoice_store (s : State) (v : Nat) (x : Voice) : (s.setVoice v x).store = s.store := setVoice_field (·.store) s v x
@[simp] theorem State.setVoice_kiln (s : State) (v : Nat) (x : Voice) : (s.setVoice v x).kiln = s.kiln := setVoice_field (·.kiln) s v x
@[simp] theorem State.setVoice_cop (s : State) (v : Nat) (x : Voice) : (s.setVoice v x).cop = s.cop := setVoice_field (·.cop) s v x
@[simp] theorem State.setVoice_tdm (s : State) (v : Nat) (x : Voice) : (s.setVoice v x).tdm = s.tdm := setVoice_field (·.tdm) s v x
@[simp] theorem State.setVoice_sns (s : State) (v : Nat) (x : Voice) : (s.setVoice v x).sns = s.sns := setVoice_field (·.sns) s v x
@[simp] theorem State.setVoice_prof (s : State) (v : Nat) (x : Voice) : (s.setVoice v x).prof = s.prof := setVoice_field (·.prof) s v x
@[simp] theorem State.setVoice_dacs (s : State) (v : Nat) (x : Voice) : (s.setVoice v x).dacs = s.dacs := setVoice_field (·.dacs) s v x
@[simp] theorem State.setVoice_tmr (s : State) (v : Nat) (x : Voice) : (s.setVoice v x).tmr = s.tmr := setVoice_field (·.tmr) s v x
@[simp] theorem State.setVoice_tcl (s : State) (v : Nat) (x : Voice) : (s.setVoice v x).tcl = s.tcl := setVoice_field (·.tcl) s v x
@[simp] theorem State.setVoice_uarts (s : State) (v : Nat) (x : Voice) : (s.setVoice v x).uarts = s.uarts := setVoice_field (·.uarts) s v x
@[simp] theorem State.setVoice_mem (s : State) (v : Nat) (x : Voice) : (s.setVoice v x).mem = s.mem := setVoice_field (·.mem) s v x
@[simp] theorem State.setVoice_chain (s : State) (v : Nat) (x : Voice) : (s.setVoice v x).chain = s.chain := setVoice_field (·.chain) s v x

@[simp] theorem State.dropRead_pending (s : State) (id : Nat) : (s.dropRead id).pending = s.pending := rfl
@[simp] theorem State.dropRead_freeCount (s : State) (id : Nat) : (s.dropRead id).freeCount = s.freeCount := rfl
@[simp] theorem State.dropRead_part (s : State) (id : Nat) : (s.dropRead id).part = s.part := rfl
@[simp] theorem State.dropRead_time (s : State) (id : Nat) : (s.dropRead id).time = s.time := rfl
@[simp] theorem State.dropRead_lastBlock (s : State) (id : Nat) : (s.dropRead id).lastBlock = s.lastBlock := rfl
@[simp] theorem State.dropRead_pwr (s : State) (id : Nat) : (s.dropRead id).pwr = s.pwr := rfl
@[simp] theorem State.dropRead_host (s : State) (id : Nat) : (s.dropRead id).host = s.host := rfl
@[simp] theorem State.dropRead_fw (s : State) (id : Nat) : (s.dropRead id).fw = s.fw := rfl
@[simp] theorem State.dropRead_regs (s : State) (id : Nat) : (s.dropRead id).regs = s.regs := rfl
@[simp] theorem State.dropRead_hop (s : State) (id : Nat) : (s.dropRead id).hop = s.hop := rfl
@[simp] theorem State.dropRead_mash (s : State) (id : Nat) : (s.dropRead id).mash = s.mash := rfl
@[simp] theorem State.dropRead_tbs (s : State) (id : Nat) : (s.dropRead id).tbs = s.tbs := rfl
@[simp] theorem State.dropRead_tbPins (s : State) (id : Nat) : (s.dropRead id).tbPins = s.tbPins := rfl
@[simp] theorem State.dropRead_kiln (s : State) (id : Nat) : (s.dropRead id).kiln = s.kiln := rfl
@[simp] theorem State.dropRead_cop (s : State) (id : Nat) : (s.dropRead id).cop = s.cop := rfl
@[simp] theorem State.dropRead_tdm (s : State) (id : Nat) : (s.dropRead id).tdm = s.tdm := rfl
@[simp] theorem State.dropRead_sns (s : State) (id : Nat) : (s.dropRead id).sns = s.sns := rfl
@[simp] theorem State.dropRead_prof (s : State) (id : Nat) : (s.dropRead id).prof = s.prof := rfl
@[simp] theorem State.dropRead_dacs (s : State) (id : Nat) : (s.dropRead id).dacs = s.dacs := rfl
@[simp] theorem State.dropRead_tmr (s : State) (id : Nat) : (s.dropRead id).tmr = s.tmr := rfl
@[simp] theorem State.dropRead_tcl (s : State) (id : Nat) : (s.dropRead id).tcl = s.tcl := rfl
@[simp] theorem State.dropRead_uarts (s : State) (id : Nat) : (s.dropRead id).uarts = s.uarts := rfl
@[simp] theorem State.dropRead_mem (s : State) (id : Nat) : (s.dropRead id).mem = s.mem := rfl
@[simp] theorem State.dropRead_chain (s : State) (id : Nat) : (s.dropRead id).chain = s.chain := rfl

@[simp] theorem State.atFrame_pending (s : State) (f : Nat) : (s.atFrame f).pending = s.pending := rfl
@[simp] theorem State.atFrame_freeCount (s : State) (f : Nat) : (s.atFrame f).freeCount = s.freeCount := rfl
@[simp] theorem State.atFrame_part (s : State) (f : Nat) : (s.atFrame f).part = s.part := rfl
@[simp] theorem State.atFrame_lastBlock (s : State) (f : Nat) : (s.atFrame f).lastBlock = s.lastBlock := rfl
@[simp] theorem State.atFrame_pwr (s : State) (f : Nat) : (s.atFrame f).pwr = s.pwr := rfl
@[simp] theorem State.atFrame_host (s : State) (f : Nat) : (s.atFrame f).host = s.host := rfl
@[simp] theorem State.atFrame_fw (s : State) (f : Nat) : (s.atFrame f).fw = s.fw := rfl
@[simp] theorem State.atFrame_regs (s : State) (f : Nat) : (s.atFrame f).regs = s.regs := rfl
@[simp] theorem State.atFrame_hop (s : State) (f : Nat) : (s.atFrame f).hop = s.hop := rfl
@[simp] theorem State.atFrame_mash (s : State) (f : Nat) : (s.atFrame f).mash = s.mash := rfl
@[simp] theorem State.atFrame_tbs (s : State) (f : Nat) : (s.atFrame f).tbs = s.tbs := rfl
@[simp] theorem State.atFrame_tbPins (s : State) (f : Nat) : (s.atFrame f).tbPins = s.tbPins := rfl
@[simp] theorem State.atFrame_store (s : State) (f : Nat) : (s.atFrame f).store = s.store := rfl
@[simp] theorem State.atFrame_kiln (s : State) (f : Nat) : (s.atFrame f).kiln = s.kiln := rfl
@[simp] theorem State.atFrame_cop (s : State) (f : Nat) : (s.atFrame f).cop = s.cop := rfl
@[simp] theorem State.atFrame_tdm (s : State) (f : Nat) : (s.atFrame f).tdm = s.tdm := rfl
@[simp] theorem State.atFrame_sns (s : State) (f : Nat) : (s.atFrame f).sns = s.sns := rfl
@[simp] theorem State.atFrame_prof (s : State) (f : Nat) : (s.atFrame f).prof = s.prof := rfl
@[simp] theorem State.atFrame_dacs (s : State) (f : Nat) : (s.atFrame f).dacs = s.dacs := rfl
@[simp] theorem State.atFrame_tmr (s : State) (f : Nat) : (s.atFrame f).tmr = s.tmr := rfl
@[simp] theorem State.atFrame_tcl (s : State) (f : Nat) : (s.atFrame f).tcl = s.tcl := rfl
@[simp] theorem State.atFrame_uarts (s : State) (f : Nat) : (s.atFrame f).uarts = s.uarts := rfl
@[simp] theorem State.atFrame_mem (s : State) (f : Nat) : (s.atFrame f).mem = s.mem := rfl
@[simp] theorem State.atFrame_chain (s : State) (f : Nat) : (s.atFrame f).chain = s.chain := rfl

/-- A register just written reads back. -/
@[simp] theorem State.reg_setReg (s : State) (b o : Nat) (w : Word) : (s.setReg b o w).reg b o = w := sget_sput_same ..

/-- Writing a register leaves every other one. -/
theorem State.reg_setReg_ne (s : State) (b o c p : Nat) (w : Word) (h : regKey c p ≠ regKey b o) : (s.setReg b o w).reg c p = s.reg c p :=
  sget_sput_ne _ _ _ _ _ h

end Sys2Proof.Machine
end

