-- ==== Sys2Proof/Laws/Store.lean ====
section
/-! SUPPORT. Checked reads of the store: what a read whose pages pass their checks gives, and that it changes nothing. -/
namespace Sys2Proof.Machine

theorem flashBytes_add (s : State) (a m n : Nat) : s.flashBytes a (m + n) = s.flashBytes a m ++ s.flashBytes (a + m) n := by
  simp only [State.flashBytes, List.range_add, List.map_append, List.map_map]
  congr 1
  apply List.map_congr_left
  intro i _
  simp [Nat.add_assoc]
theorem sget_default {m : Sparse Byte} {k : Nat} (h : ∀ e ∈ m, e.1 ≠ k) : sget flashErased m k = 0xFF := by
  induction m with
  | nil => rfl
  | cons e m ih =>
    obtain ⟨a, v⟩ := e
    have : k ≠ a := fun x => h (a, v) (by simp) x.symm
    simp only [sget, this, if_false]
    exact ih fun e he => h e (by simp [he])
/-- Where nothing is listed the flash reads erased. -/
theorem flashBytes_erased (s : State) (a n : Nat) (ha : a + n ≤ 2 ^ 32)
    (h : (s.store.flash.all fun e => decide (e.1 < a) || decide (a + n ≤ e.1)) = true) : s.flashBytes a n = List.replicate n 0xFF := by
  have : ∀ i ∈ List.range n, s.flashByte (a + i) = (0xFF : Byte) := by
    intro i hi
    have hi := List.mem_range.mp hi
    refine sget_default fun e he => ?_
    have := List.all_eq_true.mp h e he
    simp only [Bool.or_eq_true, decide_eq_true_eq] at this
    omega
  rw [State.flashBytes, List.map_congr_left this, List.map_const', List.length_range]
theorem checkPage_ok {s : State} {page : Nat} (r : Nat) (h : s.pageSound page = true) (hb : s.store.bad = [])
    (hp : s.portServes (portOf (page * 4096)) = true) : s.checkPage [] page r = (true, s) := by
  unfold State.checkPage
  rw [hb, h, hp]
  rfl
theorem loadPages_ok (s : State) (r : Nat) (mir : Option Nat) (a k : Nat) : ∀ i,
    (∀ j, i ≤ j → j < i + k → s.checkPage [] (a / 4096 + j) r = (true, s)) →
    s.loadPages [] r mir a k i = (some (s.flashBytes ((a / 4096 + i) * 4096) (4096 * k)), s) := by
  induction k with
  | zero => intro i _; rfl
  | succ k ih =>
    intro i h
    have e := ih (i + 1) fun j h1 h2 => h j (by omega) (by omega)
    simp only [State.loadPages, h i (Nat.le_refl i) (by omega), if_true, e]
    simp only [Option.map_some]
    rw [show 4096 * (k + 1) = 4096 + 4096 * k by omega, flashBytes_add, show (a / 4096 + (i + 1)) * 4096 = (a / 4096 + i) * 4096 + 4096 by omega]
theorem loadBytes_ok (s : State) (r : Nat) (mir : Option Nat) (a n : Nat)
    (h : ∀ j < (a % 4096 + n + 4095) / 4096, s.checkPage [] (a / 4096 + j) r = (true, s)) : s.loadBytes [] r mir a n = (some (s.flashBytes a n), s) := by
  unfold State.loadBytes
  have p := loadPages_ok s r mir a ((a % 4096 + n + 4095) / 4096) 0 fun j _ hj => h j (by omega)
  simp only [p, Option.map_some, Nat.add_zero]
  have e : 4096 * ((a % 4096 + n + 4095) / 4096) = a % 4096 + (n + (4096 * ((a % 4096 + n + 4095) / 4096) - (a % 4096 + n))) := by omega
  have d : a / 4096 * 4096 + a % 4096 = a := by omega
  have l : ∀ x y, (s.flashBytes x y).length = y := by intro x y; simp [State.flashBytes]
  rw [e, flashBytes_add, List.drop_append_of_le_length (Nat.le_of_eq (l _ _).symm), List.drop_of_length_le (Nat.le_of_eq (l _ _)), List.nil_append, d, flashBytes_add,
    List.take_append_of_le_length (Nat.le_of_eq (l _ _).symm), List.take_of_length_le (Nat.le_of_eq (l _ _))]
theorem loadEntry_ok (s : State) (i : Nat) (e : DirEntry) (hi : i < s.store.anchor.entries)
    (h1 : s.loadBytes [] 2 (some (s.mirrorNow + (dirBase s.store.anchor.copy + 32 * i))) (dirBase s.store.anchor.copy + 32 * i) 32
      = (some (s.flashBytes (dirBase s.store.anchor.copy + 32 * i) 32), s))
    (h2 : parseEntry (s.flashBytes (dirBase s.store.anchor.copy + 32 * i) 32) = some e) (h3 : e.type ≠ 0) : s.loadEntry [] i = (.found e, s) := by
  unfold State.loadEntry
  rw [if_pos hi]
  extract_lets a
  have h : s.loadBytes [] 2 (some (s.mirrorNow + a)) a 32 = (some (s.flashBytes a 32), s) := h1
  have g : parseEntry (s.flashBytes a 32) = some e := h2
  clear_value a
  rw [h]
  simp only [g, h3, if_false]
/-- An object whose directory page and pages are sound is read whole. -/
theorem fetchObject_ok (s : State) (i type : Nat) (e : DirEntry) (h : s.loadEntry [] i = (.found e, s)) (h4 : e.type = type) (hq : s.scratchFails = false)
    (h5 : s.loadBytes [] 2 e.mirror? e.addr e.size = (some (s.flashBytes e.addr e.size), s)) :
    s.fetchObject [] i type = (.ok (s.flashBytes e.addr e.size), s) := by
  unfold State.fetchObject State.loadObject
  simp only [hq, Bool.false_eq_true, h, if_false, h4, h5, ne_eq, not_true_eq_false]

end Sys2Proof.Machine
end

