-- ==== Sys2Proof/Laws/Tasks.lean ====
section
/-! SUPPORT. Task entries: a free one exists where the table is not full, and a task made ready takes it. -/
namespace Sys2Proof.Machine

/-- A listed key stands in the listing. -/
theorem sfind_mem {α : Type} (m : Sparse α) (k : Nat) (h : sfind m k ≠ none) : k ∈ m.map fun e => e.1 := by
  induction m with
  | nil => exact absurd rfl h
  | cons e m ih =>
    obtain ⟨a, v⟩ := e
    unfold sfind at h
    split at h
    · subst_vars; simp
    · exact List.mem_cons_of_mem _ (ih h)

/-- Fewer than 4,096 tasks leave some entry free. -/
theorem some_free (m : Sparse Task) (h : m.length < 4096) : ((List.range 4096).filter fun i => (sfind m i).isNone) ≠ [] := by
  intro he
  rw [List.filter_eq_nil_iff] at he
  have hs : Finset.range 4096 ⊆ (m.map fun e => e.1).toFinset := by
    intro k hk
    have hk' := he k (by simpa using hk)
    rw [List.mem_toFinset]
    exact sfind_mem m k (by intro hn; simp [hn] at hk')
  have h1 := Finset.card_le_card hs
  have h2 := List.toFinset_card_le (m.map fun e => e.1)
  simp only [Finset.card_range, List.length_map] at h1 h2
  omega

/-- The entry that is used is free, whatever the free value. -/
theorem chooseEntry_free (s : State) (h : s.hop.tasks.length < 4096) :
    ∃ n, n < 4096 ∧ sfind s.hop.tasks n = none ∧ s.chooseEntry = (n, { s with freeCount := s.freeCount + 1 }) := by
  have hne := some_free s.hop.tasks h
  have hl : (Config.freeValue s.freeCount).toNat % max 1 ((List.range 4096).filter fun i => (sfind s.hop.tasks i).isNone).length
      < ((List.range 4096).filter fun i => (sfind s.hop.tasks i).isNone).length := by
    have : 0 < ((List.range 4096).filter fun i => (sfind s.hop.tasks i).isNone).length := List.length_pos_of_ne_nil hne
    rw [Nat.max_eq_right this]
    exact Nat.mod_lt _ this
  refine ⟨_, ?_, ?_, rfl⟩
  all_goals
    have hm := List.getElem_mem hl
    rw [List.mem_filter] at hm
    simp only [nth, List.getD_eq_getElem?_getD]
  · have : (List.filter (fun i => (sfind s.hop.tasks i).isNone) (List.range 4096))[(Config.freeValue s.freeCount).toNat
        % max 1 ((List.range 4096).filter fun i => (sfind s.hop.tasks i).isNone).length]? = some _ := List.getElem?_eq_getElem hl
    rw [this]
    simpa using hm.1
  · have : (List.filter (fun i => (sfind s.hop.tasks i).isNone) (List.range 4096))[(Config.freeValue s.freeCount).toNat
        % max 1 ((List.range 4096).filter fun i => (sfind s.hop.tasks i).isNone).length]? = some _ := List.getElem?_eq_getElem hl
    rw [this]
    simpa using hm.2

/-- A row whose command is taken answers at once. -/
theorem answers_row (s u : State) (i : Instr) (op : Nat) (m : Msg) (ws : List Word) (work : Cmd → State → State) (ht : TakenNow s op m)
    (he : exec i s = s.done (s.takeWith (cmdOf op m) work)) (hw : work (cmdOf op m) s = u.respond (cmdOf op m) ws) (hr : SameRings s u)
    (hl : ws.length < 2047) : Answers s i op m ws u :=
  answers_of s u i op m ws ht.2 (by rw [he, run_row _ _ _ _ ht, hw]) hr hl

/-- A task is made ready on top of a state that has the same tasks and rings. -/
theorem makesTask_of (s u : State) (i : Instr) (op : Nat) (m : Msg) (kind : TaskKind) (prio : Nat) (primed : List Nat)
    (work : Cmd → State → State) (ht : TakenNow s op m)
    (he : exec i s = s.done (s.takeWith (cmdOf op m) work)) (hw : work (cmdOf op m) s = u.makeReady (cmdOf op m) kind prio primed)
    (hr : SameRings s u) (hh : u.hop = s.hop) (hs : u.fw.stamp = s.fw.stamp) (hx : u.fw.sessions = s.fw.sessions)
    (hb : u.lastBlock = s.lastBlock) (hl : s.hop.tasks.length < 4096) : MakesTask s i op m kind prio primed u := by
  obtain ⟨n, h1, h2, h3⟩ := chooseEntry_free u (by rw [hh]; exact hl)
  rw [hh] at h2
  refine ⟨n, h1, h2, ?_⟩
  refine answers_row s _ i op m _ work ht he ?_ hr (by simp)
  rw [hw]
  unfold State.makeReady
  rw [h3]
  dsimp only
  have e1 : ({ u with freeCount := u.freeCount + 1 } : State).genOf n = s.genOf n := by unfold State.genOf; rw [← hh]
  have e2 : ({ u with freeCount := u.freeCount + 1 } : State).nextBlock = s.nextBlock := by unfold State.nextBlock; rw [← hb]
  rw [e1, e2, hs, hx, hh]
  rfl

end Sys2Proof.Machine
end

