-- ==== Sys2Proof/WellFormed.lean ====
section
/-! DEFINITION. Well-formed commands: every operand inside the range that the manual's field or table gives it. The meanings are total
without it. -/
namespace Sys2Proof

/-- A message as its header can carry it (11 R383). -/
def Msg.ok (m : Msg) : Bool := decide (m.session < 32) && decide (m.seq < 256) && decide (m.words.length ≤ 255)

/-- A transfer: at most 128 data words, and a collision inside them (10 R352, R380). -/
def Transfer.ok (x : Transfer) : Bool :=
  decide (x.data.length ≤ 128) && match x.collide with
    | some c => decide (c.1 < 128)
    | none => true

/-- Pages of the 4 GiB store address space (07 R252). -/
def pagesOk (rd : List PageFault) : Bool := rd.all fun p => decide (p.page < 2 ^ 20)

/-- A die temperature that the 12-bit field of TEMPERATURE holds (09 R323). -/
def tempOk (t : Int) : Bool := decide (-2048 ≤ t) && decide (t < 2048)

/-- How a voice-block ends: fields of VPE_CHECK (09 R323), a ring of 07 R268. -/
def VoiceOutcome.ok : VoiceOutcome → Bool
  | .pass => true
  | .passBadCheckpoint => true
  | .fail cause lane sample => decide (cause < 4) && decide (lane < 8) && decide (sample < 16)
  | .ringFail ring => decide (ring < 4096)
  | .waveFail word => decide (word < 2 ^ 19)
  | .silent _ => true

/-- A mixer fault of a region and channel, or of one of two copies (08 R313). -/
def MixFault.ok : MixFault → Bool
  | .none => true
  | .region r ch => decide (r < 2) && decide (ch < 32)
  | .copy k => decide (k < 2)

/-- What a boundary takes in: the readings, pages of the store, the five units of R312 and their copies. -/
def BoundaryInput.ok (b : BoundaryInput) : Bool :=
  tempOk b.tempDig && tempOk b.tempAna && pagesOk b.scrub && b.copies.all fun c => decide (c.unit < 5) && match c.rerun with
    | .stable k => decide (k < 2)
    | _ => true

/-- A port's set-up in the fields of Mx_CFG (07 R254). -/
def PortSetup.ok (p : PortSetup) : Bool := decide (p.dummy < 32) && decide (p.sizeLog2 < 32)

/-- Every operand of the command is in range. -/
def Instr.wellFormed (i : Instr) : Bool :=
  match i with
  | .hostTransfer x => x.ok
  | .registerWrite addr _ => decide (addr < 2 ^ 24) && addr % 4 == 0
  | .doorbellCmd => true
  | .doorbellBulk h => decide (h < 2)
  | .faultAck _ => true
  | .softResetArm => true
  | .softReset => true
  | .standbyRequest => true
  | .softResetDisarm => true
  | .takeDoorbell bad rd => (bad.all fun i => decide (i < 4096)) && pagesOk rd
  | .takingResume bad rd => (bad.all fun i => decide (i < 4096)) && pagesOk rd
  | .overflow => true
  | .hello m => m.ok
  | .ping m => m.ok
  | .sessionOpen m => m.ok
  | .sessionSet m => m.ok
  | .sessionClose m => m.ok
  | .imageWrite m => m.ok
  | .imageRead m => m.ok
  | .globalStart m => m.ok
  | .dacPush m => m.ok
  | .noteOn m => m.ok
  | .release m => m.ok
  | .kill m => m.ok
  | .param m => m.ok
  | .controller m => m.ok
  | .profile m => m.ok
  | .event m => m.ok
  | .cancel m => m.ok
  | .allocCfg m => m.ok
  | .hopperStatus m => m.ok
  | .deviceStatus m => m.ok
  | .bankLoad m => m.ok
  | .bankLoadDone rd => pagesOk rd
  | .bankUnload m => m.ok
  | .svtLoad m => m.ok
  | .svtLoadDone rd => pagesOk rd
  | .wtLoad m => m.ok
  | .wtLoadDone rd => pagesOk rd
  | .wtUnload m => m.ok
  | .bankStatus m => m.ok
  | .tbUpdate m => m.ok
  | .gristPrepare m => m.ok
  | .gristPrepareDone => true
  | .gristWrite m => m.ok
  | .gristWriteDone => true
  | .gristMeta m => m.ok
  | .gristMetaDone => true
  | .gristCommit m => m.ok
  | .gristCommitDone rd => pagesOk rd
  | .gristAbort m => m.ok
  | .gristStatus m => m.ok
  | .gristRead m => m.ok
  | .gristReadDone rd => pagesOk rd
  | .copperLoad m => m.ok
  | .copperLoadDone rd => pagesOk rd
  | .copperSwap m => m.ok
  | .copperParam m => m.ok
  | .diagStart m rd => m.ok && pagesOk rd
  | .diagRead m => m.ok
  | .diagAbort m => m.ok
  | .captureStart m => m.ok
  | .captureStop m => m.ok
  | .faultLogRead m => m.ok
  | .blockReset m => m.ok
  | .lifetimeRead m => m.ok
  | .lifetimeSet m => m.ok
  | .fwLoad m => m.ok
  | .fwLoadDone _ => true
  | .fwVerify m => m.ok
  | .fwVerifyDone result => decide (result ≤ 4)
  | .handover m => m.ok
  | .fwSelect m => m.ok
  | .firmwareResume => true
  | .handoverTimeout => true
  | .fwAnchorWritten => true
  | .blockBoundary b => b.ok
  | .sheddingCeiling => true
  | .regionInService => true
  | .standbyEntry => true
  | .voiceBlock v out => decide (v < 2048) && out.ok
  | .voiceBlockRetry v out => decide (v < 2048) && out.ok
  | .twinCompare v _ => decide (v < 2048)
  | .twinRecompute v outA outB disagree => decide (v < 2048) && outA.ok && outB.ok && match disagree with
    | some k => decide (k < 2)
    | none => true
  | .deviceMix f => f.ok
  | .copperFrame => true
  | .copperInterrupt => true
  | .copperTrap => true
  | .cNop a => Sys2Proof.Machine.copperOk (.cNop a)
  | .cMpy a => Sys2Proof.Machine.copperOk (.cMpy a)
  | .cMac a => Sys2Proof.Machine.copperOk (.cMac a)
  | .cMsu a => Sys2Proof.Machine.copperOk (.cMsu a)
  | .cCmpy a => Sys2Proof.Machine.copperOk (.cCmpy a)
  | .cCmac a => Sys2Proof.Machine.copperOk (.cCmac a)
  | .cCmsu a => Sys2Proof.Machine.copperOk (.cCmsu a)
  | .cCmacj a => Sys2Proof.Machine.copperOk (.cCmacj a)
  | .cAdd a => Sys2Proof.Machine.copperOk (.cAdd a)
  | .cSub a => Sys2Proof.Machine.copperOk (.cSub a)
  | .cAdds a => Sys2Proof.Machine.copperOk (.cAdds a)
  | .cSubs a => Sys2Proof.Machine.copperOk (.cSubs a)
  | .cAnd a => Sys2Proof.Machine.copperOk (.cAnd a)
  | .cOr a => Sys2Proof.Machine.copperOk (.cOr a)
  | .cXor a => Sys2Proof.Machine.copperOk (.cXor a)
  | .cAbs a => Sys2Proof.Machine.copperOk (.cAbs a)
  | .cSha a => Sys2Proof.Machine.copperOk (.cSha a)
  | .cShl a => Sys2Proof.Machine.copperOk (.cShl a)
  | .cAadd a => Sys2Proof.Machine.copperOk (.cAadd a)
  | .cAsub a => Sys2Proof.Machine.copperOk (.cAsub a)
  | .cAsh a => Sys2Proof.Machine.copperOk (.cAsh a)
  | .cRnd a => Sys2Proof.Machine.copperOk (.cRnd a)
  | .cClr a => Sys2Proof.Machine.copperOk (.cClr a)
  | .cCmp a => Sys2Proof.Machine.copperOk (.cCmp a)
  | .cTsta a => Sys2Proof.Machine.copperOk (.cTsta a)
  | .cMaxi a => Sys2Proof.Machine.copperOk (.cMaxi a)
  | .cMini a => Sys2Proof.Machine.copperOk (.cMini a)
  | .cMvc a => Sys2Proof.Machine.copperOk (.cMvc a)
  | .cLdi reg imm => Sys2Proof.Machine.copperOk (.cLdi reg imm)
  | .cMv reg src => Sys2Proof.Machine.copperOk (.cMv reg src)
  | .cLdx reg addr => Sys2Proof.Machine.copperOk (.cLdx reg addr)
  | .cLdy reg addr => Sys2Proof.Machine.copperOk (.cLdy reg addr)
  | .cStx reg addr => Sys2Proof.Machine.copperOk (.cStx reg addr)
  | .cSty reg addr => Sys2Proof.Machine.copperOk (.cSty reg addr)
  | .cLdio reg addr => Sys2Proof.Machine.copperOk (.cLdio reg addr)
  | .cStio reg addr => Sys2Proof.Machine.copperOk (.cStio reg addr)
  | .cPush reg => Sys2Proof.Machine.copperOk (.cPush reg)
  | .cPop reg => Sys2Proof.Machine.copperOk (.cPop reg)
  | .cBr cond target => Sys2Proof.Machine.copperOk (.cBr cond target)
  | .cCall target => Sys2Proof.Machine.copperOk (.cCall target)
  | .cRet => true
  | .cReti => true
  | .cLoop target count => Sys2Proof.Machine.copperOk (.cLoop target count)
  | .cRep count => Sys2Proof.Machine.copperOk (.cRep count)
  | .cWfr => true
  | .tdmoFrame => true
  | .tdmiFrame slots => slots.length == 32
  | .tdmiSlip => true
  | .chainFrameTransmit => true
  | .chainFrameReceive words _ => decide (words.length ≤ 64)
  | .alignAdopt => true
  | .globalStartRelease => true
  | .spargeStage1Output c bits _ => decide (c < 8) && decide (bits.length ≤ 256)
  | .spargeFineValue c => decide (c < 8)
  | .thresholdChange c k => decide (c < 8) && decide (k < 2)
  | .dacUpdate d => decide (d < 4)
  | .timerStep u => decide (u < 4)
  | .timerCapture u _ late => decide (u < 4 ∧ late < 256)
  | .standbyLfTick => true
  | .tbEdge pin _ _ _ => decide (pin < 4)
  | .tbStall n => decide (n < 4)
  | .gristReadComplete _ out => pagesOk out.faults && out.mismatch.all fun p => decide (p < 2 ^ 20)
  | .readDeadline _ => true
  | .gristPort p => decide (p < 2)
  | .kilnMessage _ master access _ => decide (master < 256) && decide (access < 256)
  | .actionDeadline => true
  | .blockResetEnd target => decide (target < 11)
  | .aliveToggle => true
  | .fwHeartbeat => true
  | .watchdog => true
  | .dieLinkSilence => true
  | .pinReadback pin _ => decide (pin < 8)
  | .supplyThreshold rail _ => decide (rail < 4)
  | .comparatorDisagreement rail => decide (rail < 4)
  | .powerOnReset => true
  | .resetPin _ => true
  | .resetRelease => true
  | .referenceQualified _ => true
  | .pllLock slotA slotB => decide (slotA ≤ 6) && decide (slotB ≤ 6)
  | .ready m0 m1 => m0.ok && m1.ok
  | .referenceLoss => true
  | .holdoverTimeout => true
  | .primaryTakeback => true
  | .pllLoopFail _ => true
  | .wakeHost => true
  | .wakeComparator c k => decide (c < 8) && decide (k < 2)
  | .bankClearDone b => decide (b < 12)
  | .memoryScrub mem bank _ _ => decide (mem < 64) && decide (bank < 256)
  | .atomicAdd a _ _ => decide (a < 131072) && a % 4 == 0
  | .atomicSwap a _ _ => decide (a < 131072) && a % 4 == 0
  | .uartCharacter x _ => decide (x < 2)
  | .uartTimeout x => decide (x < 2)
  | .uartFrame x rd => decide (x < 2) && pagesOk rd
  | .uartTransmit x => decide (x < 2)
  | .uartDeTail x => decide (x < 2)
  | .diagStepEnd => true
  | .diagDoneTimeout => true
  | .supplyRelease rail => decide (rail < 4)
  | .backupLost _ => true
  | .captureInputEdge u _ => decide (u < 4)
  | .bankPowerUpEnd b => decide (b < 12)
  | .tapInstruction _ => true

end Sys2Proof
end

