-- ==== Sys2Proof/Tests/Slice0.lean ====
section
/-! SUPPORT. Small tests. Words and figures come from the spec's encodings, worked examples and check values; a theorem `witness_X` names
a state and operands that meet the hypotheses of statement X, clause by clause. -/
set_option Elab.async false
namespace Sys2Proof.Tests
open Sys2Proof Sys2Proof.Machine

/-! ### States -/

/-- A part that is ready, agreed on everything, in block 2. -/
def rdy : State := { State.reset with
  time := 8200
  lastBlock := 2
  pwr.phase := .ready
  pwr.railLow := [false, false, false, false]
  pwr.driveLow := false
  pwr.por := false
  pwr.dieWatch := true
  pwr.aliveNext := some 9000
  fw.running := true
  fw.helloDone := true
  fw.agreed := 0xFFFF
  fw.unitAgreed := 0xFFFF
  fw.sessions := ⟨true, false, 7, 0⟩ :: List.replicate 31 Session.closed
  mash.regions := [Region.reset true, Region.reset true]
  store.ports := [⟨true, false⟩, ⟨true, false⟩] }
/-- A message of session 0. -/
def msg (ws : List Word) : Msg := ⟨0, 7, ws⟩

def locked : State := { rdy with pwr.phase := .locked }
def inStandby : State := { rdy with pwr.phase := .standby }
def armed : State := { rdy with host.softArmed := some 8000, host.own := [true, false], kiln.cap.valid := true, kiln.cap.seq := 9 }
def crcOn : State := { rdy with host.crcEn := true }
def transfer (h : Word) (d : List Word) (n : Nat) (t : BitVec 8) : Transfer := ⟨false, h, d, n, t, none, []⟩
def ringPing : State := { rdy with host.mailbox := [(0, header 2 0 5 0)], host.cmdHead := 1, host.bellCmd := true }
def ringBad : State := { rdy with host.mailbox := [(0, header 0xEE 0 5 1)], host.cmdHead := 2, host.bellCmd := true }
def opened : State := { rdy with fw.sessions := (rdy.fw.sessions.set 1 ⟨true, false, 3, 9⟩).set 2 ⟨true, false, 3, 9⟩ }
def allOpen : State := { rdy with fw.sessions := List.replicate 32 ⟨true, false, 3, 9⟩ }

def open12 : List Session := (rdy.fw.sessions.set 1 ⟨true, false, 3, 9⟩).set 2 ⟨true, false, 3, 9⟩
def zeroRecipe : Recipe := List.replicate 512 0
def oneBank : Bank := ⟨3, 0, 1, [zeroRecipe, zeroRecipe]⟩
def banked : State := { rdy with fw.banks := [some oneBank, none, none, none], fw.sessions := open12 }
/-- A recipe that reads wavetable 9, and one of priority 7 that plays object 9. -/
def tableRecipe : Recipe := zeroRecipe.set 0x40 1 |>.set 0x42 9
def sampleRecipe : Recipe := (zeroRecipe.set 0x40 2 |>.set 0x42 9).set 6 7
def tableBank : Bank := ⟨3, 0, 1, [zeroRecipe, tableRecipe]⟩
def sampleBank : Bank := ⟨3, 0, 1, [zeroRecipe, sampleRecipe]⟩
def tableBanked : State := { banked with fw.banks := [some tableBank, none, none, none] }
def sampleBanked : State := { banked with fw.banks := [some sampleBank, none, none, none] }
def msg1 (ws : List Word) : Msg := ⟨1, 7, ws⟩
def noteMsg : Msg := msg [0x00450031, 0, 0, 0, 0x00000100, 0, 0]
def oneTask (session : Nat) (primed : List Nat) : Task :=
  { kind := .noteOn, session := session, flow := 0x045, note := 5, prio := 0, stamp := 0, due := .time 99999, st := .armed
    examined := none, point := none, cross := 0, fired := none, words := [], primed := primed, quota := none }
def tasked : State := { banked with hop.tasks := [(3, oneTask 1 [])] }
def primedTask : State := { banked with hop.tasks := [(3, oneTask 1 [4])] }
def leftTask : State := { banked with hop.left := [(5, (true, 1))], hop.gen := [(5, 2)] }
def fullTasks : State := { banked with hop.tasks := (List.range 4096).map fun i => (i, oneTask 1 []) }

/-! A small store: a bank, a speaker-vector table, a wavetable, a Copper program, a line-check profile and a sample. -/
def dirEntry (addr size mirror type flags crc : Nat) : List Byte :=
  leBytes 4 addr ++ leBytes 4 size ++ leBytes 4 mirror ++ leBytes 1 type ++ leBytes 1 flags ++ List.replicate 14 0 ++ leBytes 4 crc
def qkRecipe : List Byte := leBytes 2 0x0256 ++ List.replicate 126 0
def bankBytes (crc : Nat) : List Byte :=
  leBytes 4 0x4B424B51 ++ leBytes 2 0x0100 ++ leBytes 2 1 ++ leBytes 4 77 ++ leBytes 1 1 ++ List.replicate 15 0 ++ leBytes 4 crc ++ qkRecipe
def waveHead (crc : Nat) : List Byte := leBytes 4 0x57474B51 ++ leBytes 2 0x0100 ++ leBytes 2 1 ++ List.replicate 52 0 ++ leBytes 4 crc
def copperHead (crc : Nat) : List Byte := leBytes 4 0x43504B51 ++ leBytes 2 0x0100 ++ leBytes 2 1 ++ leBytes 4 20 ++ leBytes 2 5 ++ List.replicate 46 0 ++ leBytes 4 crc
def wfrBytes : List Byte := leBytes 4 0 ++ leBytes 4 0xD8000000
def copperBody : List Byte := (List.replicate 20 wfrBytes).flatten ++ leBytes 4 0x1234
def lineBytes : List Byte := [0, 1, 2, 0] ++ List.replicate 4 0 ++ leBytes 4 0x10000 ++ List.replicate 12 0 ++ leBytes 4 1 ++ leBytes 4 2 ++ leBytes 4 3
  ++ leBytes 4 4 ++ leBytes 2 10 ++ leBytes 2 0xFFF6 ++ List.replicate 4 0
def profileBytes (crc : Nat) : List Byte :=
  leBytes 4 0x44504B51 ++ leBytes 2 0x0100 ++ leBytes 2 1 ++ leBytes 2 100 ++ leBytes 2 1536 ++ leBytes 2 1536 ++ List.replicate 46 0 ++ leBytes 4 crc ++ (List.replicate 16 lineBytes).flatten
def layBytes (a : Nat) (bs : List Byte) (m : Sparse Byte) : Sparse Byte := sputs flashErased m a bs
/-- Bytes listed from address `a` on, erased ones left out. -/
def cells : Nat → List Byte → Sparse Byte
  | _, [] => []
  | a, b :: bs => if b = 0xFF then cells (a + 1) bs else (a, b) :: cells (a + 1) bs
/-- A store whose directory has one entry, whose object lies behind the checks; `pages` are the page checks, rising. -/
def storeWith (e : List Byte) (a : Nat) (bs : List Byte) (pages : List (Nat × Nat)) : State :=
  { rdy with
    store.flash := cells 0x00400000 e ++ (pages.flatMap fun p => cells (0x00800000 + 4 * p.1) (leBytes 4 p.2)) ++ cells a bs
    store.anchor := ⟨0, 0, 1, 1, false⟩ }
def jobFor (op : Nat) (ws : List Word) : Job := ⟨op, 0, 7, .ring, ws, 0⟩
def bankStore (magic : Nat) (c : Nat) : State :=
  storeWith (dirEntry 0x02000000 160 0xFFFFFFFF 3 0 2057013796) 0x02000000 ((bankBytes 4136724311).set 0 (BitVec.ofNat 8 magic)) [(1024, 310054792), (8192, c)]
def svtStore : State := storeWith (dirEntry 0x02001000 8192 0xFFFFFFFF 4 0 1755111052) 0x02001000 [] [(1024, 310054792), (8193, 4048840458), (8194, 4048840458)]
def waveStore (c c2 : Nat) : State :=
  let s := storeWith (dirEntry 0x02003000 8256 0xFFFFFFFF 2 0 2704808823) 0x02003000 (waveHead 4224689378)
    [(1024, 310054792), (8195, 4182699341), (8196, 4048840458), (8197, c2)]
  { s with store.flash := s.store.flash ++ cells 0x0200503C (leBytes 4 c) }
def copperStore (c c2 : Nat) : State := storeWith (dirEntry 0x02006000 232 0xFFFFFFFF 5 0 3281115252) 0x02006000 (copperHead 226787121 ++ copperBody ++ leBytes 4 c) [(1024, 310054792), (8198, c2)]
def profileStore (c2 : Nat) : State := storeWith (dirEntry 0x02007000 832 0xFFFFFFFF 6 0 2745878848) 0x02007000 (profileBytes 3037050587) [(1024, 310054792), (8199, c2)]
def updating (u : Nat) : State := { svtStore with fw.update := u, fw.sessions := open12, host.own := [true, true] }
/-- M0 with a device of 2^27 bytes. -/
def bigPort (u : Nat) : State := { updating u with regs := [(0x080010, 0x001B0000)] }
def withTable (u : Option Nat) : State := { banked with fw.banks := [none, some oneBank, none, none], fw.tables := [⟨9, 0, 2, 0, u⟩] }
/-- A stream of 16-bit frames on ring 3, and a read of its frames. -/
def oneStream (safety : Bool) : Stream :=
  { id := 1, ring := 3, voice := none, osc := 0, object := 0, addr := 0x02008000, mirror := if safety then 0x03008000 else 0xFFFFFFFF
    wide := false, rate := 96000, root := 0, length := 8, ls := 0, le := 8, band := 0, mode := 0, start := 0, safety := safety
    prio := 0, general := [0, 0], share := [0, 0], frames := [1], targets := [], opened := 0, closing := none, primed := false }
def oneRead (fs : List Nat) (ports : List Nat) : GristRead := ⟨5, ports, 1, 8300, 1, fs, false⟩
def streaming (safety : Bool) (fs : List Nat) : State :=
  { rdy with regs := [(0x0A0154, 0)], store.streams := [oneStream safety], store.reads := [oneRead fs (if safety then [0, 1] else [0])], store.serving := [some 5, if safety then some 5 else none], store.flash := layBytes 0x02008040 [1, 2, 3, 4] (layBytes 0x03008040 [1, 2, 3, 4] []) }
/-- A standby line check of lines 0 and 1 whose step on line 0 is under way; the program says DONE where `done`. -/
def lineJob (mask channel : Nat) : DiagJob :=
  { DiagJob.start 0 mask (profileBytes 0) with
    channel := channel
    stepSeq := 1
    going := true
    begun := 15000
    saved := [(bDAC, 0x10, 5)] }
def lineCheck (mask channel : Nat) (done : Word) : State :=
  { rdy with
    time := 4096 * 1100 + 8
    lastBlock := 1100
    fw.diag := some (lineJob mask channel)
    fw.jobs := [jobFor 0x58 [0, 0]]
    cop.xch := ((List.replicate 32 (0 : Word)).set 31 done).set 16 5 |>.set 17 9 |>.set 19 3 |>.set 22 7 }
def logged : State := { rdy with kiln.log := [⟨5, 6, 7, 8, 9, 7, 3, false⟩, ⟨5, 6, 7, 8, 9, 7, 4, false⟩], kiln.seq := 5 }
def fwBase (step : Nat) : State := { svtStore with host.own := [true, true], host.hoStep := step, host.activeSlot := 0 }
def fwJob (op : Nat) (ws : List Word) : State := { fwBase 1 with fw.jobs := [jobFor op ws], host.mailbox := [(8192, 0x11223344), (8193, 0x55667788), (8194, 5)] }
def pausedFw (restart : Bool) : State := { fwBase 5 with fw.paused := true, fw.restart := restart, fw.replies := [⟨0x72, 0, 7, .ring, none, none⟩] }
def pausedLong : State := { pausedFw false with time := 4096 * 20, lastBlock := 20 }
def anchorDue : State := { fwBase 6 with fw.anchorDue := true }
/-- A recipe whose first oscillator is noise at full level. -/
def noiseRecipe : Recipe := overlay (overlay (overlay zeroRecipe 0x40 [4]) 0x4C (leBytes 4 0x40000000)) 8 (leBytes 4 0x40000000)
def noteTask : Task := { oneTask 0 [] with words := noteMsg.words }
def voiceOf (twin : Option Nat) (a : Option Attempt) : Voice :=
  { newVoice noteTask noiseRecipe 1 0 32 twin with failed := a }
def playing (a : Option Attempt) : State := { rdy with mash.voices := [(600, voiceOf none a)] }
def twins : State := { rdy with mash.voices := [(600, voiceOf (some 1700) none), (1700, voiceOf (some 600) none)] }
def late : State := { playing none with time := 4096 * 4, lastBlock := 4 }
def twinsDone : State := { rdy with lastBlock := 2, mash.voices := [(600, { voiceOf (some 1700) none with ckptAt := some 2, next := 3 }), (1700, { voiceOf (some 600) none with ckptAt := some 2, next := 3 })] }
def resultOf (v w : Nat) (x : Int) (differs : Bool) : TwinResult :=
  ⟨2, v, w, 0, (List.replicate 20 (List.replicate 16 x)), (voiceOf none none).ctx, differs, false, false, false⟩
def compared (x y : Int) (d : Bool) : State := { twinsDone with mash.twins := [resultOf 600 1700 x d, resultOf 1700 600 y d] }
def mixing (x : Int) : State := { rdy with mash.sums := [⟨1, 0, List.replicate 320 x⟩, ⟨1, 4, List.replicate 320 7⟩] }
/-- A boundary at which nothing waits but a write of the gain of channel 3. -/
def still : State := { rdy with regs := [(0x080000, 0x01400A55)], fw.unitAgreed := 0, fw.writes := [⟨bWORT, 0xC, 0x20000000, 3⟩] }
def calm (dig ana : Int) : BoundaryInput := ⟨dig, ana, true, false, [], true, []⟩
def shedding (t : Int) (c : Option Nat) : State := { rdy with time := 4096 * 1024 + 8, lastBlock := 1024, pwr.tempDig := t, mash.regions := [{ Region.reset true with ceiling := c }, { Region.reset true with ceiling := c }] }
def comingUp (b : Nat) : State := { rdy with fw.region1From := some b, mash.regions := [Region.reset true, Region.reset false] }
def standbyAsked : State := { rdy with pwr.standbyReq := true, regs := [(0x010040, 1), (0x040000, 1)] }
/-- A Copper that stands on one instruction word at address 5, in a program of 64 words. -/
def onWord (w : ProgWord) (c : Copper) : State :=
  { rdy with cop := { c with on := true, hasProg := true, active := 0, pwords := [64, 0], prog := [[(5, w)], []], pc := 5, wait := false } }
def copBase : Copper := { Copper.reset true with d := [5, 0x80000000, 3, 0x7FFFFFFF, 0xFFFFFFFF, 6, 7, 8], a := [5, 0xFFFFFFFFFFFFFFFFFF, 7, 9], ptr := List.replicate 8 20, x := [(7, 77), (20, 99), (21, 3)], y := [(20, 98)] }
def onInstr (i : Instr) : State := onWord (encodeCopper i) copBase
def framed (c : Copper) : State := { rdy with time := 8200, cop := { c with on := true, hasProg := true, active := 0, pwords := [64, 0], prog := [[(5, 0xD800000000000000)], []], pc := 5, frame := 31, slots := List.range 64 |>.map fun k => w32 k } }
def waiting : Copper := { copBase with wait := true, cycles := 100, params := [(false, 9, 4)] }
def fading : Copper := { copBase with wait := true, fade := some ⟨4, 1, 50, [10, 20], [110, -80]⟩ }
def interrupted : State := { onInstr (.cLdi 1 5) with cop.irqPend := 6, cop.irqEn := 6, cop.sr := 0x0300, cop.flights := [⟨.reg 3, 9⟩] }
def reservedWord : State := onWord fillWord copBase
/-- Channel 2 on, stages of 8 bits, threshold 0 coarse and on, threshold 1 off. -/
def sensing : State := { rdy with
  regs := [(0x040000, 4), (0x040004, 8 + 256 * 4 + 2 ^ 18 * 2), (0x040008, 0x00012301), (0x04000C, 0), (0x040084, 5 + 2 * 65536), (0x040088, 0)]
  sns := (List.replicate 8 SenseCh.reset).set 2 { SenseCh.reset with align := 2000, groups := 1, s1 := [5], s2 := [7], y := [3], lastOk := -5, thr := [⟨false, 1, 7⟩, ⟨false, 0, 0⟩], frame := 32 } }
def scratchOn (p : BankPower) : State := { rdy with mem.scratch := [(5, 9)], mem.banks := (List.replicate 12 BankPower.on).set 8 p }
def cleared (p : BankPower) : State := { rdy with mem.scratch := [(5, 9), (8195, 4)], mem.sys := [(5, 9)], mem.banks := (List.replicate 12 BankPower.on).set 8 p }
def lineReg : Sparse Word := [(0x020000, 0x00000001), (0x02000C, 0x00040000)]
def uartWith (u : Uart) : State := { rdy with regs := lineReg, uarts := [u, u] }
def freshUart : Uart := { fifo := [], partialBlock := 0, frame := [], frameBad := false, ready := [], outq := [], de := false, lastTx := [], active := [1, 0, 1, 0], newSettings := true }
def pingFrame (addr : Byte) (n : Nat) : List Byte :=
  let b := [addr] ++ leBytes 4 (header 2 0 5 0).toNat
  b ++ leBytes 2 (crc16 b + n)
def lineGot (f : List Byte) (bad : Bool) : State := uartWith { freshUart with ready := [(f, bad), ([1], true)] }
def dacWith (cfg : Word) (k : DacState) : State := { rdy with regs := [(0x050010, cfg), (0x050014, 0x123), (0x050020, 0x01000000), (0x050028, 0x3000)], dacs := [k, k, k, k] }
def freshDac : DacState := { raw := 5, gain2 := false, refExt := false, queue := [], phase := 77, sine := false, cask := true, faulted := false, lastTick := some 8192 }
def timing (cfg count : Word) : State := { rdy with regs := [(0x010040, cfg), (0x010044, 1), (0x010048, count), (0x010050, 100)] }
def lfStandby (cfg : Word) : State := { inStandby with regs := [(0x010040, cfg), (0x010048, 50), (0x010050, 900), (0x010058, 900), (0x010060, 900), (0x010068, 900)] }
/-- Tracker 0 on pin 0, a wheel of 60 teeth without gap. -/
def wheel (k : Tracker) : State := { rdy with regs := [(0x0C0040, 1), (0x0C0044, 60)], tbs := (List.replicate 4 Tracker.off).set 0 k }
def synced : Tracker := { Tracker.off with state := 3, lastEdge := some 147000, lastInput := 147000, p := 60000, valid := 3, tooth := 7, rev := 2, first := false, w := 1000, refSeen := true }
def seeking : Tracker := { Tracker.off with state := 1 }
def syncing : Tracker := { Tracker.off with state := 2 }
def hostFed (k : Tracker) : State := { rdy with time := 4096 * 20000, lastBlock := 20000, regs := [(0x0C0040, 3)], tbs := (List.replicate 4 Tracker.off).set 0 k }
def stalling (k : Tracker) : State := { wheel k with time := 4096 * 20000, lastBlock := 20000 }
def tdmOut (ctrl : Word) : State := { rdy with regs := [(0x060000, ctrl), (0x060010, 0x8081)], tdm.running := true, time := 4096 * 10, lastBlock := 10, mash.wort := [⟨6, (List.range 512).map fun (k : Nat) => (k : Int) * 1000000, none⟩, ⟨5, (List.range 512).map fun (k : Nat) => (k : Int) * 1000000, none⟩] }
def tdmIn (locked : Bool) (good : Nat) : State := { rdy with regs := [(0x070000, 0x00003029), (0x070004, 0xFFFE0001)], tdm.locked := locked, tdm.good := good, fw.agreed := 0xFFFF }
/-- A chain link in a state of R593, frames `tx` sent and `rx` received so far. -/
def chained (st : Word) (tx rx : Nat) : State := { rdy with regs := [(0x090030, st)], chain.txFrame := tx, chain.rxFrame := rx }
def sentWords (f : Nat) : List Word :=
  match exec .chainFrameTransmit (chained 1 (f - 1) (f - 1)) with
  | .next t => t.chain.txWords
  | _ => []
def aligning (flag : Word) : State := { chained 3 34 34 with chain.rxGood := true, chain.rxWords := [0, 0x00123456, 1, flag] }
def startsAt (f mask : Nat) (accept : Word) : State := { rdy with regs := [(0x010004, accept), (0x01004C, 7), (0x010048, 77), (0x01014C, 5)], chain.starts := [(f, mask)] }
def held : State := { rdy with kiln.cap.valid := true, kiln.cap.merged := 254, regs := [(0x0A010C, 0x52)] }
def windowed (inReset : Bool) (target : Nat) : State := { rdy with kiln.windows := [⟨target, inReset, 9⟩], kiln.cap.valid := true, dacs := List.replicate 4 ⟨5, false, false, [], 77, true, true, false, none⟩ }
def oneAct (d : Nat) : PendAct := ⟨5, 6, 2, d⟩
def actDue : State := { rdy with kiln.acts := [oneAct 9000, oneAct 9999] }
def released (used : Option Bool) : State := { State.reset with pwr.phase := .released, pwr.railLow := [false, false, false, false], pwr.refUsed := used, time := 0 }
def inResetUp : State := { State.reset with pwr.railLow := [false, false, false, false] }
def anchorBytes (copy slot : Nat) : List Byte := (⟨copy, slot, 5, 0, false⟩ : Anchor).bytes
def anchored (slot : Nat) : State := { released (some true) with store.flash := layBytes 0 (anchorBytes 0 slot) [] }
def wakeable : State := { inStandby with pwr.wakeSet := [⟨2, 1⟩] }
def onPrimary (b : Option Nat) : State := { rdy with pwr.refUsed := some true, pwr.qualP := some 5, pwr.qualB := b }
def holding (t : Nat) : State := { rdy with time := 4096 * 70000, lastBlock := 70000, pwr.refUsed := none, pwr.holdover := some t }
def onBackup : State := { rdy with time := 4096 * 70000, lastBlock := 70000, pwr.refUsed := some false, pwr.qualP := some 5, pwr.qualB := some 6 }
def watched : State := { rdy with regs := [(0x0A0000, 0x00010A01)], time := 4096 * 20, lastBlock := 20, kiln.hbMissed := some 5 }

/-! ### Well-formed commands -/

/-- A write transfer of the words `d`. -/
def transferOf (d : List Word) (c : Option (Nat × Word)) : Transfer := ⟨false, 0, d, 64, 0, c, []⟩
/-- An empty move field, and a format A word with every field 0. -/
def m0 : Mv := ⟨0, 0, 0, 0⟩
def idle : FmtA := ⟨0, 0, 0, 0, m0, m0⟩
/-- A boundary with two readings, failing scrub reads and disagreeing copies. -/
def boundaryOf (dig ana : Int) (scrub : List PageFault) (copies : List CopyEvent) : BoundaryInput := ⟨dig, ana, true, false, scrub, true, copies⟩

/-- Ill-formed terms, at least one for each check of Instr.wellFormed. -/
def illFormed : List Instr :=
  [.hostTransfer (transferOf (List.replicate 129 0) none), .hostTransfer (transferOf [] (some (128, 0))),
   .registerWrite (2 ^ 24) 0, .registerWrite 2 0, .doorbellBulk 2, .takeDoorbell [4096] [], .takeDoorbell [] [⟨2 ^ 20, 1⟩], .takingResume [4096] [],
   .hello ⟨32, 0, []⟩, .hello ⟨0, 256, []⟩, .hello ⟨0, 0, List.replicate 256 0⟩, .bankLoadDone [⟨2 ^ 20, 1⟩], .diagStart ⟨0, 0, []⟩ [⟨2 ^ 20, 1⟩],
   .fwVerifyDone 5, .blockBoundary (boundaryOf 2048 0 [] []), .blockBoundary (boundaryOf 0 (-2049) [] []), .blockBoundary (boundaryOf 0 0 [⟨2 ^ 20, 1⟩] []),
   .blockBoundary (boundaryOf 0 0 [] [⟨5, .agree⟩]), .blockBoundary (boundaryOf 0 0 [] [⟨0, .stable 2⟩])]
  ++ [.voiceBlock 2048 .pass, .voiceBlock 0 (.fail 4 0 0), .voiceBlock 0 (.fail 0 8 0), .voiceBlock 0 (.fail 0 0 16), .voiceBlock 0 (.ringFail 4096),
   .voiceBlock 0 (.waveFail (2 ^ 19)), .voiceBlockRetry 2048 .pass, .voiceBlockRetry 0 (.ringFail 4096)]
  ++ [.twinCompare 2048 true, .twinRecompute 2048 .pass .pass none, .twinRecompute 0 (.ringFail 4096) .pass none,
   .twinRecompute 0 .pass (.ringFail 4096) none, .twinRecompute 0 .pass .pass (some 2),
   .deviceMix (.region 2 0), .deviceMix (.region 0 32), .deviceMix (.copy 2), .cAdd { idle with dst := 8 },
   .cMac idle, .cCmac { idle with dst := 9, s2 := 2 },
   .cNop { idle with x := ⟨3, 0, 0, 0⟩ }, .cNop { idle with x := ⟨1, 0, 0, 12⟩ }, .cLdi 62 0, .cMv 0 62, .cBr 14 0,
   .tdmiFrame [], .chainFrameReceive (List.replicate 65 0) true, .spargeStage1Output 8 [] false, .spargeStage1Output 0 (List.replicate 257 true) false,
   .spargeFineValue 8, .thresholdChange 8 0, .thresholdChange 0 2, .dacUpdate 4, .timerStep 4, .timerCapture 4 true 0, .timerCapture 0 true 256,
   .captureInputEdge 4 true]
  ++ [.tbEdge 4 true 0 false, .tbStall 4, .gristReadComplete 0 ⟨[2 ^ 20], []⟩, .gristReadComplete 0 ⟨[], [⟨2 ^ 20, 1⟩]⟩, .gristPort 2,
   .kilnMessage 0 256 0 false, .kilnMessage 0 0 256 false, .blockResetEnd 11, .pinReadback 8 true, .supplyThreshold 4 .reset,
   .comparatorDisagreement 4, .supplyRelease 4, .pllLock 7 0, .pllLock 0 7, .ready ⟨true, 32, 0⟩ ⟨false, 0, 0⟩, .ready ⟨true, 0, 32⟩ ⟨false, 0, 0⟩,
   .ready ⟨true, 0, 0⟩ ⟨false, 32, 0⟩, .wakeComparator 8 0, .wakeComparator 0 2, .bankClearDone 12, .bankPowerUpEnd 12, .memoryScrub 64 0 0 0,
   .memoryScrub 0 256 0 0, .atomicAdd 131072 0 false, .atomicAdd 2 0 false, .atomicSwap 131072 0 false, .atomicSwap 2 0 false]
  ++ [.uartCharacter 2 ⟨0, true, true, false, false⟩, .uartTimeout 2, .uartFrame 2 [], .uartFrame 0 [⟨2 ^ 20, 1⟩], .uartTransmit 2, .uartDeTail 2]

theorem test_ill_formed_refused : (illFormed.all fun i => !i.wellFormed) = true := by decide +kernel

/-- Terms at the upper end of the same ranges. -/
theorem test_well_formed_taken : ([Instr.hostTransfer (transferOf (List.replicate 128 0) (some (127, 0))), .registerWrite 0xFFFFFC 0, .doorbellBulk 1,
    .takeDoorbell [4095] [⟨2 ^ 20 - 1, 1⟩], .hello ⟨31, 255, List.replicate 255 0⟩, .bankLoadDone [⟨2 ^ 20 - 1, 1⟩], .fwVerifyDone 4,
    .blockBoundary (boundaryOf 2047 (-2048) [] [⟨4, .stable 1⟩]), .voiceBlock 2047 (.fail 3 7 15), .voiceBlock 0 (.ringFail 4095),
    .voiceBlock 0 (.waveFail (2 ^ 19 - 1)), .twinRecompute 2047 .pass .pass (some 1), .deviceMix (.region 1 31),
    .cAdd ⟨7, 7, 7, 63, ⟨2, 3, 3, 11⟩, ⟨1, 3, 3, 11⟩⟩, .cMac { idle with dst := 11 }, .cLdi 61 0, .tdmiFrame (List.replicate 32 0),
    .spargeStage1Output 7 [] false, .tbEdge 3 true 0 true, .timerCapture 3 false 255, .blockResetEnd 10, .memoryScrub 63 255 0 0,
    .atomicAdd 131068 0 false, .uartFrame 1 []].all Instr.wellFormed) = true := by decide +kernel

/-! ### Words of the Copper (chapter 14), each written out from its format -/

/-- Chapter 14's own example: `mac a0, d1, d5 || ld d3, x(ax0)+ || ld d7, y(ay0)+`. -/
theorem test_decode_mac : decodeCopper 0x0A054044C0045C00 = some (.cMac ⟨8, 1, 5, 0, ⟨1, 0, 1, 3⟩, ⟨1, 0, 1, 7⟩⟩) := by decide +kernel
/-- The fill of unloaded program words is reserved (R455). -/
theorem test_decode_fill : decodeCopper 0xFFFFFFFFFFFFFFFF = none := by decide +kernel
/-- OP 0x00, all fields 0: NOP without moves. -/
theorem test_decode_nop : decodeCopper 0 = some (.cNop idle) := by decide +kernel
/-- Format M: LDI d1, 0x80000000; STX with an address; format B: BR always to 7; WFR. -/
theorem test_decode_ldi : decodeCopper 0x8010000080000000 = some (.cLdi 1 0x80000000) := by decide +kernel
theorem test_decode_stx : decodeCopper 0x8C20123400000000 = some (.cStx 2 0x1234) := by decide +kernel
theorem test_decode_br : decodeCopper 0xC000007000000000 = some (.cBr 0 7) := by decide +kernel
theorem test_decode_wfr : decodeCopper 0xD800000000000000 = some .cWfr := by decide +kernel
/-- The table's own bits spell no command (log 2). -/
theorem test_decode_table_word : decodeTableWord 64 0 = none ∧ State.reset.withFetchWord 64 0 = State.reset := ⟨rfl, rfl⟩

/-! ### Worked examples and check values of the spec -/

/-- 18 R567: the PING frame of the example; R568: the CRC-16 of its first five bytes. 10 R364, 18 R568: check values of "123456789". -/
def digits : List Byte := [0x31, 0x32, 0x33, 0x34, 0x35, 0x36, 0x37, 0x38, 0x39]
theorem test_ping_frame_good : frameGood [0x02, 0x00, 0x11, 0x00, 0x02, 0x9E, 0x01] = true ∧ crc16 [2, 0, 0x11, 0, 2] = 0x019E := by decide +kernel
theorem test_crc_check_values : crc16 digits = 0x29B1 ∧ crc8 digits = 0xDF ∧ crc32 digits = 0xCBF43926 := by decide +kernel
/-- 11: HELLO on a QK1024A across the ring end: the words of its response that the spec gives, and its agreed set. -/
def helloMsg : Msg := ⟨0, 0x2A, [0x00010000, 0x0000F7FD, 0]⟩
def helloState : State := { rdy with part.variant := .qk1024a, fw.helloDone := false, fw.agreed := 0, fw.unitAgreed := 0 }
def stateOf (r : Host.Outcome State Fault Refusal) : State := match r with
  | .next s => s
  | _ => State.reset
theorem test_hello_words : Variant.features .qk1024a = 0xFFBE ∧ agreedSet 0xFFBE 0xF7FD = 0xF3BC ∧ header 0x01 0 0x2A 7 = 0x01002A07 := by decide +kernel
theorem test_hello_agreed : (stateOf (execHello helloMsg helloState)).fw.agreed = 0xF3BC
    ∧ (stateOf (execHello helloMsg helloState)).host.rspHead = 8 := by decide +kernel
/-- 12: the header and handle of the note-on at top dead centre. -/
theorem test_note_on_header : header 0x10 2 5 7 = 0x10020507 ∧ header 0x10 2 5 2 = 0x10020502 := by decide +kernel
/-- 02: phases of the four-cylinder voice at 90 degrees of revolutions 1,234 and 1,235, and its mip level. -/
theorem test_order_phases : orderPhase 0x20000 (1234 * 2 ^ 32 + 0x40000000) = 0x80000000 ∧ orderPhase 0x40000 (1234 * 2 ^ 32 + 0x40222222) = 0x00888888
    ∧ orderPhase 0x8000 (1234 * 2 ^ 32 + 0x40000000) = 0x20000000 ∧ orderPhase 0x8000 (1235 * 2 ^ 32 + 0x40000000) = 0xA0000000
    ∧ mipLevel 4473924 = 0 := by decide +kernel
/-- 03: segment lengths and the steered gains of the door chime. -/
theorem test_segment_lengths : segCount 0x5E10 = 115200 ∧ segCount 0x0780 = 1920 ∧ segCount 0x2960 = 9600 := by decide
def chimeView : VoiceView := ⟨0, [], [], 0, 0, fun _ => none, fun _ => 0, fun _ => none, fun _ _ => none,
  fun e k => if e = 0x10 then [0, 0, 0x8000, 0, 0x4000].getD k 0 else [0, 0, 0, 0x8000, 0x4000].getD k 0⟩
def chime : Recipe := [0x51, 0x4B, 0x52, 0x31, 0, 1, 5, 2, 0, 0, 0, 0x40, 0x10, 0x11, 0, 0x40] ++ List.replicate 496 0
theorem test_speaker_gains : (speakerGains chimeView chime (-0x2000)).take 5 = [0, 0, 30274, 12540, 21407] := by decide +kernel
/-- 03: modulation of pitch, morph and cutoff in the pedestrian-alert voice. -/
theorem test_modulation_scales : rndShift (0x14000000 * fullScale 0) 31 = 491520 ∧ rndShift (0x03C00000 * fullScale 3) 31 = 1920
    ∧ rndShift (0x0A000000 * fullScale 20) 31 = 491520 := by decide +kernel
/-- 04: the cycle event at 350 degrees of the second revolution fires at sample 1 and re-arms a revolution later. -/
theorem test_cycle_event : crossScan (2 * 2 ^ 32) (2 ^ 32 + 0xF8E38E39) 0 true [41 * 2 ^ 32 + 0xF8E22222, 41 * 2 ^ 32 + 0xF9044444] 0
      (41 * 2 ^ 32 + 0xF8C00000) none = (some (41 * 2 ^ 32 + 0xF8E38E39), some (1, 41 * 2 ^ 32 + 0xF8E38E39))
    ∧ crossSample (2 * 2 ^ 32) (2 ^ 32 + 0xF8E38E39) 0 (42 * 2 ^ 32) (42 * 2 ^ 32 + 0xF8E38E39) (some (41 * 2 ^ 32 + 0xF8E38E39)) = (none, none) := by
  decide +kernel
/-- 05: the admission limit of one port and its safety share. -/
theorem test_admission_limits : limitsOf 0x00500A55 0 = (56666, 5666) := by decide +kernel
/-- 06: the three narrowed values and the fields of 0x000FF2B7. -/
theorem test_narrow : narrow 24 0x12345780 = 0x12345800 ∧ narrow 24 0x12345680 = 0x12345600 ∧ narrow 24 0x7FFFFF90 = 0x7FFFFF00
    ∧ slotCount 0x000FF2B7 = 8 ∧ slotWidth 0x000FF2B7 = 24 := by decide +kernel
/-- 14: RND #1 of the biquad example, an exact tie with q even. -/
theorem test_rnd_tie : accWord false 0x001333333340000000 1 = (0x26666666, false) := by decide +kernel
/-- 17: RELOAD written as 256 at count 400 of the up-leg; TO0 rises at 128 of the down-leg. -/
def pwm : State := { rdy with regs := [(0x010040, 1), (0x010140, 3), (0x010144, 256), (0x010148, 128), (0x01014C, 400)] }
theorem test_pwm_turns : ((pwm.clusterStep 0).tclN 0 0xC, ((pwm.clusterStep 0).cluster 0).down, pwm.clusterLevel 0) = (399, true, false) := by
  decide +kernel
def pwmAt (n : Word) (down : Bool) : State :=
  { pwm with regs := [(0x010040, 1), (0x010140, 3), (0x010144, 256), (0x010148, 128), (0x01014C, n)]
             tcl := ⟨down, none, none, none⟩ :: pwm.tcl.drop 1 }
theorem test_pwm_output : (pwmAt 129 true).clusterLevel 0 = false ∧ (pwmAt 128 true).clusterLevel 0 = true ∧ (pwmAt 127 false).clusterLevel 0 = true
    ∧ (pwmAt 128 false).clusterLevel 0 = false := by decide +kernel
/-- 17: a step from 99,990 to 100,021 meets the compare at 100,000 once, which then stands at 101,000. -/
theorem test_compare_advance : advance 99990 100021 1000 1000 100000 = (101000, 1) := by decide +kernel

/-! ### Witnesses: the queue, the host port, the protocol -/

theorem witness_StepTakesFront :
    (rdy.pending = [] ∧ rdy.clocked = true ∧ rdy.pwr.phase ≠ .standby)
    ∧ (inStandby.pending = [] ∧ (inStandby.clocked = false ∨ inStandby.pwr.phase = .standby)) := by
  refine ⟨?_, ?_⟩ <;> decide +kernel

def unsaid : State := { rdy with fw.helloDone := false }
def safeState : State := { rdy with kiln.safe := true }
def disagreed : State := { rdy with fw.agreed := 0 }

theorem witness_ChecksInOrder_row :
    (rdy.kiln.raised = [] ∧ rdy.refusal (cmdOf 0x05 (msg [])) = some 0x11)
    ∧ (rdy.canTake = true ∧ rdy.responseRoom = true ∧ ClearToAnswer rdy)
    ∧ (State.reset.kiln.raised = [] ∧ State.reset.canTake = false) := by
  unfold ClearToAnswer
  refine ⟨?_, ?_, ?_⟩ <;> decide +kernel

theorem witness_ChecksInOrder_rows : ((Instr.ping, 0x02) : (Msg → Instr) × Nat) ∈ messageRows [] ∧ ((Instr.fwSelect, 0x73) : (Msg → Instr) × Nat) ∈ messageRows [] := by
  constructor <;> simp [messageRows]

theorem witness_ChecksInOrder_steps :
    (cmdRule 0xEE = none)
    ∧ (cmdRule 0x05 = some (zeroCmd 0x05 1 1) ∧ ¬ (1 ≤ (cmdOf 0x05 (msg [])).words.length))
    ∧ (¬ (rdy.sessionOpen (cmdOf 0x05 (⟨31, 0, [1]⟩ : Msg)).session = true))
    ∧ (unsaid.sessionOpen 0 = true ∧ ¬ (unsaid.fw.helloDone = true ∨ (zeroCmd 0x05 1 1).safe = true))
    ∧ (safeState.fw.helloDone = true ∧ ¬ (safeState.kiln.safe = false ∨ (zeroCmd 0x05 1 1).safe = true))
    ∧ (disagreed.lacksFeature (zeroCmd 0x06 2 255) (cmdOf 0x06 (msg [4, 0])) = true ∧ cmdRule 0x06 = some (zeroCmd 0x06 2 255))
    ∧ ((cmdOf 0x49 (msg [1, 0, 4])).half = some 1 ∧ nthB rdy.host.own 1 = false ∧ rdy.refusal (cmdOf 0x49 (msg [1, 0, 4])) = some 0x19) := by
  refine ⟨?_, ?_, ?_, ?_, ?_, ?_, ?_⟩ <;> decide +kernel

theorem witness_NoMessageWaits : rdy.kiln.raised = [] ∧ (∃ t, exec (.registerWrite 0x68 1) rdy = .next t) := ⟨by decide +kernel, ⟨_, rfl⟩⟩

theorem witness_MemoriesStayCanonical : rdy.canonical = true ∧ (∃ t, exec (.registerWrite 0x68 1) rdy = .next t) ∧ CopperInstr .cWfr
    ∧ (∃ t, exec (.atomicAdd 4 9 false) (scratchOn .on) = .next t) :=
  ⟨by decide +kernel, ⟨_, rfl⟩, ⟨0xD800000000000000, by decide +kernel⟩, ⟨_, rfl⟩⟩

theorem witness_CopperDecodesItsWords :
    (copperOk (.cAdd ⟨2, 1, 1, 0x3F, ⟨1, 0, 1, 3⟩, ⟨1, 1, 1, 5⟩⟩) = true)
    ∧ (copperOk (.cLdi 8 0xFFFFFFFF) = true)
    ∧ (copperOk (.cBr 0 0x3FFF) = true) := by
  refine ⟨?_, ?_, ?_⟩ <;> decide +kernel

theorem witness_HostRegisterWrites :
    (HostHears rdy ∧ rdy.isReady = true)
    ∧ (HostHears locked ∧ locked.isReady = false) := by
  unfold HostHears
  refine ⟨?_, ?_⟩ <;> decide +kernel

theorem witness_HostMailboxWrites :
    (HostHears rdy ∧ rdy.isReady = true ∧ (0x10000 - 0x10000) / 4 < 4096 ∧ (0x13FFF - 0x10000) / 4 < 4096)
    ∧ (nthB rdy.host.own (((0x18000 - 0x10000) / 4 - 8192) / 4096) = false ∧ nthB rdy.host.own (((0x1FFFF - 0x10000) / 4 - 8192) / 4096) = false)
    ∧ (HostHears locked ∧ locked.isReady = false)
    ∧ (4096 ≤ (0x14000 - 0x10000) / 4 ∧ (0x17FFF - 0x10000) / 4 < 8192)
    ∧ (HostHears armed ∧ nthB armed.host.own (((0x18000 - 0x10000) / 4 - 8192) / 4096) = true) := by
  unfold HostHears
  refine ⟨?_, ?_, ?_, ?_, ?_⟩ <;> decide +kernel

theorem witness_HostKeys :
    (HostHears armed ∧ armed.armed = true)
    ∧ (HostHears rdy ∧ rdy.armed = false)
    ∧ (armed.host.softArmed = some 8000 ∧ armed.time < 8000 + 24576)
    ∧ (({ armed with time := 8000 + 24576 } : State).host.softArmed = some 8000 ∧ HostHears { armed with time := 8000 + 24576 })
    ∧ ((0x109 : Word).toNat % 256 = armed.kiln.cap.seq ∧ (8 : Word).toNat % 256 ≠ armed.kiln.cap.seq)
    ∧ (armed.isReady = true ∧ nthB armed.host.own 0 = true ∧ nthB armed.host.own 1 = false) := by
  unfold HostHears
  refine ⟨?_, ?_, ?_, ?_, ?_, ?_⟩ <;> decide +kernel

theorem witness_HostTransfers :
    (HostHears rdy ∧ rdy.host.crcEn = false ∧ HostHears crcOn ∧ crcOn.host.crcEn = true)
    ∧ ((0x80000000 : Word).getLsbD 31 = true ∧ 32 + 32 * (bits (0x80000000 : Word).toNat 24 7 + 1) ≤ 64)
    ∧ ((0x00000064 : Word).getLsbD 31 = false ∧ bits (0x00000064 : Word).toNat 24 7 + 1 = 1 ∧ (transfer 0x64 [5] 64 0).collide = none)
    ∧ (crcOver 0x00000064 [5] = (BitVec.ofNat 8 (crcOver 0x00000064 [5])).toNat ∧ crcOver 0x00000064 [5] ≠ (BitVec.ofNat 8 (crcOver 0x00000064 [5] + 1)).toNat)
    ∧ ((transfer 0 [5] 31 0).bits < 32) := by
  unfold HostHears
  refine ⟨?_, ?_, ?_, ?_, ?_⟩ <;> decide +kernel

/-- The message of a command-ring word that cannot be read, at the tail. -/
def lostWord : BitVec 64 := mkMsg 2 0 kMemUncorrectable 1 (14 * 256) 0

theorem witness_TakeDoorbell :
    (ringPing.kiln.raised = [] ∧ ringPing.canTake = true ∧ ringPing.host.bellCmd = true ∧ (∀ u ∈ ringPing.uarts, u.ready = []) ∧ ClearToAnswer ringPing ∧ ringPing.responseRoom = true)
    ∧ (({ ringPing with host.cmdHead := 0 } : State).host.cmdHead = ringPing.host.cmdTail)
    ∧ (ringPing.host.cmdHead = (ringPing.host.cmdTail + bits (ringPing.mbx 0).toNat 0 8 + 1) % 4096 ∧ ringPing.refusal (ringPing.ringCmd (ringPing.mbx 0).toNat 1 0) = none ∧ (∀ i, i ≤ 0 → (ringPing.host.cmdTail + i) % 4096 ∉ [5]))
    ∧ (ClearToAnswer ringBad ∧ ringBad.refusal (ringBad.ringCmd (ringBad.mbx 0).toNat 1 1) = some 0x10 ∧ ringBad.host.cmdHead = (ringBad.host.cmdTail + 1 + 1) % 4096)
    ∧ (ringPing.host.cmdHead ≠ ringPing.host.cmdTail ∧ ringPing.host.cmdTail ∈ [0] ∧ Heard ringPing lostWord ∧ FreeSet ringPing lostWord) := by
  unfold ClearToAnswer Heard FreeSet
  refine ⟨?_, ?_, ?_, ?_, ?_⟩ <;> decide +kernel

def heldBack : State := { ringPing with fw.limit := 1 }
def dropping : State := { rdy with fw.dropped := 3 }

theorem witness_ResumeAndOverflow :
    (rdy.kiln.raised = [] ∧ rdy.fw.limit = rdy.host.cmdTail)
    ∧ (heldBack.canTake = true ∧ ClearToAnswer heldBack ∧ heldBack.responseRoom = true ∧ heldBack.host.cmdTail < 4096 ∧ heldBack.fw.limit = (heldBack.host.cmdTail + bits (heldBack.mbx 0).toNat 0 8 + 1) % 4096)
    ∧ (heldBack.refusal (heldBack.ringCmd (heldBack.mbx 0).toNat 1 0) = none)
    ∧ (heldBack.host.cmdTail ∈ [0] ∧ heldBack.fw.limit ≠ heldBack.host.cmdTail ∧ Heard heldBack lostWord ∧ FreeSet heldBack lostWord)
    ∧ (dropping.fwTakes = true ∧ dropping.fw.dropped ≠ 0 ∧ tailLegal dropping.fw.seenEvtTail dropping.host.evtTail dropping.host.evtHead = true ∧ 4 ≤ dropping.evtFree) := by
  unfold ClearToAnswer Heard FreeSet
  refine ⟨?_, ?_, ?_, ?_, ?_⟩ <;> decide +kernel

theorem witness_ProtocolSessions :
    (TakenNow opened 0x01 (msg [0x00010000, 0xFFFF, 0]) ∧ bits (payload (msg [0x00010000, 0xFFFF, 0]) 0) 16 16 = 1 ∧ payload (msg [0x00010000, 0xFFFF, 0]) 2 = 0 ∧ (∀ k < 16, opened.agrees k = true → (agreedSet opened.part.variant.features 0xFFFF).getLsbD k = false → opened.locked k = false))
    ∧ (TakenNow opened 0x02 (msg []))
    ∧ (TakenNow opened 0x03 (msg [0x00000105]) ∧ bits 0x00000105 16 16 ≤ opened.part.variant.voices ∧ (opened.fw.sessions.getD 5 Session.closed).opened = false)
    ∧ (TakenNow opened 0x03 (msg [0x00000100]) ∧ (opened.fw.sessions.getD 3 Session.closed).opened = false ∧ ∀ j < 3, 1 ≤ j → ¬ (opened.fw.sessions.getD j Session.closed).opened = false)
    ∧ (TakenNow allOpen 0x03 (msg [0]) ∧ ∀ k < 32, 1 ≤ k → ¬ (allOpen.fw.sessions.getD k Session.closed).opened = false)
    ∧ (TakenNow opened 0x04 (msg [0x00000102]) ∧ opened.sessionOpen 2 = true ∧ bits 0x00000102 16 16 ≤ opened.part.variant.voices)
    ∧ (TakenNow opened 0x05 (msg [2]) ∧ opened.sessionOpen 2 = true) := by
  unfold TakenNow Takes ClearToAnswer
  refine ⟨?_, ?_, ?_, ?_, ?_, ?_, ?_⟩ <;> decide +kernel

theorem witness_AgreedSet :
    ((agreedSet 0xFFFF 0xFFFF).getLsbD 0 = true ∧ (agreedSet 0xFFFF 0xFFFF).getLsbD 15 = true)
    ∧ ((agreedSet 0xFFBE 0xFFFF).getLsbD 10 = true ∧ (0xFFBE : Word).getLsbD 13 = true) := by
  refine ⟨?_, ?_⟩ <;> decide +kernel

theorem witness_ImageCommands :
    (TakenNow rdy 0x06 (msg [0x0000000D, 2]) ∧ imageSize 0x0D ≠ 0 ∧ rdy.imageFault 0x0D 0 [2] = none ∧ (∀ e ∈ writeWords 0 [2], actsAtOnce 0x0D e.1 = false))
    ∧ (TakenNow rdy 0x06 (msg [0x0002000D, 2]) ∧ rdy.imageFault 0x0D 2 [2] = some 0)
    ∧ (TakenNow rdy 0x07 (msg [0x0000000D, 1]) ∧ 0 % 4 = 0 ∧ 0 + 4 * 1 ≤ imageSize 0x0D)
    ∧ (TakenNow rdy 0x06 (msg [0x00000001, 0x7F]) ∧ writeWords 0 [0x7F] = [(0, 0x7F)] ∧ rdy.imageFault 0x01 0 [0x7F] = none ∧ (0x7F : Word).getLsbD 8 = false)
    ∧ (TakenNow rdy 0x06 (msg [0x00000001, 0x17F]) ∧ rdy.imageFault 0x01 0 [0x17F] = none ∧ (0x17F : Word).getLsbD 8 = true)
    ∧ (TakenNow rdy 0x06 (msg [0x00180005, 0x123]) ∧ writeWords 0x18 [0x123] = [(0x18 + 0x20 * 0, 0x123)] ∧ rdy.imageFault 0x05 0x18 [0x123] = none)
    ∧ (TakenNow rdy 0x06 (msg [0x00780005, 0x123]) ∧ writeWords 0x78 [0x123] = [(0x18 + 0x20 * 3, 0x123)] ∧ rdy.imageFault 0x05 0x78 [0x123] = none) := by
  unfold TakenNow Takes ClearToAnswer
  refine ⟨?_, ?_, ?_, ?_, ?_, ?_, ?_⟩ <;> decide +kernel

/-! ### Witnesses: tasks -/

/-- A note-on that names no resident bank, and one whose due time has a reserved bit set. -/
def noBankMsg : Msg := msg [0x00450031, 0, 0, 0, 0x00000102, 0, 0]
def badDueMsg : Msg := msg [0x00450031, 0x00020000, 0, 0, 0x00000100, 0, 0]

theorem witness_NoteOnTask :
    (TakenNow banked 0x10 noteMsg ∧ (cmdOf 0x10 noteMsg).dueBad = false ∧ banked.fw.banks.getD (bits (payload noteMsg 4) 0 2) none = some oneBank)
    ∧ (oneBank.recipes[bits (payload noteMsg 4) 8 8]? = some zeroRecipe ∧ banked.tablesResident zeroRecipe = true)
    ∧ (min ((cmdOf 0x10 noteMsg).prio?.getD zeroRecipe.priority) (banked.ceiling 0) < 6 ∧ banked.flowBusy 0 (cmdOf 0x10 noteMsg).flow = false ∧ banked.entryFree 0 = true)
    ∧ (banked.entryFree (min ((cmdOf 0x10 noteMsg).prio?.getD zeroRecipe.priority) (banked.ceiling 0)) = true) := by
  unfold TakenNow Takes ClearToAnswer
  refine ⟨?_, ?_, ?_, ?_⟩ <;> decide +kernel

theorem witness_NoteOnRefusals :
    (TakenNow banked 0x10 badDueMsg ∧ (cmdOf 0x10 badDueMsg).dueBad = true)
    ∧ (TakenNow banked 0x10 noBankMsg ∧ (cmdOf 0x10 noBankMsg).dueBad = false ∧ banked.fw.banks.getD (bits (payload noBankMsg 4) 0 2) none = none)
    ∧ (TakenNow tableBanked 0x10 noteMsg ∧ tableBank.recipes[1]? = some tableRecipe ∧ tableBanked.tablesResident tableRecipe = false)
    ∧ (TakenNow sampleBanked 0x10 noteMsg ∧ sampleBanked.tablesResident sampleRecipe = true ∧ 6 ≤ min ((cmdOf 0x10 noteMsg).prio?.getD sampleRecipe.priority) (sampleBanked.ceiling 0) ∧ sampleBanked.objectsSafe sampleRecipe = false)
    ∧ (TakenNow tasked 0x10 noteMsg ∧ tasked.tablesResident zeroRecipe = true ∧ tasked.flowBusy 0 (cmdOf 0x10 noteMsg).flow = true)
    ∧ (TakenNow fullTasks 0x10 (msg1 noteMsg.words) ∧ fullTasks.flowBusy 1 (cmdOf 0x10 noteMsg).flow = false ∧ fullTasks.entryFree 0 = false) := by
  unfold TakenNow Takes ClearToAnswer
  refine ⟨?_, ?_, ?_, ?_, ?_, ?_⟩ <;> decide +kernel

theorem witness_OtherTasks :
    (TakenNow banked 0x11 (msg [0x00450031, 0, 0, 0]) ∧ (cmdOf 0 (msg [0x00450031, 0, 0, 0])).dueBad = false ∧ banked.noteVoices 0 (cmdOf 0 (msg [0x00450031, 0, 0, 0])).note = [])
    ∧ (TakenNow banked 0x12 (msg [0x00450031, 0, 0, 0]) ∧ banked.flowBusy 0 (cmdOf 0 (msg [0x00450031, 0, 0, 0])).flow = false ∧ banked.entryFree (banked.namedPrio (cmdOf 0 (msg [0x00450031, 0, 0, 0]))) = true)
    ∧ (TakenNow banked 0x13 (msg [0x00450031, 0, 0, 0, 8, 0x1FF]) ∧ paramOk 8 0x1FF = true)
    ∧ (TakenNow banked 0x14 (msg [0x00450031, 0, 0, 0, 1, 0]))
    ∧ (TakenNow banked 0x15 (msg [0x00450031, 0, 0, 0, 1, 1, 1, 1]))
    ∧ (TakenNow banked 0x16 (msg [0x00450031, 0, 0, 0])) := by
  unfold TakenNow Takes ClearToAnswer
  refine ⟨?_, ?_, ?_, ?_, ?_, ?_⟩ <;> decide +kernel

theorem witness_CancelTask :
    (TakenNow tasked 0x17 (msg [0x1003]) ∧ tasked.genOf 3 ≠ 1)
    ∧ (TakenNow tasked 0x17 (msg [3]) ∧ tasked.genOf 3 = 0 ∧ sfind tasked.hop.tasks 3 = some (oneTask 1 []))
    ∧ (TakenNow primedTask 0x17 (msg1 [3]) ∧ sfind primedTask.hop.tasks 3 = some (oneTask 1 [4]) ∧ (oneTask 1 [4]).session = 1)
    ∧ (TakenNow primedTask 0x17 (⟨2, 7, [3]⟩ : Msg) ∧ (oneTask 1 [4]).session ≠ 2)
    ∧ (TakenNow leftTask 0x17 (⟨1, 7, [0x2005]⟩ : Msg) ∧ leftTask.genOf 5 = 2 ∧ sfind leftTask.hop.tasks 5 = none ∧ sfind leftTask.hop.left 5 = some (true, 1))
    ∧ (TakenNow leftTask 0x17 (⟨2, 7, [0x2005]⟩ : Msg)) := by
  unfold TakenNow Takes ClearToAnswer
  refine ⟨?_, ?_, ?_, ?_, ?_, ?_⟩ <;> decide +kernel

theorem witness_AllocatorAndStatus :
    (TakenNow rdy 0x20 (msg [0x00000100]) ∧ bits 0x100 8 5 = 1 ∧ 0 < rdy.part.variant.regionCount)
    ∧ (TakenNow rdy 0x20 (msg [0x00001001]) ∧ bits 0x1001 8 5 = 16 ∧ 1 < rdy.part.variant.regionCount)
    ∧ (TakenNow rdy 0x21 (msg [1]))
    ∧ (TakenNow rdy 0x22 (msg [])) := by
  unfold TakenNow Takes ClearToAnswer
  refine ⟨?_, ?_, ?_, ?_⟩ <;> decide +kernel

/-! ### Witnesses: content and the store -/

/-- An empty directory entry for index 65,535. -/
def metaMsg : Msg := msg ([0, 65535] ++ List.replicate 8 0)

theorem witness_ContentAccepted :
    (TakenNow (updating 0) 0x30 (msg [1]) ∧ (updating 0).slotNamed 1 = false)
    ∧ (TakenNow (updating 0) 0x32 (msg [1]))
    ∧ (TakenNow (updating 0) 0x33 (msg [0x90000]) ∧ (updating 0).residentFrames 9 = none)
    ∧ (TakenNow (updating 0) 0x48 (msg []) ∧ (updating 0).fw.update = 0)
    ∧ (TakenNow (bigPort 1) 0x49 (msg [0, 0x02100000, 4096]) ∧ (bigPort 1).fw.update = 1 ∧ 0x02100000 % 4096 = 0 ∧ (∀ p ∈ pagesOf 0x02100000 4096, (bigPort 1).inUpdateArea p = true ∧ (bigPort 1).pageInUse p = false))
    ∧ (TakenNow (bigPort 1) 0x49 (msg [1, 0x01000000, 16384]) ∧ (∀ p ∈ pagesOf 0x01000000 16384, (bigPort 1).inUpdateArea p = true ∧ (bigPort 1).pageInUse p = false))
    ∧ (TakenNow (updating 1) 0x4A (msg [1, 1048574, 0, 0]) ∧ 1048574 + 2 ≤ 1048576)
    ∧ (TakenNow (updating 1) 0x4A metaMsg ∧ metaMsg.words.length = 10)
    ∧ (TakenNow (updating 1) 0x4B (msg []) ∧ (updating 1).fw.update = 1)
    ∧ (TakenNow (updating 1) 0x4E (msg [1, 5, 16384]) ∧ TakenNow (updating 1) 0x4E (msg [0, 5, 4])) := by
  unfold TakenNow Takes ClearToAnswer
  refine ⟨?_, ?_, ?_, ?_, ?_, ?_, ?_, ?_, ?_, ?_⟩ <;> decide +kernel

theorem witness_ContentRefused :
    (TakenNow { tasked with hop.tasks := [(3, noteTask)] } 0x30 (msg [0]) ∧ ({ tasked with hop.tasks := [(3, noteTask)] } : State).slotNamed 0 = true)
    ∧ (TakenNow (withTable none) 0x33 (msg [0x90000]) ∧ (withTable none).residentFrames 9 ≠ none)
    ∧ (TakenNow (updating 1) 0x48 (msg []) ∧ (updating 1).fw.update ≠ 0)
    ∧ (TakenNow (updating 0) 0x49 (msg [0, 0, 4]) ∧ (updating 0).fw.update ≠ 1)
    ∧ (TakenNow (bigPort 1) 0x49 (msg [0, 0x02001000, 4100]) ∧ 0x2001 ∈ pagesOf 0x02001000 4100 ∧ ((bigPort 1).inUpdateArea 0x2001 = false ∨ (bigPort 1).pageInUse 0x2001 = true))
    ∧ (TakenNow (bigPort 1) 0x49 (msg [0, 0x00FFF000, 4096]) ∧ 0xFFF ∈ pagesOf 0x00FFF000 4096 ∧ (bigPort 1).inUpdateArea 0xFFF = false)
    ∧ (TakenNow (updating 0) 0x4B (msg []) ∧ (updating 0).fw.update ≠ 1)
    ∧ (TakenNow { tasked with hop.tasks := [(3, noteTask)] } 0x31 (msg [0]))
    ∧ (TakenNow (withTable none) 0x34 (msg [0x80000]) ∧ (withTable none).residentFrames 8 = none)
    ∧ (TakenNow { withTable none with fw.banks := [some tableBank] } 0x34 (msg [0x90000]) ∧ ({ withTable none with fw.banks := [some tableBank] } : State).residentFrames 9 ≠ none ∧ (({ withTable none with fw.banks := [some tableBank] } : State).tableUsed 9 = true ∨ ({ withTable none with fw.banks := [some tableBank] } : State).tableNamed 9 = true))
    ∧ (TakenNow (updating 2) 0x4C (msg []) ∧ TakenNow (updating 3) 0x4C (msg [])) := by
  unfold TakenNow Takes ClearToAnswer
  refine ⟨?_, ?_, ?_, ?_, ?_, ?_, ?_, ?_, ?_, ?_, ?_⟩ <;> decide +kernel

theorem witness_ContentDirect :
    (TakenNow (withTable none) 0x31 (msg [1]) ∧ (withTable none).slotNamed 1 = false ∧ (withTable none).fw.banks.getD 1 none ≠ none)
    ∧ (TakenNow (withTable none) 0x34 (msg [0x90000]) ∧ (withTable none).residentFrames 9 ≠ none ∧ (withTable none).tableUsed 9 = false ∧ (withTable none).tableNamed 9 = false)
    ∧ (TakenNow (withTable none) 0x35 (msg []))
    ∧ (TakenNow { banked with regs := [(0x0C0080, 3)] } 0x40 (msg [1, 5, 6, 7, 0x80000000, 65536000, 0xFFFFFFFF]) ∧ bits (({ banked with regs := [(0x0C0080, 3)] } : State).regN bTIMEBASE (tbReg 1 0)) 0 3 = 3 ∧ bit (({ banked with regs := [(0x0C0080, 3)] } : State).regN bCHAIN 0x14) 8 = false ∧ (signed 32 65536000).natAbs ≤ 1000 * 65536)
    ∧ (TakenNow (updating 1) 0x4C (msg []) ∧ TakenNow (updating 0) 0x4C (msg []))
    ∧ (TakenNow { rdy with store.bad := [5, 6, 7] } 0x4D (msg [1])) := by
  unfold TakenNow Takes ClearToAnswer
  refine ⟨?_, ?_, ?_, ?_, ?_, ?_⟩ <;> decide +kernel

/-! ### A CRC-32 that the kernel carries out byte by byte -/
/-- One bit of the CRC on plain numbers. -/
def crcF (c : Nat) : Nat := Nat.xor (Nat.div c 2) (Nat.mul 0xEDB88320 (Nat.mod c 2))
theorem crcF_eq (c : Nat) : crcF c = crc32Bit c := by
  unfold crcF crc32Bit
  rcases Nat.mod_two_eq_zero_or_one c with h | h
  · rw [if_neg (by omega), show Nat.mod c 2 = 0 from h]
    exact Nat.xor_zero _
  · rw [if_pos h, show Nat.mod c 2 = 1 from h]
    rfl
def crcB (c : Nat) (b : Nat) : Nat := crcF (crcF (crcF (crcF (crcF (crcF (crcF (crcF (Nat.xor c b))))))))
theorem crcB_eq (c : Nat) (b : Byte) : crcB c b.toNat = crc32Byte c b := by
  unfold crcB
  simp only [crcF_eq]
  rfl
/-- The CRC register after bytes; the test is always true and has the register computed before the next byte. -/
def crcRun : List Byte → Nat → Nat
  | [], c => c
  | b :: l, c => bif Nat.beq c c then crcRun l (crcB c b.toNat) else 0
theorem crcRun_foldl (l : List Byte) : ∀ c, crcRun l c = l.foldl crc32Byte c := by
  induction l with
  | nil => intro c; rfl
  | cons b l ih => intro c; simp [crcRun, ih, crcB_eq]
/-- The CRC register after erased bytes. -/
def crcTail : Nat → Nat → Nat
  | 0, c => c
  | n + 1, c => bif Nat.beq c c then crcTail n (crcB c 255) else 0
theorem crcTail_run (n : Nat) : ∀ c, crcTail n c = crcRun (List.replicate n 0xFF) c := by
  induction n with
  | zero => intro c; rfl
  | succ n ih => intro c; simp [crcTail, crcRun, List.replicate_succ, ih]
theorem crc32_flash (s : State) (a m n c : Nat) (ha : a + m + n ≤ 2 ^ 32) (h1 : crcRun (s.flashBytes a m) 0xFFFFFFFF = c)
    (h2 : (s.store.flash.all fun e => decide (e.1 < a + m) || decide (a + m + n ≤ e.1)) = true) :
    crc32 (s.flashBytes a (m + n)) = crcTail n c ^^^ 0xFFFFFFFF := by
  rw [crc32, flashBytes_add, List.foldl_append, flashBytes_erased s _ _ ha h2, crcTail_run, crcRun_foldl, ← h1, crcRun_foldl]
/-- A page passes its check whose first `m` bytes bring the CRC register to `c` and whose other bytes are erased. -/
theorem page_sound (s : State) (page m n c : Nat) (hm : m + n = 4096) (hp : page * 4096 + m + n ≤ 2 ^ 32)
    (h1 : crcRun (s.flashBytes (page * 4096) m) 0xFFFFFFFF = c)
    (h2 : (s.store.flash.all fun e => decide (e.1 < page * 4096 + m) || decide (page * 4096 + m + n ≤ e.1)) = true)
    (h3 : u32 (s.flashBytes (checkBase s.store.anchor.copy + 4 * page) 4) 0 = crcTail n c ^^^ 0xFFFFFFFF) : s.pageSound page = true := by
  have h := crc32_flash s _ m n c hp h1 h2
  rw [hm] at h
  rw [State.pageSound, h, h3]
  exact beq_self_eq_true _

theorem flashBytes_drop (s : State) (a m n : Nat) : (s.flashBytes a (m + n)).drop m = s.flashBytes (a + m) n := by
  rw [flashBytes_add, List.drop_append_of_le_length (by simp [State.flashBytes]), List.drop_of_length_le (by simp [State.flashBytes]), List.nil_append]
theorem flashBytes_take (s : State) (a m n : Nat) : (s.flashBytes a (m + n)).take m = s.flashBytes a m := by
  rw [flashBytes_add, List.take_append_of_le_length (by simp [State.flashBytes]), List.take_of_length_le (by simp [State.flashBytes])]

/-! ### Witnesses: objects that load -/

/-- The tail of a directory page of one entry, and an erased page. -/
theorem dir_tail : crcTail 4064 3736805603 ^^^ 0xFFFFFFFF = 310054792 := by decide +kernel
theorem erased_page : crcTail 4096 0xFFFFFFFF ^^^ 0xFFFFFFFF = 4048840458 := by decide +kernel
/-- What a read of the directory's one entry rests on: the active copy is copy 0, no page is bad, port 0 answers, and the entry's page is sound. -/
abbrev OneEntry (s : State) (e : DirEntry) : Prop :=
  (s.store.anchor.copy = 0 ∧ s.store.bad = [] ∧ 0 < s.store.anchor.entries ∧ s.portServes 0 = true ∧ e.type ≠ 0)
  ∧ crcRun (s.flashBytes 0x400000 32) 0xFFFFFFFF = 3736805603
  ∧ (s.store.flash.all fun x => decide (x.1 < 1024 * 4096 + 32) || decide (1024 * 4096 + 32 + 4064 ≤ x.1)) = true
  ∧ u32 (s.flashBytes (checkBase 0 + 4 * 1024) 4) 0 = 310054792
  ∧ parseEntry (s.flashBytes 0x400000 32) = some e
theorem entry_read (s : State) (e : DirEntry) (h : OneEntry s e) : s.loadEntry [] 0 = (.found e, s) := by
  obtain ⟨⟨hc, hb, hn, hp, h5⟩, h1, h2, h3, h4⟩ := h
  have p : s.checkPage [] 1024 2 = (true, s) :=
    checkPage_ok 2 (page_sound s 1024 32 4064 _ rfl (by decide) h1 h2 (by rw [hc, h3]; exact dir_tail.symm)) hb hp
  have a : dirBase s.store.anchor.copy + 32 * 0 = 0x400000 := by rw [hc]; rfl
  refine loadEntry_ok s 0 e hn ?_ (by rw [a]; exact h4) h5
  rw [a]
  exact loadBytes_ok s 2 _ 0x400000 32 fun j hj => by
    have : j = 0 := by omega
    subst this
    exact p
theorem sget_append (m n : Sparse Byte) (k : Nat) (h : ∀ e ∈ m, e.1 ≠ k) : sget flashErased (m ++ n) k = sget flashErased n k := by
  induction m with
  | nil => rfl
  | cons e m ih =>
    obtain ⟨a, v⟩ := e
    have : k ≠ a := fun x => h (a, v) (by simp) x.symm
    simp only [List.cons_append, sget, this, if_false]
    exact ih fun e he => h e (by simp [he])
theorem cells_after (bs : List Byte) : ∀ a, ∀ e ∈ cells a bs, a ≤ e.1 := by
  induction bs with
  | nil => intro a e he; simp [cells] at he
  | cons b bs ih =>
    intro a e he
    rw [cells] at he
    split at he
    · exact Nat.le_of_succ_le (ih (a + 1) e he)
    · rcases List.mem_cons.mp he with h | h
      · simp [h]
      · exact Nat.le_of_succ_le (ih (a + 1) e h)
theorem cells_get (bs : List Byte) : ∀ a i, i < bs.length → sget flashErased (cells a bs) (a + i) = bs.getD i 0 := by
  induction bs with
  | nil => intro a i h; simp at h
  | cons b bs ih =>
    intro a i h
    rw [cells]
    cases i with
    | zero =>
      split
      · rename_i hb
        rw [hb]
        exact sget_default fun e he => by have := cells_after bs (a + 1) e he; omega
      · simp [sget]
    | succ i =>
      have := ih (a + 1) i (by simpa using h)
      have e : a + (i + 1) = a + 1 + i := by omega
      have n : ¬ a + 1 + i = a := by omega
      rw [e]
      split
      · simpa using this
      · rw [sget, if_neg n]
        simpa using this
/-- Where the flash lists the bytes `bs` last, from `a` on, it reads `bs` there. -/
theorem flash_cells (s : State) (m : Sparse Byte) (a : Nat) (bs : List Byte) (h : s.store.flash = m ++ cells a bs) (ha : a + bs.length ≤ 2 ^ 32)
    (hm : (m.all fun e => decide (e.1 < a)) = true) : s.flashBytes a bs.length = bs := by
  apply List.ext_getElem
  · simp [State.flashBytes]
  · intro i h1 h2
    simp only [State.flashBytes, List.getElem_map, List.getElem_range, State.flashByte]
    rw [h, Nat.mod_eq_of_lt (by omega), sget_append _ _ _ fun e he => by
      have := List.all_eq_true.mp hm e he
      simp only [decide_eq_true_eq] at this
      omega, cells_get _ _ _ h2, List.getD_eq_getElem?_getD, List.getElem?_eq_getElem h2]
    rfl
/-- What a read of an object of one page rests on, beside its entry: its bytes lie last in the flash, and its page is sound. -/
abbrev OnePage (s : State) (page n c : Nat) (e : DirEntry) (bs : List Byte) (m : Sparse Byte) : Prop :=
  (e.addr = page * 4096 ∧ bs.length = e.size ∧ (0 < e.size ∧ e.size + n = 4096) ∧ page * 4096 + e.size + n ≤ 2 ^ 32)
  ∧ (s.store.bad = [] ∧ s.portServes (portOf (page * 4096)) = true ∧ s.scratchFails = false)
  ∧ (m.all fun x => decide (x.1 < page * 4096)) = true ∧ crcRun bs 0xFFFFFFFF = c
  ∧ u32 (s.flashBytes (checkBase s.store.anchor.copy + 4 * page) 4) 0 = crcTail n c ^^^ 0xFFFFFFFF
theorem object_read (s : State) (type page n c : Nat) (e : DirEntry) (bs : List Byte) (m : Sparse Byte) (h : s.loadEntry [] 0 = (.found e, s))
    (ht : e.type = type) (hf : s.store.flash = m ++ cells (page * 4096) bs) (q : OnePage s page n c e bs m) :
    s.loadObject [] e = (some bs, s) ∧ s.fetchObject [] 0 type = (.ok bs, s) := by
  obtain ⟨⟨ha, hl, hn, hp⟩, ⟨hb, hs, hq⟩, hm, h1, h3⟩ := q
  have hbs : s.flashBytes (page * 4096) e.size = bs := by rw [← hl]; exact flash_cells s m (page * 4096) bs hf (by rw [hl]; exact Nat.le_trans (Nat.le_add_right _ n) hp) hm
  have hc : ∀ b (bs : List Byte), (∀ x ∈ cells b bs, x.1 < b + bs.length) := by
    intro b bs
    induction bs generalizing b with
    | nil => intro x hx; simp [cells] at hx
    | cons v bs ih =>
      intro x hx
      rw [cells] at hx
      simp only [List.length_cons]
      split at hx
      · have := ih (b + 1) x hx; omega
      · rcases List.mem_cons.mp hx with q | q
        · rw [q]; simp
        · have := ih (b + 1) x q; omega
  have h2 : (s.store.flash.all fun x => decide (x.1 < page * 4096 + e.size) || decide (page * 4096 + e.size + n ≤ x.1)) = true := by
    rw [hf, List.all_append, Bool.and_eq_true, List.all_eq_true, List.all_eq_true]
    refine ⟨fun x hx => ?_, fun x hx => ?_⟩
    · have := List.all_eq_true.mp hm x hx
      simp only [decide_eq_true_eq, Bool.or_eq_true] at *
      omega
    · have := hc _ _ x hx
      simp only [decide_eq_true_eq, Bool.or_eq_true]
      omega
  have l : s.loadBytes [] 2 e.mirror? e.addr e.size = (some (s.flashBytes e.addr e.size), s) := loadBytes_ok s 2 _ _ _ fun j hj => by
    have : j = 0 := by rw [ha] at hj; omega
    subst this
    rw [ha, show page * 4096 / 4096 + 0 = page by omega]
    exact checkPage_ok 2 (page_sound s page _ n c hn.2 hp (by rw [hbs]; exact h1) h2 h3) hb hs
  have r := fetchObject_ok s 0 type e h ht hq l
  rw [ha, hbs] at r l
  refine ⟨?_, r⟩
  rw [State.loadObject, ha]
  exact l

def loading (s : State) (op : Nat) (w : Word) : State := { s with fw.jobs := [jobFor op [w]] }
def bankData (magic : Nat) : List Byte := (bankBytes 4136724311).set 0 (BitVec.ofNat 8 magic)
def bankGood : State := loading (bankStore 0x51 4063283901) 0x30 1
def bankBad : State := loading (bankStore 0 3755011145) 0x30 1
def bankEntry : DirEntry := ⟨0x02000000, 160, 0xFFFFFFFF, 3, false⟩
theorem bankGood_entry : OneEntry bankGood bankEntry := by decide +kernel
theorem bankBad_entry : OneEntry bankBad bankEntry := by decide +kernel
theorem bankGood_read : bankGood.fetchObject [] 0 3 = (.ok (bankData 0x51), bankGood) :=
  (object_read bankGood 3 8192 3936 1882047849 bankEntry (bankData 0x51) _ (entry_read _ _ bankGood_entry) rfl rfl (by decide +kernel)).2
theorem bankBad_read : bankBad.fetchObject [] 0 3 = (.ok (bankData 0), bankBad) :=
  (object_read bankBad 3 8192 3936 1887325731 bankEntry (bankData 0) _ (entry_read _ _ bankBad_entry) rfl rfl (by decide +kernel)).2

/-- A function on states that leaves the state and does not fail answers some value. -/
theorem ok_of {α β : Type} (x : Except α β × State) (s : State) (h1 : (match x.1 with | .ok _ => true | .error _ => false) = true) (h2 : x.2 = s) :
    ∃ v, x = (.ok v, s) := by
  obtain ⟨r, t⟩ := x
  cases r with
  | ok v => exact ⟨v, by rw [show t = s from h2]⟩
  | error f => simp at h1
theorem error_of {α β : Type} (x : Except α β × State) (s : State) (h1 : (match x.1 with | .ok _ => true | .error _ => false) = false) (h2 : x.2 = s) :
    ∃ f, x = (.error f, s) := by
  obtain ⟨r, t⟩ := x
  cases r with
  | ok v => simp at h1
  | error f => exact ⟨f, by rw [show t = s from h2]⟩

theorem witness_ContentLoaded_bank : ∃ b bank, Outstanding bankGood 0x30 3 (jobFor 0x30 [1]) ∧ bankGood.fetchObject [] 0 3 = (.ok b, bankGood)
    ∧ 12 ≤ b.length ∧ bankGood.checkBank [] 1 0 b = (.ok bank, bankGood) := by
  obtain ⟨v, hv⟩ := ok_of (bankGood.checkBank [] 1 0 (bankData 0x51)) bankGood (by decide +kernel) (by decide +kernel)
  exact ⟨_, v, by unfold Outstanding ClearToPost; decide +kernel, bankGood_read, by decide +kernel, hv⟩
theorem witness_ContentLoaded_badBank : ∃ b f, Outstanding bankBad 0x30 3 (jobFor 0x30 [1]) ∧ bankBad.fetchObject [] 0 3 = (.ok b, bankBad)
    ∧ 12 ≤ b.length ∧ bankBad.checkBank [] 1 0 b = (.error f, bankBad) := by
  obtain ⟨f, hf⟩ := error_of (bankBad.checkBank [] 1 0 (bankData 0)) bankBad (by decide +kernel) (by decide +kernel)
  exact ⟨_, f, by unfold Outstanding ClearToPost; decide +kernel, bankBad_read, by decide +kernel, hf⟩

def vectors : State := loading svtStore 0x32 0
theorem erased_sound (s : State) (page : Nat) (hp : page * 4096 + 4096 ≤ 2 ^ 32)
    (h2 : (s.store.flash.all fun e => decide (e.1 < page * 4096 + 0) || decide (page * 4096 + 0 + 4096 ≤ e.1)) = true)
    (h3 : u32 (s.flashBytes (checkBase s.store.anchor.copy + 4 * page) 4) 0 = 4048840458) : s.pageSound page = true :=
  page_sound s page 0 4096 _ rfl (by omega) rfl h2 (by rw [h3]; exact erased_page.symm)
theorem vectors_entry : OneEntry vectors ⟨0x02001000, 8192, 0xFFFFFFFF, 4, false⟩ := by decide +kernel
theorem witness_ContentLoaded_vectors : ∃ b, Outstanding vectors 0x32 1 (jobFor 0x32 [0]) ∧ vectors.fetchObject [] 0 4 = (.ok b, vectors) ∧ b.length = 8192 := by
  refine ⟨vectors.flashBytes 0x02001000 8192, by unfold Outstanding ClearToPost; decide +kernel, ?_, by rw [State.flashBytes, List.length_map, List.length_range]⟩
  refine fetchObject_ok vectors 0 4 ⟨0x02001000, 8192, 0xFFFFFFFF, 4, false⟩ (entry_read _ _ vectors_entry) rfl (by decide +kernel) (loadBytes_ok vectors 2 _ 0x02001000 8192 fun j hj => ?_)
  have : j = 0 ∨ j = 1 := by omega
  rcases this with rfl | rfl
  · exact checkPage_ok 2 (erased_sound _ 8193 (by decide) (by decide +kernel) (by decide +kernel)) rfl (by decide +kernel)
  · exact checkPage_ok 2 (erased_sound _ 8194 (by decide) (by decide +kernel) (by decide +kernel)) rfl (by decide +kernel)

/-! A wavetable of one erased frame, whose frame CRC is right or wrong. -/
def waveGood : State := loading (waveStore 3776401203 3690791011) 0x33 0
def waveBad : State := loading (waveStore 0 1080066080) 0x33 0
theorem frame_tail : crcTail 8188 0xFFFFFFFF ^^^ 0xFFFFFFFF = 3776401203 := by decide +kernel
theorem head_tail : crcTail 4032 3736805603 ^^^ 0xFFFFFFFF = 4182699341 := by decide +kernel
def waveEntry : DirEntry := ⟨0x02003000, 8256, 0xFFFFFFFF, 2, false⟩
/-- What a read of the three pages of the wavetable rests on, beside its entry. -/
abbrev ThreePages (s : State) (c n : Nat) : Prop :=
  (s.store.bad = [] ∧ s.portServes 0 = true ∧ s.scratchFails = false)
  ∧ (crcRun (s.flashBytes (8195 * 4096) 64) 0xFFFFFFFF = 3736805603 ∧ crcRun (s.flashBytes (8197 * 4096) 64) 0xFFFFFFFF = c)
  ∧ (s.store.flash.all fun e => decide (e.1 < 8195 * 4096 + 64) || decide (8195 * 4096 + 64 + 4032 ≤ e.1)) = true
  ∧ (s.store.flash.all fun e => decide (e.1 < 8196 * 4096 + 0) || decide (8196 * 4096 + 0 + 4096 ≤ e.1)) = true
  ∧ (s.store.flash.all fun e => decide (e.1 < 8197 * 4096 + 64) || decide (8197 * 4096 + 64 + 4032 ≤ e.1)) = true
  ∧ u32 (s.flashBytes (checkBase s.store.anchor.copy + 4 * 8195) 4) 0 = 4182699341
  ∧ u32 (s.flashBytes (checkBase s.store.anchor.copy + 4 * 8196) 4) 0 = 4048840458
  ∧ u32 (s.flashBytes (checkBase s.store.anchor.copy + 4 * 8197) 4) 0 = n
theorem wave_read (s : State) (c n : Nat) (hc : crcTail 4032 c ^^^ 0xFFFFFFFF = n) (h : s.loadEntry [] 0 = (.found waveEntry, s)) (q : ThreePages s c n) :
    s.fetchObject [] 0 2 = (.ok (s.flashBytes 0x02003000 8256), s) := by
  obtain ⟨⟨hb, hp, hq⟩, ⟨h1, h2⟩, a1, a2, a3, k1, k2, k3⟩ := q
  refine fetchObject_ok s 0 2 waveEntry h rfl hq (loadBytes_ok s 2 _ 0x02003000 8256 fun j hj => ?_)
  have : j = 0 ∨ j = 1 ∨ j = 2 := by omega
  rcases this with rfl | rfl | rfl
  · exact checkPage_ok 2 (page_sound s 8195 64 4032 _ rfl (by decide) h1 a1 (by rw [k1]; exact head_tail.symm)) hb hp
  · exact checkPage_ok 2 (erased_sound s 8196 (by decide) a2 k2) hb hp
  · exact checkPage_ok 2 (page_sound s 8197 64 4032 _ rfl (by decide) h2 a3 (by rw [k3]; exact hc.symm)) hb hp
theorem waveGood_entry : OneEntry waveGood waveEntry := by decide +kernel
theorem waveBad_entry : OneEntry waveBad waveEntry := by decide +kernel
theorem wave_tail : crcTail 4032 1710461804 ^^^ 0xFFFFFFFF = 3690791011 := by decide +kernel
theorem waveGood_read : waveGood.fetchObject [] 0 2 = (.ok (waveGood.flashBytes 0x02003000 8256), waveGood) :=
  wave_read _ 1710461804 _ wave_tail (entry_read _ _ waveGood_entry) (by decide +kernel)
theorem waveBad_tail : crcTail 4032 774199462 ^^^ 0xFFFFFFFF = 1080066080 := by decide +kernel
theorem waveBad_read : waveBad.fetchObject [] 0 2 = (.ok (waveBad.flashBytes 0x02003000 8256), waveBad) :=
  wave_read _ 774199462 _ waveBad_tail (entry_read _ _ waveBad_entry) (by decide +kernel)

theorem frame_crc (s : State) (h : (s.store.flash.all fun e => decide (e.1 < 0x02003040 + 0) || decide (0x02003040 + 0 + 8188 ≤ e.1)) = true) :
    frameCrcsOk (s.flashBytes 0x02003000 8256) 1 = (3776401203 == u32 (s.flashBytes 0x0200503C 4) 0) := by
  have a : (s.flashBytes 0x02003000 8256).drop (0x40 + 8192 * 0) = s.flashBytes 0x02003040 8192 := flashBytes_drop s 0x02003000 64 8192
  have b : (s.flashBytes 0x02003040 8192).take 8192 = s.flashBytes 0x02003040 8192 := flashBytes_take s 0x02003040 8192 0
  have c : (s.flashBytes 0x02003040 8192).take 8188 = s.flashBytes 0x02003040 8188 := flashBytes_take s 0x02003040 8188 4
  have d : crc32 (s.flashBytes 0x02003040 8188) = 3776401203 := (crc32_flash s 0x02003040 0 8188 _ (by decide) rfl h).trans frame_tail
  have e : u32 (s.flashBytes 0x02003040 8192) 8188 = u32 (s.flashBytes 0x0200503C 4) 0 := by
    have g : s.flashBytes 0x02003040 8192 = s.flashBytes 0x02003040 8188 ++ s.flashBytes 0x0200503C 4 := flashBytes_add s 0x02003040 8188 4
    have k : ∀ i, i < 4 → u8 (s.flashBytes 0x02003040 8192) (8188 + i) = u8 (s.flashBytes 0x0200503C 4) i := by
      intro i _
      have l : (s.flashBytes 0x02003040 8188).length = 8188 := by rw [State.flashBytes, List.length_map, List.length_range]
      rw [g]
      simp only [u8, List.getD_eq_getElem?_getD]
      rw [List.getElem?_append_right (by rw [l]; exact Nat.le_add_right _ _), l, Nat.add_sub_cancel_left]
    have z : ∀ l : List Byte, ∀ n, u32 l n = u8 l n + 256 * u8 l (n + 1) + 65536 * (u8 l (n + 2) + 256 * u8 l (n + 3)) := fun _ _ => rfl
    rw [z, z, k 1 (by decide), k 2 (by decide), k 3 (by decide), ← k 0 (by decide)]
  simp only [frameCrcsOk, List.range_one, List.all_cons, List.all_nil, Bool.and_true, a, b, c, d, e]
theorem witness_ContentLoaded_table : ∃ b, Outstanding waveGood 0x33 1 (jobFor 0x33 [0]) ∧ waveGood.fetchObject [] 0 2 = (.ok b, waveGood)
    ∧ wavetableFrames b = some 1 ∧ waveGood.residentTables < 128 ∧ frameCrcsOk b 1 = true ∧ waveGood.freeRun 1 = some 0 :=
  ⟨_, by unfold Outstanding ClearToPost; decide +kernel, waveGood_read, by decide +kernel, by decide +kernel,
    by rw [frame_crc _ (by decide +kernel)]; decide +kernel, by decide +kernel⟩
theorem witness_ContentLoaded_badTable : ∃ b, Outstanding waveBad 0x33 1 (jobFor 0x33 [0]) ∧ waveBad.fetchObject [] 0 2 = (.ok b, waveBad)
    ∧ wavetableFrames b = some 1 ∧ frameCrcsOk b 1 = false :=
  ⟨_, by unfold Outstanding ClearToPost; decide +kernel, waveBad_read, by decide +kernel, by rw [frame_crc _ (by decide +kernel)]; decide +kernel⟩

/-! A Copper program, whose body's CRC is right or wrong, and a line-check profile. -/
def copperGood : State := loading (copperStore 1541455989 2126199724) 0x50 0
def copperWrong : State := loading (copperStore 0 2860509295) 0x50 0
def copperEntry : DirEntry := ⟨0x02006000, 232, 0xFFFFFFFF, 5, false⟩
def copperData (c : Nat) : List Byte := copperHead 226787121 ++ copperBody ++ leBytes 4 c
theorem copperGood_entry : OneEntry copperGood copperEntry := by decide +kernel
theorem copperWrong_entry : OneEntry copperWrong copperEntry := by decide +kernel
theorem witness_CopperCommands_load : ∃ b, copperGood.cop.swapLen = none ∧ Outstanding copperGood 0x50 1 (jobFor 0x50 [0])
    ∧ copperGood.fetchObject [] 0 5 = (.ok b, copperGood) ∧ copperBad b = false :=
  ⟨copperData 1541455989, rfl, by unfold Outstanding ClearToPost; decide +kernel,
    (object_read copperGood 5 8198 3864 2252459214 copperEntry _ _ (entry_read _ _ copperGood_entry) rfl rfl (by decide +kernel)).2, by decide +kernel⟩
theorem witness_CopperCommands_badLoad : ∃ b, copperWrong.cop.swapLen = none ∧ Outstanding copperWrong 0x50 1 (jobFor 0x50 [0])
    ∧ copperWrong.fetchObject [] 0 5 = (.ok b, copperWrong) ∧ copperBad b = true :=
  ⟨copperData 0, rfl, by unfold Outstanding ClearToPost; decide +kernel,
    (object_read copperWrong 5 8198 3864 3922227632 copperEntry _ _ (entry_read _ _ copperWrong_entry) rfl rfl (by decide +kernel)).2, by decide +kernel⟩

def profiled : State := profileStore 2856506745
def diagMsg : Msg := msg [0x00030000, 0]
def diagState : State := profiled.deferWork (cmdOf 0x58 diagMsg)
def profileEntry : DirEntry := ⟨0x02007000, 832, 0xFFFFFFFF, 6, false⟩
/-- Which banks the work locks is open (log 13); all but the rings and the memories' own state is as before. -/
theorem deferWork_off (s : State) (c : Cmd) (h : s.plainReplies) :
    (s.deferWork c).store = s.store ∧ (∀ p, (s.deferWork c).portServes p = s.portServes p) ∧ (s.deferWork c).mem.badScratch = s.mem.badScratch := by
  rw [State.deferWork, applyLocks_eq]
  have e := answer_off s c stAccepted 0 h
  exact ⟨(congrArg (fun x : State => x.store) e :), fun p => (congrArg (fun x : State => x.portServes p) e :), (congrArg (fun x : State => x.mem.badScratch) e :)⟩
theorem diag_plain : profiled.plainReplies := by unfold State.plainReplies; decide +kernel
theorem bytes_same {s t : State} (h : t.store = s.store) (a n : Nat) : t.flashBytes a n = s.flashBytes a n := by
  unfold State.flashBytes State.flashByte
  rw [h]
theorem oneEntry_same {s t : State} {e : DirEntry} (h : t.store = s.store) (hp : ∀ p, t.portServes p = s.portServes p) (q : OneEntry s e) : OneEntry t e := by
  simpa only [OneEntry, h, hp, bytes_same h] using q
theorem onePage_same {s t : State} {page n c : Nat} {e : DirEntry} {bs : List Byte} {m : Sparse Byte} (h : t.store = s.store)
    (hp : ∀ p, t.portServes p = s.portServes p) (hm : t.mem.badScratch = s.mem.badScratch) (q : OnePage s page n c e bs m) : OnePage t page n c e bs m := by
  simpa only [OnePage, h, hp, bytes_same h, State.scratchFails, hm] using q
theorem diag_off : diagState.store = profiled.store ∧ (∀ p, diagState.portServes p = profiled.portServes p)
    ∧ diagState.mem.badScratch = profiled.mem.badScratch := deferWork_off profiled (cmdOf 0x58 diagMsg) diag_plain
theorem profiled_entry : OneEntry profiled profileEntry := by decide +kernel
/-- The bytes of the store before the profile. -/
def profileBefore : Sparse Byte := profiled.store.flash.take (profiled.store.flash.length - (cells (8199 * 4096) (profileBytes 3037050587)).length)
theorem profiled_page : OnePage profiled 8199 3264 476954434 profileEntry (profileBytes 3037050587) profileBefore := by decide +kernel
theorem profile_crc : crc32 ((profileBytes 3037050587).take 0x3C ++ ((profileBytes 3037050587).drop 0x40).take 0x300) = 3037050587 := by
  rw [crc32, ← crcRun_foldl]
  decide +kernel
theorem faults_none (p : List Byte) (n : Nat) (h : crc32 (p.take 0x3C ++ (p.drop 0x40).take 0x300) = n)
    (q : (n = u32 p 0x3C ∧ u32 p 0 = 0x44504B51 ∧ u16 p 4 = 0x0100) ∧ (1 ≤ u16 p 6 ∧ u16 p 6 ≤ 2047) ∧ u16 p 8 ≤ 4095
      ∧ (u16 p 0xA % 128 = 0 ∧ 1536 ≤ u16 p 0xA ∧ u16 p 0xA ≤ 65280) ∧ (u16 p 0xC % 192 = 0 ∧ 1536 ≤ u16 p 0xC ∧ u16 p 0xC ≤ 65280)) :
    profileFaults p = [] := by
  obtain ⟨⟨h1, h2, h3⟩, h4, h5, h6, h7⟩ := q
  simp [profileFaults, h, ← h1, h2, h3, h4, h5, h6, h7, Nat.not_lt.mpr h4.1]
theorem fault_none (p : List Byte) (mask : Nat) (h : profileFaults p = []) (g : ((List.range 16).flatMap (lineFaults p mask)).head? = none) :
    profileFault p mask = none := by
  unfold profileFault
  rw [h]
  exact g
theorem profile_good : profileFault (profileBytes 3037050587) 3 = none :=
  fault_none _ 3 (faults_none _ _ profile_crc (by decide +kernel)) (by decide +kernel)
theorem witness_DiagAndCapture_start : TakenNow profiled 0x58 diagMsg ∧ profiled.kiln.raised = [] ∧ profiled.jobOf 0x58 = none
    ∧ diagState.loadEntry [] (bits (payload diagMsg 1) 0 16) = (.found profileEntry, diagState)
    ∧ ∃ p, diagState.loadObject [] profileEntry = (some p, diagState) ∧ profileFault p (bits (payload diagMsg 0) 16 16) = none := by
  have b : bits (payload diagMsg 1) 0 16 = 0 := by decide +kernel
  have h : diagState.loadEntry [] 0 = (.found profileEntry, diagState) := entry_read _ _ (oneEntry_same diag_off.1 diag_off.2.1 profiled_entry)
  have f : diagState.store.flash = profileBefore ++ cells (8199 * 4096) (profileBytes 3037050587) := (congrArg (fun x : Store => x.flash) diag_off.1).trans (by decide +kernel)
  rw [b]
  exact ⟨by unfold TakenNow Takes ClearToAnswer; decide +kernel, rfl, by decide +kernel, h, profileBytes 3037050587,
    (object_read diagState 6 8199 3264 476954434 profileEntry _ _ h rfl f (onePage_same diag_off.1 diag_off.2.1 diag_off.2.2 profiled_page)).1, profile_good⟩

/-! ### Witnesses: updates of the store, reads, services -/

def doing (u op : Nat) (ws : List Word) : State := { updating u with fw.jobs := [jobFor op ws] }
/-- A free entry at index 0 of the inactive directory copy; index 1 is erased. -/
def changedEntries (l : List Nat) : State := { rdy with
  store.flash := cells 0x00600000 (dirEntry 0 0 0xFFFFFFFF 0 0 1884951451)
  store.anchor := ⟨0, 0, 1, 1, false⟩
  fw.changed := l
  fw.update := 2
  fw.jobs := [jobFor 0x4B []] }
def hostRead : State := { changedEntries [] with fw.jobs := [jobFor 0x4E [0, 5, 16384]], store.flash := [(0x5, 0x12)] }

theorem witness_GristUpdate :
    (swf flashErased (doing 0 0x48 []).store.flash = true ∧ (doing 0 0x48 []).store.anchor.copy < 2)
    ∧ (Outstanding (doing 0 0x48 []) 0x48 0 (jobFor 0x48 []) ∧ (doing 0 0x48 []).metaSuspended = false)
    ∧ (Outstanding (doing 1 0x49 [1, 0x02100000, 4100]) 0x49 0 (jobFor 0x49 [1, 0x02100000, 4100]) ∧ (doing 1 0x49 [1, 0x02100000, 4100]).eraseSuspended (portOf 0x02100000) = false ∧ 0x02100000 % 4096 = 0 ∧ 4100 % 4 = 0)
    ∧ (∀ p ∈ pagesOf 0x02100000 4100, (doing 1 0x49 [1, 0x02100000, 4100]).pageInUse p = false)
    ∧ (Outstanding (doing 1 0x4A [1, 1048574, 7, 8]) 0x4A 0 (jobFor 0x4A [1, 1048574, 7, 8]) ∧ bit ((jobFor 0x4A [1, 1048574, 7, 8]).w 0) 0 = true ∧ (doing 1 0x4A [1, 1048574, 7, 8]).metaSuspended = false)
    ∧ (Outstanding (doing 1 0x4A [0, 65535, 1, 2, 3, 4, 5, 6, 7, 8]) 0x4A 0 (jobFor 0x4A [0, 65535, 1, 2, 3, 4, 5, 6, 7, 8]) ∧ bit ((jobFor 0x4A [0, 65535]).w 0) 0 = false) := by
  unfold Outstanding ClearToPost
  refine ⟨?_, ?_, ?_, ?_, ?_, ?_⟩ <;> decide +kernel

theorem witness_GristCommitAndRead :
    (Outstanding (changedEntries [0]) 0x4B 2 (jobFor 0x4B []) ∧ (∀ i ∈ (changedEntries [0]).fw.changed, (changedEntries [0]).entryGood [] i = true))
    ∧ ((changedEntries [0]).metaSuspended = false ∧ (changedEntries [0]).jobOf 0x49 = none ∧ (changedEntries [0]).jobOf 0x4A = none)
    ∧ (Outstanding (changedEntries [0, 1]) 0x4B 2 (jobFor 0x4B []) ∧ (changedEntries [0, 1]).fw.changed = [0] ++ 1 :: [] ∧ (changedEntries [0, 1]).entryGood [] 0 = true ∧ (changedEntries [0, 1]).entryGood [] 1 = false)
    ∧ ((changedEntries [0, 1]).metaSuspended = false ∧ (changedEntries [0, 1]).jobOf 0x49 = none ∧ (changedEntries [0, 1]).jobOf 0x4A = none)
    ∧ (Outstanding hostRead 0x4E 0 (jobFor 0x4E [0, 5, 16384]) ∧ hostRead.scratchFails = false) := by
  unfold Outstanding ClearToPost
  refine ⟨?_, ?_, ?_, ?_, ?_⟩ <;> decide +kernel

theorem hostPages_plain (s : State) : ∀ l, (∀ p ∈ l, s.pageMirror p = none ∧ s.portServes (portOf (p * 4096)) = true) → ∃ b, s.hostPages [] l = (some b, s)
  | [], _ => ⟨[], rfl⟩
  | p :: l, h => by
    obtain ⟨b, hb⟩ := hostPages_plain s l fun q hq => h q (by simp [hq])
    have hp := h p (by simp)
    unfold State.hostPages
    rw [hp.1]
    simp only [hp.2, if_true, hb]
    exact ⟨_, rfl⟩
theorem witness_GristCommitAndRead_read : ∃ b, hostRead.hostPages [] (pagesOf 5 16384) = (some b, hostRead) :=
  hostPages_plain _ _ (by decide +kernel)

def lateRead : State := { streaming false [1] with time := 9000 }
def untaken : State := { streaming false [1] with store.serving := [none, none] }
def readMsg : BitVec 64 := mkMsg 2 3 kGristPort 1 0 0

theorem witness_GristReads :
    ((streaming false [1]).kiln.raised = [] ∧ (streaming false [1]).readOf 5 = some (oneRead [1] [0]) ∧ (streaming false [1]).streamAt 1 = some (oneStream false) ∧ (streaming false [1]).time ≤ (oneRead [1] [0]).deadline ∧ (streaming false [1]).kiln.halted = false)
    ∧ (some 5 ∈ (streaming false [1]).store.serving ∧ (streaming false [1]).slotFree (oneStream false) 1 = true ∧ (streaming false [1]).portServes (portOf (oneStream false).addr) = true ∧ portOf (oneStream false).addr ∈ (oneRead [1] [0]).ports)
    ∧ ((oneStream false).safety = false ∧ (oneStream false).mirror = noMirror ∧ (streaming false [1]).frameClean (oneStream false) (oneStream false).addr 1 = true)
    ∧ ((streaming true [0, 1]).readOf 5 = some (oneRead [0, 1] [0, 1]) ∧ (streaming true [0, 1]).streamAt 1 = some (oneStream true) ∧ some 5 ∈ (streaming true [0, 1]).store.serving ∧ (oneStream true).mirror ≠ noMirror ∧ (streaming true [0, 1]).portServes (portOf (oneStream true).mirror) = true)
    ∧ (∀ f ∈ [0, 1], (streaming true [0, 1]).slotFree (oneStream true) f = true ∧ (streaming true [0, 1]).frameClean (oneStream true) (oneStream true).addr f = true ∧ (streaming true [0, 1]).frameClean (oneStream true) (oneStream true).mirror f = true ∧ (streaming true [0, 1]).frameBytes (oneStream true) (oneStream true).addr f = (streaming true [0, 1]).frameBytes (oneStream true) (oneStream true).mirror f)
    ∧ (lateRead.readOf 5 = some (oneRead [1] [0]) ∧ (oneRead [1] [0]).tier ≠ 3 ∧ (oneRead [1] [0]).deadline < lateRead.time)
    ∧ (untaken.readOf 5 = some (oneRead [1] [0]) ∧ untaken.time ≤ (oneRead [1] [0]).deadline ∧ some 5 ∉ untaken.store.serving)
    ∧ (rdy.readOf 5 = none)
    ∧ ((streaming false [1]).time < (oneRead [1] [0]).deadline)
    ∧ ((streaming false [1]).portServes 0 = true ∧ Heard (streaming false [1]) readMsg ∧ FreeSet (streaming false [1]) readMsg)
    ∧ (State.reset.portServes 0 = false) := by
  unfold Heard FreeSet
  refine ⟨?_, ?_, ?_, ?_, ?_, ?_, ?_, ?_, ?_, ?_, ?_⟩ <;> decide +kernel

def loadedCopper : State := { rdy with cop.loaded := true }
def measured : State := { rdy with fw.diagLast := some ⟨0, 3, [5, 6]⟩ }
def checking : State := { lineCheck 3 0 0 with fw.jobs := [jobFor 0x58 [0, 0]] }
def bothHalves : State := { rdy with host.own := [true, true] }
def capturing : State := { bothHalves with fw.capture := some (Capture.mk 5 none 3 0 0 3 false) }

def swapDue : State := { rdy with cop.swapLen := some 5 }
theorem witness_CopperCommands :
    (TakenNow rdy 0x50 (msg [0]))
    ∧ (TakenNow loadedCopper 0x51 (msg [4096]) ∧ loadedCopper.cop.loaded = true)
    ∧ (TakenNow rdy 0x51 (msg [0]) ∧ rdy.cop.loaded = false)
    ∧ (TakenNow rdy 0x52 (msg [0xFFFE0001, 5, 6]) ∧ bits 0xFFFE0001 16 16 + 2 ≤ 65536)
    ∧ (swapDue.cop.swapLen ≠ none ∧ swapDue.kiln.raised = []) := by
  unfold TakenNow Takes ClearToAnswer
  refine ⟨?_, ?_, ?_, ?_, ?_⟩ <;> decide +kernel

theorem witness_DiagAndCapture :
    (TakenNow rdy 0x59 (msg []) ∧ rdy.fw.diagLast = none)
    ∧ (TakenNow measured 0x59 (msg []) ∧ measured.fw.diagLast = some ⟨0, 3, [5, 6]⟩)
    ∧ (TakenNow rdy 0x5A (msg []) ∧ rdy.fw.diag = none)
    ∧ (TakenNow checking 0x5A (msg []) ∧ checking.fw.diag = some (lineJob 3 0) ∧ Outstanding checking 0x58 32 (jobFor 0x58 [0, 0]))
    ∧ (TakenNow bothHalves 0x5C (msg [5]) ∧ nthB bothHalves.host.own 0 = true ∧ nthB bothHalves.host.own 1 = true ∧ TakenNow bothHalves 0x5C (msg [0xFFFF0005]))
    ∧ (TakenNow capturing 0x5D (msg []) ∧ capturing.fw.capture = some (Capture.mk 5 none 3 0 0 3 false))
    ∧ (TakenNow rdy 0x5D (msg []) ∧ rdy.fw.capture = none) := by
  unfold TakenNow Takes ClearToAnswer Outstanding ClearToPost
  refine ⟨?_, ?_, ?_, ?_, ?_, ?_, ?_⟩ <;> decide +kernel

theorem witness_DiagSteps_more : ∃ c, (lineJob 3 0).channel < c ∧ c < 16 ∧ bit (lineJob 3 0).mask c = true := ⟨1, by decide, by decide, by decide⟩
theorem witness_DiagSteps_last : ¬ ∃ c, (lineJob 1 0).channel < c ∧ c < 16 ∧ bit (lineJob 1 0).mask c = true := by
  rintro ⟨c, h1, h2, h3⟩
  have : ∀ c < 16, 0 < c → bit (lineJob 1 0).mask c = false := by decide
  rw [this c h2 h1] at h3
  exact absurd h3 (by decide)

theorem witness_DiagSteps :
    ((lineCheck 3 0 1).isReady = true ∧ (lineCheck 3 0 1).fw.diag = some (lineJob 3 0) ∧ (lineJob 3 0).going = true ∧ (lineCheck 3 0 1).stepEnd (lineJob 3 0) < 4096 * ((lineCheck 3 0 1).lastBlock + 1) ∧ (lineCheck 3 0 1).diagDone (lineJob 3 0) = true ∧ (lineJob 3 0).ovl = false)
    ∧ ((lineCheck 3 0 0).isReady = true ∧ (lineCheck 3 0 0).fw.diag = some (lineJob 3 0) ∧ (lineCheck 3 0 0).stepEnd (lineJob 3 0) + 49152 < 4096 * ((lineCheck 3 0 0).lastBlock + 1) ∧ (lineCheck 3 0 0).diagDone (lineJob 3 0) = false)
    ∧ ((lineCheck 3 0 1).stepEnd (lineJob 3 0) + 49152 < 4096 * ((lineCheck 3 0 1).lastBlock + 1))
    ∧ ((lineCheck 1 0 0).stepEnd (lineJob 1 0) + 49152 < 4096 * ((lineCheck 1 0 0).lastBlock + 1) ∧ (lineCheck 1 0 0).diagDone (lineJob 1 0) = false ∧ (lineJob 1 0).channel < 16 ∧ (∀ r ∈ (lineJob 1 0).results, r.1 ≠ (lineJob 1 0).channel)) := by
  refine ⟨?_, ?_, ?_, ?_⟩ <;> decide +kernel

theorem witness_DiagSteps_impedance : ∃ mag a, impedance (lineJob 3 0) 0 ((lineCheck 3 0 1).sumsOf (lineJob 3 0)) = some (mag, some a) := by
  have h : (match impedance (lineJob 3 0) 0 ((lineCheck 3 0 1).sumsOf (lineJob 3 0)) with
    | some (_, some _) => true
    | _ => false) = true := by decide +kernel
  revert h
  generalize impedance (lineJob 3 0) 0 ((lineCheck 3 0 1).sumsOf (lineJob 3 0)) = x
  rcases x with _ | ⟨mag, _ | a⟩ <;> intro h
  · simp at h
  · simp at h
  · exact ⟨mag, a, rfl⟩

theorem witness_LogAndCounters :
    (TakenNow logged 0x60 (msg [2, 3]) ∧ ((logged.kiln.log.filter fun r => decide (3 ≤ r.seq)).take 2) = [⟨5, 6, 7, 8, 9, 7, 3, false⟩, ⟨5, 6, 7, 8, 9, 7, 4, false⟩])
    ∧ (TakenNow logged 0x60 (msg [1, 9]) ∧ ((logged.kiln.log.filter fun r => decide (9 ≤ r.seq)).take 1) = [])
    ∧ (TakenNow rdy 0x61 (msg [8]) ∧ rdy.resetRefused 8 = none)
    ∧ (TakenNow rdy 0x61 (msg [10]) ∧ rdy.resetRefused 10 = none)
    ∧ (TakenNow rdy 0x61 (msg [11]) ∧ rdy.resetRefused 11 = some 0x1A)
    ∧ (TakenNow rdy 0x68 (msg []) ∧ rdy.pwr.life.length = 16)
    ∧ (TakenNow rdy 0x69 (msg (List.replicate 16 7)) ∧ rdy.pwr.lifeSet = false)
    ∧ (TakenNow { rdy with pwr.lifeSet := true } 0x69 (msg (List.replicate 16 7)) ∧ ({ rdy with pwr.lifeSet := true } : State).pwr.lifeSet = true) := by
  unfold TakenNow Takes ClearToAnswer
  refine ⟨?_, ?_, ?_, ?_, ?_, ?_, ?_, ?_⟩ <;> decide +kernel

/-! ### Witnesses: firmware -/

theorem witness_FirmwareCommands :
    (TakenNow (fwBase 1) 0x70 (msg [1, 454656, 16384]) ∧ (fwBase 1).host.hoStep = 1 ∧ 454656 % 4096 = 0 ∧ 454656 < 458752)
    ∧ (TakenNow (fwBase 0) 0x70 (msg [0, 0, 4]) ∧ (fwBase 0).host.hoStep ≠ 1 ∧ ClearToPost (fwBase 0) 1)
    ∧ (TakenNow (fwBase 1) 0x71 (msg [4096]) ∧ ClearToPost (fwBase 1) 1)
    ∧ (TakenNow (fwBase 3) 0x72 (msg []) ∧ (fwBase 3).host.hoStep = 3 ∧ (fwBase 3).fw.jobs = [] ∧ (fwBase 3).fw.update = 0 ∧ (fwBase 3).store.nextAnchor = none)
    ∧ (TakenNow (fwBase 2) 0x72 (msg []) ∧ (fwBase 2).host.hoStep ≠ 3)
    ∧ (TakenNow (fwBase 3) 0x73 (msg []) ∧ ClearToPost (fwBase 3) 1)
    ∧ (TakenNow (fwBase 2) 0x73 (msg [])) := by
  unfold TakenNow Takes ClearToAnswer ClearToPost
  refine ⟨?_, ?_, ?_, ?_, ?_, ?_, ?_⟩ <;> decide +kernel

theorem witness_FirmwareLoaded :
    (Outstanding (fwJob 0x70 [0, 454656, 16384]) 0x70 0 (jobFor 0x70 [0, 454656, 16384]) ∧ (fwJob 0x70 [0, 454656, 16384]).host.activeSlot < 2)
    ∧ (454656 % 4096 = 0 ∧ 454656 < 458752 ∧ (fwJob 0x70 [0, 454656, 16384]).metaSuspended = false ∧ (fwJob 0x70 [0, 454656, 16384]).scratchFails = false)
    ∧ (Outstanding (fwJob 0x70 [0, 454656, 16384]) 0x70 1 (jobFor 0x70 [0, 454656, 16384]))
    ∧ (Outstanding (fwJob 0x71 [458752]) 0x71 2 (jobFor 0x71 [458752]) ∧ (jobFor 0x71 [458752]).w 0 ≠ 0 ∧ (jobFor 0x71 [458752]).w 0 ≤ 458752)
    ∧ (Outstanding (fwJob 0x71 [458753]) 0x71 2 (jobFor 0x71 [458753]) ∧ 458752 < (jobFor 0x71 [458753]).w 0) := by
  unfold Outstanding ClearToPost
  refine ⟨?_, ?_, ?_, ?_, ?_⟩ <;> decide +kernel

theorem witness_HandoverEnds :
    (anchorDue.metaSuspended = false)
    ∧ ((pausedFw false).isReady = true ∧ (pausedFw false).fw.paused = true ∧ (pausedFw false).fw.restart = false)
    ∧ ((pausedFw true).isReady = true ∧ (pausedFw true).fw.paused = true ∧ (pausedFw true).fw.restart = true)
    ∧ (pausedLong.isReady = true ∧ pausedLong.fw.paused = true ∧ pausedLong.fw.pausedAt + 49152 ≤ pausedLong.time)
    ∧ (anchorDue.isReady = true ∧ anchorDue.fw.anchorDue = true ∧ anchorDue.store.nextAnchor = none) := by
  refine ⟨?_, ?_, ?_, ?_, ?_⟩ <;> decide +kernel

/-! ### Witnesses: voices, mixers, boundaries -/

def retryMsg : BitVec 64 := mkMsg 5 (2 * (playing none).physOf (logicalOf 600) + vVpe 600) kVpeCheck 0 9 (1 * 2 ^ 30 + 2 * 2 ^ 27 + 600 * 65536 + (voiceOf none none).next % 65536)
def oneFail : Attempt := ⟨1, 2, 9, none, 0, none⟩
/-- A retry that waits: of two failures on one VPE the earlier one goes first. -/
def behind : State := { playing (some ⟨1, 2, 9, none, 1, none⟩) with mash.voices := [(600, voiceOf none (some ⟨1, 2, 9, none, 1, none⟩)), (601, voiceOf none (some oneFail))] }

theorem witness_VoiceBlocks :
    ((playing none).kiln.raised = [] ∧ sfind (playing none).mash.ending 600 = none ∧ (playing none).voiceTurn 600 = some (voiceOf none none) ∧ (voiceOf none none).ripe = voiceOf none none ∧ (playing none).lastBlock < (voiceOf none none).next + 2)
    ∧ ((600, voiceOf none none) ∈ (playing none).mash.ending ++ (playing none).mash.voices ∧ (playing none).waiting 600 (voiceOf none none) = true)
    ∧ (late.kiln.raised = [] ∧ late.voiceTurn 600 = some (voiceOf none none) ∧ (voiceOf none none).next + 2 ≤ late.lastBlock)
    ∧ ((playing none).slotLeft 600 = true)
    ∧ ((∀ z ∈ (playing none).mash.sums, ¬ (z.block = (voiceOf none none).next ∧ z.cluster = logicalOf 600)))
    ∧ (twins.voiceTurn 600 = some (voiceOf (some 1700) none) ∧ (voiceOf (some 1700) none).ripe = voiceOf (some 1700) none ∧ (∀ z ∈ twins.mash.twins, z.v ≠ 1700))
    ∧ (rdy.voiceTurn 600 = none ∧ rdy.voiceDue 600 = none)
    ∧ (behind.voiceDue 600 = some (voiceOf none (some ⟨1, 2, 9, none, 1, none⟩)) ∧ behind.retryReady 600 ⟨1, 2, 9, none, 1, none⟩ = false)
    ∧ ((playing (some oneFail)).voiceDue 600 = some (voiceOf none (some oneFail)) ∧ (playing (some oneFail)).retryReady 600 oneFail = true ∧ (playing (some oneFail)).slotLeft 600 = true ∧ (playing (some oneFail)).noCover (600, voiceOf none (some oneFail)) = false)
    ∧ (Heard (playing (some oneFail)) retryMsg ∧ (playing (some oneFail)).kindLimit kVpeCheck = 0) := by
  unfold Heard
  refine ⟨?_, ?_, ?_, ?_, ?_, ?_, ?_, ?_, ?_, ?_⟩ <;> decide +kernel

def twinVoice (w : Nat) : Voice := { voiceOf (some w) none with ckptAt := some 2, next := 3 }
/-- A pair of block 2 that agrees on the sends, that does not, and that waits for its recomputation. -/
def pairFive : State := compared 5 5 false
def pairSix : State := compared 5 6 false
def pairWaits : State := compared 5 6 true
def recomputed (v w : Nat) := voiceBlock (pairWaits.viewOf v (some w) (twinVoice w).prio 2) (twinVoice w).ckpt
def twinMsg : BitVec 64 := mkMsg 2 0 kTwinCompare 0 600 2

theorem witness_TwinResults :
    (rdy.isReady = true ∧ rdy.kiln.halted = false ∧ rdy.kiln.raised = [] ∧ rdy.twinPair 600 = none)
    ∧ (pairFive.isReady = true ∧ pairFive.twinPair 600 = some (resultOf 600 1700 5 false, resultOf 1700 600 5 false) ∧ (resultOf 600 1700 5 false).sends = (resultOf 1700 600 5 false).sends)
    ∧ (pairSix.twinPair 600 = some (resultOf 600 1700 5 false, resultOf 1700 600 6 false) ∧ sameResult (resultOf 600 1700 5 false) (resultOf 1700 600 6 false) = false)
    ∧ (pairFive.pairOfComparators = true)
    ∧ (pairWaits.twinPair 600 = some (resultOf 600 1700 5 true, resultOf 1700 600 6 true) ∧ sfind pairWaits.mash.voices 600 = some (twinVoice 1700) ∧ sfind pairWaits.mash.voices 1700 = some (twinVoice 600) ∧ pairWaits.slotLeft 600 = true ∧ pairWaits.slotLeft 1700 = true)
    ∧ (resultOf 600 1700 5 true ∈ pairWaits.mash.twins ∧ pairWaits.voiceAt 600 = some (twinVoice 1700) ∧ (resultOf 600 1700 5 true).block + 1 = (twinVoice 1700).next)
    ∧ (sfind pairWaits.mash.ending 600 = none ∧ sfind pairWaits.mash.ending 1700 = none ∧ pairWaits.noCover (600, twinVoice 1700) = false ∧ pairWaits.noCover (1700, twinVoice 600) = false ∧ Heard pairWaits twinMsg ∧ pairWaits.kindLimit kTwinCompare = 0) := by
  unfold Heard
  refine ⟨?_, ?_, ?_, ?_, ?_, ?_, ?_⟩ <;> decide +kernel

theorem witness_TwinResults_recomputed : (recomputed 600 1700).sends = (recomputed 1700 600).sends ∧ (recomputed 600 1700).ctx = (recomputed 1700 600).ctx := by
  have h : pairWaits.viewOf 600 (some 1700) (twinVoice 1700).prio 2 = pairWaits.viewOf 1700 (some 600) (twinVoice 600).prio 2 := rfl
  have e : recomputed 600 1700 = recomputed 1700 600 := by
    unfold recomputed
    rw [h]
    rfl
  rw [e]
  exact ⟨rfl, rfl⟩

def formed : State := { mixing 5 with mash.wort := [⟨1, [], none⟩] }
def unmixed : State := { mixing 5 with mash.voices := [(600, { voiceOf none none with next := 1 })] }
theorem witness_DeviceMixer :
    ((mixing 5).isReady = true ∧ (mixing 5).kiln.halted = false ∧ (mixing 5).kiln.raised = [] ∧ (mixing 5).lastBlock ≠ 0 ∧ ¬ (∃ w ∈ (mixing 5).mash.wort, w.block = (mixing 5).lastBlock - 1) ∧ (mixing 5).mixReady 1 = true ∧ (mixing 5).fw.capture = none)
    ∧ (({ mixing 5 with lastBlock := 0 } : State).lastBlock = 0)
    ∧ (unmixed.mixReady 1 = false)
    ∧ (∃ w ∈ formed.mash.wort, w.block = 2 - 1) := by
  refine ⟨?_, ?_, ?_, ?_⟩ <;> decide +kernel

theorem still_still : Still still := by constructor <;> decide +kernel
theorem witness_BoundaryOfBlock : Still still ∧ 3 < 32 ∧ max (calm 100 110).tempDig (calm 100 110).tempAna ≤ 110
    ∧ (calm 100 110).copies = [] ∧ (calm 100 110).scrub = [] ∧ still.fw.writes = [⟨bWORT, 4 * 3, 0x20000000, still.lastBlock + 1⟩] :=
  ⟨still_still, by decide, by decide, rfl, rfl, by decide +kernel⟩

def working : State := { standbyAsked with fw.update := 1 }
theorem witness_AfterBoundary :
    ((shedding 120 none).isReady = true ∧ (shedding 120 none).lastBlock % 1024 = 0 ∧ (shedding 120 none).mash.shedAt ≠ (shedding 120 none).lastBlock ∧ (shedding 120 none).mash.voices = [] ∧ (shedding 120 none).part.variant = .qk2048a ∧ (shedding 120 none).mash.regions.length = 2)
    ∧ (rdy.isReady = true ∧ rdy.lastBlock % 1024 ≠ 0)
    ∧ ((comingUp 3).isReady = true ∧ (comingUp 3).fw.region1From = some 3 ∧ 3 ≤ (comingUp 3).lastBlock + 1)
    ∧ ((comingUp 4).fw.region1From = some 4 ∧ (comingUp 4).lastBlock + 1 < 4)
    ∧ (standbyAsked.isReady = true ∧ standbyAsked.pwr.standbyReq = true ∧ standbyAsked.fw.jobs = [] ∧ standbyAsked.fw.update = 0)
    ∧ (rdy.pwr.standbyReq = false ∧ working.fw.update ≠ 0) := by
  refine ⟨?_, ?_, ?_, ?_, ?_, ?_⟩ <;> decide +kernel

/-! ### Witnesses: the Copper -/

/-- A load of X and a store of Y beside the operation. -/
def ml : Mv := ⟨1, 0, 1, 3⟩
def ms : Mv := ⟨2, 1, 2, 4⟩
def adds : FmtA := ⟨2, 4, 1, 3, ml, ms⟩
def accs : FmtA := ⟨10, 4, 1, 0, ml, ms⟩
def shifts : FmtA := ⟨2, 4, 0, 0x3F, ml, ms⟩
def aPair : FmtA := ⟨10, 4, 6, 3, ml, ms⟩
def scans : FmtA := ⟨2, 0, 0, 0, ⟨1, 0, 1, 2⟩, ⟨1, 0, 0, 7⟩⟩
def moving : FmtA := ⟨2, 1, 0, 0, m0, ml⟩
def nopWith (c : Copper) : State := onWord (encodeCopper (.cNop idle)) c

theorem witness_CopperFrame :
    ((framed waiting).cop.on = true ∧ (framed waiting).kiln.halted = false ∧ (framed waiting).frameTurn (framed waiting).cop.frame = some 32 ∧ (framed waiting).cop.wait = true ∧ (framed waiting).cop.flights = [])
    ∧ ((framed waiting).cop.fade = none ∧ (framed waiting).cop.params = [(false, 9, 4)] ∧ (framed waiting).cop.hasProg = true ∧ (framed waiting).cop.trapped = false ∧ PlainFlow (framed waiting).cop)
    ∧ ((framed fading).frameTurn (framed fading).cop.frame = some 32 ∧ (framed fading).cop.fade = some ⟨4, 1, 50, [10, 20], [110, -80]⟩ ∧ (framed fading).cop.params = [] ∧ 50 + 2 ≤ 65536)
    ∧ ((framed { copBase with wait := false }).frameTurn 31 = some 32 ∧ (framed { copBase with wait := false }).cop.hasProg = true ∧ (framed { copBase with wait := false }).cop.wait = false ∧ (framed { copBase with wait := false }).cop.trapped = false)
    ∧ ((framed { waiting with trapped := true, wait := false }).cop.trapped = true ∧ (framed { waiting with trapped := true, wait := false }).frameTurn 31 = some 32)
    ∧ ((framed { waiting with params := [(true, 9, 4)] }).cop.params = [(true, 9, 4)] ∧ (framed { waiting with params := [] }).cop.params = []) := by
  unfold PlainFlow
  refine ⟨?_, ?_, ?_, ?_, ?_, ?_⟩ <;> decide +kernel

theorem witness_CopperAddSub :
    (CopperRuns (onInstr (.cAdd adds)) (.cAdd adds))
    ∧ (CopperRuns (onInstr (.cSub adds)) (.cSub adds))
    ∧ (CopperRuns (onInstr (.cAdds adds)) (.cAdds adds))
    ∧ (CopperRuns (onInstr (.cSubs adds)) (.cSubs adds))
    ∧ (CopperRuns (onInstr (.cCmp adds)) (.cCmp adds)) := by
  unfold CopperRuns
  refine ⟨?_, ?_, ?_, ?_, ?_⟩ <;> decide +kernel

theorem witness_CopperLogicShift :
    (CopperRuns (onInstr (.cAnd adds)) (.cAnd adds))
    ∧ (CopperRuns (onInstr (.cOr adds)) (.cOr adds))
    ∧ (CopperRuns (onInstr (.cXor adds)) (.cXor adds))
    ∧ (CopperRuns (onInstr (.cAbs shifts)) (.cAbs shifts))
    ∧ (CopperRuns (onInstr (.cSha shifts)) (.cSha shifts))
    ∧ (CopperRuns (onInstr (.cShl shifts)) (.cShl shifts))
    ∧ (CopperRuns (onInstr (.cRnd ⟨2, 9, 0, 3, m0, ml⟩)) (.cRnd ⟨2, 9, 0, 3, m0, ml⟩)) := by
  unfold CopperRuns
  refine ⟨?_, ?_, ?_, ?_, ?_, ?_, ?_⟩ <;> decide +kernel

theorem witness_CopperAccumulate :
    (CopperRuns (onInstr (.cMpy accs)) (.cMpy accs))
    ∧ (CopperRuns (onInstr (.cMac accs)) (.cMac accs))
    ∧ (CopperRuns (onInstr (.cMsu accs)) (.cMsu accs))
    ∧ (CopperRuns (onInstr (.cAadd ⟨10, 8, 9, 0, ml, ms⟩)) (.cAadd ⟨10, 8, 9, 0, ml, ms⟩))
    ∧ (CopperRuns (onInstr (.cAsub ⟨10, 8, 9, 0, ml, ms⟩)) (.cAsub ⟨10, 8, 9, 0, ml, ms⟩))
    ∧ (CopperRuns (onInstr (.cAsh ⟨10, 8, 0, 0x3F, ml, ms⟩)) (.cAsh ⟨10, 8, 0, 0x3F, ml, ms⟩))
    ∧ (CopperRuns (onInstr (.cClr ⟨10, 0, 0, 0, ml, ms⟩)) (.cClr ⟨10, 0, 0, 0, ml, ms⟩)) := by
  unfold CopperRuns
  refine ⟨?_, ?_, ?_, ?_, ?_, ?_, ?_⟩ <;> decide +kernel

theorem witness_CopperComplex :
    (CopperRuns (onInstr (.cCmpy aPair)) (.cCmpy aPair))
    ∧ (CopperRuns (onInstr (.cCmac aPair)) (.cCmac aPair))
    ∧ (CopperRuns (onInstr (.cCmsu aPair)) (.cCmsu aPair))
    ∧ (CopperRuns (onInstr (.cCmacj aPair)) (.cCmacj aPair)) := by
  unfold CopperRuns
  refine ⟨?_, ?_, ?_, ?_⟩ <;> decide +kernel

theorem witness_CopperFlagsOnly :
    (CopperRuns (onInstr (.cNop moving)) (.cNop moving))
    ∧ (CopperRuns (onInstr (.cTsta ⟨2, 9, 0, 0, m0, ml⟩)) (.cTsta ⟨2, 9, 0, 0, m0, ml⟩))
    ∧ (CopperRuns (onInstr (.cMvc moving)) (.cMvc moving)) := by
  unfold CopperRuns
  refine ⟨?_, ?_, ?_⟩ <;> decide +kernel

theorem witness_CopperScan :
    (CopperRuns (onInstr (.cMaxi scans)) (.cMaxi scans))
    ∧ (CopperRuns (onInstr (.cMini scans)) (.cMini scans))
    ∧ (CopperRuns (onInstr (.cMaxi ⟨2, 0, 0, 1, ⟨1, 0, 1, 7⟩, ⟨1, 1, 1, 2⟩⟩)) (.cMaxi ⟨2, 0, 0, 1, ⟨1, 0, 1, 7⟩, ⟨1, 1, 1, 2⟩⟩)) := by
  unfold CopperRuns
  refine ⟨?_, ?_, ?_⟩ <;> decide +kernel

theorem witness_CopperLoads :
    (CopperRuns (onInstr (.cLdi 3 0x80000005)) (.cLdi 3 0x80000005))
    ∧ (CopperRuns (onInstr (.cLdi 23 5)) (.cLdi 23 5))
    ∧ (CopperRuns (onInstr (.cLdi 40 5)) (.cLdi 40 5))
    ∧ (CopperRuns (onInstr (.cMv 8 1)) (.cMv 8 1))
    ∧ (CopperRuns (onInstr (.cMv 40 3)) (.cMv 40 3))
    ∧ (CopperRuns (onInstr (.cLdx 3 7)) (.cLdx 3 7))
    ∧ (CopperRuns (onInstr (.cLdy 9 20)) (.cLdy 9 20))
    ∧ (CopperRuns (onInstr (.cLdio 3 0x20)) (.cLdio 3 0x20))
    ∧ (CopperRuns (onInstr (.cPop 40)) (.cPop 40)) := by
  unfold CopperRuns
  refine ⟨?_, ?_, ?_, ?_, ?_, ?_, ?_, ?_, ?_⟩ <;> decide +kernel

theorem witness_CopperStores :
    (CopperRuns (onInstr (.cStx 3 7)) (.cStx 3 7))
    ∧ (CopperRuns (onInstr (.cSty 17 20)) (.cSty 17 20))
    ∧ (CopperRuns (onInstr (.cStio 40 0x20)) (.cStio 40 0x20))
    ∧ (CopperRuns (onInstr (.cPush 9)) (.cPush 9)) := by
  unfold CopperRuns
  refine ⟨?_, ?_, ?_, ?_⟩ <;> decide +kernel

theorem witness_CopperFlow :
    (PlainFlow (onInstr (.cBr 0 9)).cop)
    ∧ (CopperRuns (onInstr (.cBr 0 9)) (.cBr 0 9))
    ∧ (CopperRuns (onInstr (.cBr 1 9)) (.cBr 1 9))
    ∧ (CopperRuns (onInstr (.cCall 9)) (.cCall 9))
    ∧ (CopperRuns (onInstr (.cRet)) (.cRet))
    ∧ (CopperRuns (onInstr (.cReti)) (.cReti))
    ∧ (CopperRuns (onInstr (.cLoop 9 3)) (.cLoop 9 3))
    ∧ (CopperRuns (onInstr (.cRep 0)) (.cRep 0))
    ∧ (CopperRuns (onInstr (.cRep 3)) (.cRep 3))
    ∧ (CopperRuns (onInstr (.cWfr)) (.cWfr))
    ∧ ((onInstr .cWfr).cop.missed = 0 ∧ ({ onInstr .cWfr with cop.missed := 1 } : State).cop.missed ≠ 0 ∧ CopperRuns { onInstr .cWfr with cop.missed := 1 } .cWfr) := by
  unfold CopperRuns PlainFlow
  refine ⟨?_, ?_, ?_, ?_, ?_, ?_, ?_, ?_, ?_, ?_, ?_⟩ <;> decide +kernel

theorem witness_CopperDelayAndRepeat :
    (CopperRuns (nopWith { copBase with rep := some 4, branch := some (9, 2) }) (.cNop idle) ∧ (nopWith { copBase with rep := some 4 }).cop.rep = some (2 + 2))
    ∧ (CopperRuns (nopWith { copBase with rep := some 1 }) (.cNop idle) ∧ (nopWith { copBase with rep := some 1 }).cop.branch = none)
    ∧ (CopperRuns (nopWith { copBase with branch := some (9, 2) }) (.cNop idle) ∧ (nopWith { copBase with branch := some (9, 2) }).cop.rep = none)
    ∧ (CopperRuns (nopWith { copBase with branch := some (9, 1) }) (.cNop idle)) := by
  unfold CopperRuns
  refine ⟨?_, ?_, ?_, ?_⟩ <;> decide +kernel

theorem witness_CopperInterruptEntry :
    interrupted.isReady = true ∧ interrupted.kiln.halted = false ∧ interrupted.cop.accepts = true ∧ interrupted.cop.source = some 1 := by
  decide +kernel

theorem witness_CopperTraps :
    reservedWord.isReady = true ∧ reservedWord.kiln.halted = false ∧ reservedWord.cop.runs = true ∧ reservedWord.cop.current = none := by
  decide +kernel

/-! ### Witnesses: sense chain, memories, lines, DACs, timers, trackers, lanes, chain -/

theorem witness_SpargeStage1 :
    (sensing.snsRuns 2 = true ∧ sensing.kiln.raised = [] ∧ [true, false, true, true, true, false, true, true].length = sensing.snsL1 ∧ sensing.sns.length = 8 ∧ (sensing.sense 2).thr.length = 2 ∧ sensing.thrDue 2 0 = false ∧ sensing.thrDue 2 1 = false ∧ bits (sensing.regN bSPARGE 0xC) 0 16 = 0)
    ∧ (4 * sensing.groupEnd 2 (sensing.sense 2).groups ≤ (sensing.lastBlock + 1) * 4096) := by
  refine ⟨?_, ?_⟩ <;> decide +kernel

theorem witness_SpargeOverload :
    (sensing.fw.diag = none ∧ (sensing.sense 2).ovl = false)
    ∧ (({ sensing with sns := sensing.sns.set 2 { sensing.sense 2 with ovl := true } } : State).snsRuns 2 = true ∧ (({ sensing with sns := sensing.sns.set 2 { sensing.sense 2 with ovl := true } } : State).sense 2).ovl = true) := by
  refine ⟨?_, ?_⟩ <;> decide +kernel

def turning : State := { sensing with regs := [(0x040000, 4), (0x040004, 8 + 256 * 4 + 2 ^ 18 * 2), (0x040008, 0x00012301), (0x04000C, 0), (0x040084, 0)]
                                      sns := sensing.sns.set 2 { sensing.sense 2 with thr := [⟨false, 9, 7⟩, ⟨false, 0, 0⟩] } }

theorem witness_SpargeFineValue :
    sensing.snsRuns 2 = true ∧ sensing.frameTurn (sensing.sense 2).frame = some 33 ∧ sensing.sns.length = 8 ∧ (sensing.sense 2).thr.length = 2 ∧ sensing.thrDue 2 0 = false ∧ sensing.thrDue 2 1 = false ∧ sensing.fw.diag = none := by
  decide +kernel

theorem witness_ThresholdChange :
    (turning.snsRuns 2 = true ∧ turning.kiln.raised = [] ∧ turning.sns.length = 8 ∧ (turning.sense 2).thr.length = 2 ∧ turning.thrDue 2 0 = true ∧ bit (turning.thrCfg 2 0) 5 = false)
    ∧ (sensing.snsRuns 2 = true ∧ sensing.thrDue 2 0 = false ∧ sensing.thrDue 2 1 = false) := by
  refine ⟨?_, ?_⟩ <;> decide +kernel

def memMsg : BitVec 64 := mkMsg 2 0 kMemUncorrectable 1 (13 * 256 + 1 / 8192) 1

def spoiled : State := { scratchOn .on with mem.badScratch := [1] }
theorem witness_AtomicOperations :
    ((scratchOn .on).clocked = true ∧ (scratchOn .on).pwr.phase ≠ .standby ∧ 4 % 4 = 0 ∧ (scratchOn .on).kiln.raised = [] ∧ (scratchOn .on).bank (scratchBank 1) = .on ∧ (scratchOn .on).mem.badScratch.contains 1 = false)
    ∧ (131068 % 4 = 0 ∧ 131068 / 4 = 32767)
    ∧ (Heard (scratchOn .on) memMsg ∧ FreeSet (scratchOn .on) memMsg)
    ∧ (spoiled.bank (scratchBank 1) = .on ∧ spoiled.mem.badScratch.contains 1 = true ∧ Heard spoiled memMsg ∧ FreeSet spoiled memMsg)
    ∧ ((scratchOn .retention).bank (scratchBank 1) ≠ .on) := by
  unfold Heard FreeSet
  refine ⟨?_, ?_, ?_, ?_, ?_⟩ <;> decide +kernel

/-- The message of word 5 of a memory's bank 0. -/
def scrubMsg (mem k cls : Nat) : BitVec 64 := mkMsg (memPlace mem 0 5).1 (memPlace mem 0 5).2.1 k cls (mem * 256 + 0) 5
def firstBad (mem : Nat) : State := { rdy with mem.pairBad := [(mem, 1, 5)] }

theorem witness_MemoryScrub :
    (State.reset.memPowered 3 0 = false ∧ State.reset.kiln.raised = [])
    ∧ (rdy.memPowered 3 0 = true ∧ Heard rdy (scrubMsg 3 kMemCorrected 0) ∧ rdy.kindLimit (msgKind (scrubMsg 3 kMemCorrected 0)) = 0)
    ∧ (Heard rdy (scrubMsg 3 kMemUncorrectable 0) ∧ rdy.kindLimit (msgKind (scrubMsg 3 kMemUncorrectable 0)) = 0)
    ∧ (rdy.memPowered 14 0 = true ∧ Heard rdy (scrubMsg 14 kMemUncorrectable 1) ∧ FreeSet rdy (scrubMsg 14 kMemUncorrectable 1))
    ∧ (rdy.part.variant.regionCount ≠ 1 ∧ rdy.memPowered 2 0 = true ∧ Heard rdy (scrubMsg 2 kMemUncorrectable 1) ∧ FreeSet rdy (scrubMsg 2 kMemUncorrectable 1)) := by
  unfold Heard FreeSet
  refine ⟨?_, ?_, ?_, ?_, ?_⟩ <;> decide +kernel
theorem witness_MemoryScrub_kept :
    (rdy.memPowered 1 0 = true ∧ 5 / 96 < 1024 ∧ Heard rdy (scrubMsg 1 kMemUncorrectable 0) ∧ rdy.kindLimit (msgKind (scrubMsg 1 kMemUncorrectable 0)) = 0)
    ∧ (rdy.memPowered 13 0 = true ∧ Heard rdy (scrubMsg 13 kMemUncorrectable 1) ∧ FreeSet rdy (scrubMsg 13 kMemUncorrectable 1))
    ∧ (logged.memPowered 15 0 = true ∧ Heard logged (scrubMsg 15 kMemUncorrectable 0) ∧ logged.kindLimit (msgKind (scrubMsg 15 kMemUncorrectable 0)) = 0)
    ∧ (rdy.mem.pairBad.contains (6, otherBank 0, 5) = false ∧ Heard rdy (scrubMsg 6 kMemUncorrectable 0) ∧ rdy.kindLimit (msgKind (scrubMsg 6 kMemUncorrectable 0)) = 0)
    ∧ ((firstBad 6).memPowered 6 0 = true ∧ (firstBad 6).mem.pairBad.contains (6, otherBank 0, 5) = true ∧ Heard (firstBad 6) (scrubMsg 6 kMemUncorrectable 2) ∧ FreeSet (firstBad 6) (scrubMsg 6 kMemUncorrectable 2)) := by
  unfold Heard FreeSet
  refine ⟨?_, ?_, ?_, ?_, ?_⟩ <;> decide +kernel

theorem witness_BankPowerStates :
    ((cleared .exiting).bank 8 = .exiting ∧ (cleared .exiting).mem.banks.length = 12 ∧ (cleared .exiting).kiln.raised = [] ∧ (cleared .exiting).clocked = true ∧ (∀ o ∈ (cleared .exiting).mem.stalled, scratchBank o.word ≠ 8))
    ∧ ((cleared .powering).bank 8 = .powering)
    ∧ ((cleared .clearing).bank 8 = .clearing)
    ∧ ((cleared .on).bank 8 = .on ∧ (cleared .on).bank 0 = .on) := by
  refine ⟨?_, ?_, ?_, ?_⟩ <;> decide +kernel

def heardChar (stop noise stall : Bool) : RxChar := { byte := 5, stopOk := stop, parityOk := true, noise := noise, stalled := stall }
def fullFifo : State := uartWith { freshUart with fifo := List.replicate 32 (7, false) }
def framing (n : Nat) : State := uartWith { freshUart with frame := [1, 2], partialBlock := n }
def sending : State := uartWith { freshUart with outq := [[1, 2, 3]] }

theorem witness_UartCharacter :
    ((uartWith freshUart).uarts.length = 2 ∧ (uartWith freshUart).lineHears 0 = true ∧ ((uartWith freshUart).uart 0).newSettings = true ∧ ((uartWith freshUart).uart 0).fifo = [])
    ∧ ((heardChar true false false).stopOk = true ∧ (heardChar false false false).stopOk = false)
    ∧ (fullFifo.lineHears 0 = true ∧ (fullFifo.uart 0).fifo.length = 32 ∧ (fullFifo.uart 0).newSettings = true) := by
  refine ⟨?_, ?_, ?_⟩ <;> decide +kernel

theorem witness_UartLine :
    ((framing 2).uarts.length = 2 ∧ (framing 2).lineOn 0 = true ∧ ((framing 2).uart 0).fifo = [] ∧ 0 < ((framing 2).uart 0).partialBlock ∧ ((framing 2).uart 0).partialBlock < max 1 (bits ((framing 2).regN (bUART0 + 0) 0xC) 16 11))
    ∧ ((framing 0).lineOn 0 = true ∧ ((framing 0).uart 0).partialBlock = 0)
    ∧ (sending.lineOn 0 = true ∧ (sending.uart 0).outq = [1, 2, 3] :: [])
    ∧ (((framing 0).uart 0).outq = [] ∧ (framing 0).lineUp 0 = true) := by
  refine ⟨?_, ?_, ?_, ?_⟩ <;> decide +kernel

theorem witness_UartFrames :
    ((lineGot (pingFrame 0 0) false).uarts.length = 2 ∧ (lineGot (pingFrame 0 0) false).canTake = true ∧ (lineGot (pingFrame 0 0) false).lineServed 0 = true ∧ (lineGot (pingFrame 0 0) false).fw.replies = [] ∧ (lineGot (pingFrame 0 0) false).kiln.raised = [] ∧ ((lineGot (pingFrame 0 0) false).uart 0).ready = (pingFrame 0 0, false) :: [([1], true)])
    ∧ (frameGood (pingFrame 0 0) = true ∧ u8 (pingFrame 0 0) 0 = (lineGot (pingFrame 0 0) false).ownPosition ∧ u8 (pingFrame 0 0) 0 ≠ 0x0F ∧ (frameCmd 0 0 (pingFrame 0 0)).opcode = 0x02 ∧ (lineGot (pingFrame 0 0) false).refusal (frameCmd 0 0 (pingFrame 0 0)) = none)
    ∧ (frameGood (pingFrame 0 1) = false)
    ∧ (frameGood (pingFrame 9 0) = true ∧ u8 (pingFrame 9 0) 0 ≠ 0x0F ∧ u8 (pingFrame 9 0) 0 ≠ (lineGot (pingFrame 9 0) false).ownPosition)
    ∧ (frameGood (pingFrame 0x0F 0) = true ∧ u8 (pingFrame 0x0F 0) 0 = 0x0F ∧ (frameCmd 0 0 (pingFrame 0x0F 0)).opcode = 0x02 ∧ (lineGot (pingFrame 0x0F 0) false).refusal (frameCmd 0 0 (pingFrame 0x0F 0)) = none) := by
  refine ⟨?_, ?_, ?_, ?_, ?_⟩ <;> decide +kernel

theorem witness_DacUpdate :
    (∀ src < 4, (dacWith (BitVec.ofNat 32 src) freshDac).dacRuns 0 = true ∧ (dacWith (BitVec.ofNat 32 src) freshDac).dacTurn 0 = some 8448 ∧ (dacWith (BitVec.ofNat 32 src) freshDac).dacs.length = 4 ∧ bits ((dacWith (BitVec.ofNat 32 src) freshDac).dacN 0 0) 0 2 = src)
    ∧ (((dacWith 2 { freshDac with queue := [3, 4] }).dac 0).queue = 3 :: [4] ∧ (dacWith 2 { freshDac with queue := [3, 4] }).dacRuns 0 = true)
    ∧ (((dacWith 2 freshDac).dac 0).queue = []) := by
  refine ⟨?_, ?_, ?_⟩ <;> decide +kernel

theorem witness_TimerStep :
    ((timing 1 5).timersRun = true ∧ bit ((timing 1 5).tmrN 0 0) 0 = true ∧ bits ((timing 1 5).tmrN 0 0) 1 3 ≤ 3 ∧ (timing 1 5).tmr.length = 4 ∧ ((timing 1 5).unit 0).phase < 2 ^ 32)
    ∧ (∀ k < 4, (timing 1 5).tmrN 0 (0x10 + 8 * k) ≠ ((timing 1 5).tmrN 0 8 + 1) % 2 ^ 32)
    ∧ (∀ c < 3, ¬ (bit ((timing 1 5).tclN c 0) 0 = true ∧ bits ((timing 1 5).tclN c 0) 1 2 = 0))
    ∧ ((timing 1 99).tmrN 0 (0x10 + 8 * 0) = ((timing 1 99).tmrN 0 8 + 1) % 2 ^ 32 ∧ (timing 1 99).timersRun = true) := by
  refine ⟨?_, ?_, ?_, ?_⟩ <;> decide +kernel

def catching (edges : Nat) : State := { rdy with regs := [(0x010040, 0x00030001)], tmr := (List.replicate 4 (rdy.unit 0)).set 0 { rdy.unit 0 with edges := edges } }

theorem witness_TimerCaptures :
    ((catching 2).captureOn 0 true = true ∧ bits ((catching 2).tmrN 0 0) 1 3 ≠ 4 ∧ (catching 2).tmr.length = 4 ∧ ((catching 2).unit 0).edges < bits ((catching 2).tmrN 0 0) 16 8)
    ∧ ((catching 3).captureOn 0 true = true ∧ bits ((catching 3).tmrN 0 0) 16 8 ≤ ((catching 3).unit 0).edges ∧ 0 ≤ bits ((catching 3).tmrN 0 0) 8 8)
    ∧ ((catching 2).timersRun = true ∧ (catching 2).captureOn 0 false = false) := by
  refine ⟨?_, ?_, ?_⟩ <;> decide +kernel

theorem witness_StandbyTick :
    (rdy.pwr.phase ≠ .standby)
    ∧ ((lfStandby 0).pwr.phase = .standby ∧ (∀ u < 4, bit ((lfStandby 0).tmrN u 0) 0 = false))
    ∧ ((lfStandby 1).pwr.phase = .standby ∧ (lfStandby 1).tmr.length = 4 ∧ (∀ u < 4, 1 ≤ u → bit ((lfStandby 1).tmrN u 0) 0 = false) ∧ bit ((lfStandby 1).tmrN 0 0) 0 = true)
    ∧ (bits ((lfStandby 1).tmrN 0 0) 1 3 = 0 ∧ (lfStandby 1).tmrN 0 4 = 0 ∧ ((lfStandby 1).unit 0).phase = 0)
    ∧ ((∀ k < 4, ((lfStandby 1).tmrN 0 (0x10 + 8 * k) + 2 ^ 32 - (lfStandby 1).tmrN 0 8 - 1) % 2 ^ 32 ≥ 750) ∧ (∀ c < 3, bit ((lfStandby 1).tclN c 0) 0 = false)) := by
  refine ⟨?_, ?_, ?_, ?_, ?_⟩ <;> decide +kernel

/-- A quadrature pair on pins 0 and 1, and a pin that showed its edge a moment ago. -/
def pairWheel : State := { wheel { synced with lastEdge := some 206000 } with regs := [(0x0C0040, 2), (0x0C0044, 60)] }
def justShown : State := { wheel seeking with tbPins := [(true, 206999), (false, 0), (false, 0), (false, 0)] }

theorem witness_ToothEdges :
    ((wheel seeking).tracksEdges = true ∧ (wheel seeking).tbs.length = 4 ∧ (wheel seeking).tbPins.length = 4 ∧ (wheel seeking).edgeFits 0 true 207000 = true ∧ ((wheel seeking).tbCfg 1).source = 0)
    ∧ ((justShown.pinOf 0).2 ≠ 0 ∧ true = (justShown.pinOf 0).1 ∧ justShown.edgeFits 0 true 207000 = false)
    ∧ (pairWheel.edgeFits 0 true 207000 = true ∧ pairWheel.edgeFits 1 (!(pairWheel.pinOf 1).1) 207000 = true ∧ (pairWheel.tbCfg 0).source = 2 ∧ (pairWheel.tbCfg 0).pin = 0 ∧ (pairWheel.tbCfg 0).refEn = false ∧ (pairWheel.tracker 0).now = 3)
    ∧ (((wheel seeking).tbCfg 0).source = 1 ∧ ((wheel seeking).tbCfg 0).pin = 0 ∧ (wheel seeking).pinActive 0 true = true ∧ ((wheel seeking).tbCfg 0).dirMode = false ∧ ((wheel seeking).tbCfg 0).refEn = false ∧ ((wheel seeking).tracker 0).now = 1 ∧ ((wheel seeking).tracker 0).reverse = false)
    ∧ ((wheel synced).tracksEdges = true ∧ ((wheel synced).tracker 0).now = 3 ∧ ((wheel synced).tracker 0).reverse = false ∧ ((wheel synced).tbCfg 0).gap = 0 ∧ 1 ≤ ((wheel synced).tracker 0).valid)
    ∧ (((wheel synced).tbCfg 0).toothOk ((wheel synced).tracker 0) (147100 - 147000) = false)
    ∧ (((wheel synced).tbCfg 0).toothOk ((wheel synced).tracker 0) (207000 - 147000) = true)
    ∧ (overspeed (((wheel synced).tbCfg 0).angleOf 2 8 - ((wheel synced).tbCfg 0).angleOf 2 7) 60000 = false) := by
  refine ⟨?_, ?_, ?_, ?_, ?_, ?_, ?_, ?_⟩ <;> decide +kernel

theorem witness_TrackerStalls :
    ((stalling synced).tracksEdges = true ∧ (stalling synced).tbs.length = 4 ∧ ((stalling synced).tbCfg 0).source ≠ 3 ∧ ((stalling synced).tracker 0).now = 3 ∧ ((stalling synced).tbCfg 0).stallMs * 442368 ≤ 18 * (stalling synced).time - ((stalling synced).tracker 0).lastInput)
    ∧ (((stalling syncing).tracker 0).now = 2 ∧ ((stalling syncing).tbCfg 0).stallMs * 442368 ≤ 18 * (stalling syncing).time - ((stalling syncing).tracker 0).lastInput)
    ∧ (((hostFed synced).tbCfg 0).source = 3 ∧ ((hostFed synced).tbCfg 0).hostMs * 442368 ≤ 18 * (hostFed synced).time - ((hostFed synced).tracker 0).lastInput ∧ ((hostFed synced).tracker 0).now = 3)
    ∧ (18 * (wheel synced).time - ((wheel synced).tracker 0).lastInput < ((wheel synced).tbCfg 0).stallMs * 442368)
    ∧ (((wheel { synced with quiet := true }).tracker 0).quiet = true ∧ ((wheel { synced with quiet := true }).tracker 0).now = 3 ∧ ((wheel { syncing with quiet := true }).tracker 0).now = 2)
    ∧ (((wheel synced).tracker 0).quiet = false ∧ 73728 * 3 - ((wheel synced).tracker 0).lastInput < ((wheel synced).tbCfg 0).stallMs * 442368) := by
  refine ⟨?_, ?_, ?_, ?_, ?_, ?_⟩ <;> decide +kernel

theorem witness_TdmoFrames :
    ((tdmOut 0x000FF2B7).outTurn = some 160 ∧ ((tdmOut 0x000FF2B7).kiln.safe = false))
    ∧ (bit ((tdmOut 0x0001F001).regN bTDMO 0) 12 = true ∧ bit ((tdmOut 0x0001F001).regN bTDMO 0) 16 = true) := by
  refine ⟨?_, ?_⟩ <;> decide +kernel

theorem witness_TdmiFrames :
    ((tdmIn true 0).inputOn = true ∧ (tdmIn true 0).tdm.locked = true)
    ∧ ((tdmIn false 0).inputOn = true ∧ (tdmIn false 0).tdm.locked = false ∧ (tdmIn false 0).tdm.good = 0)
    ∧ ((tdmIn false 1).inputOn = true ∧ (tdmIn false 1).tdm.good ≠ 0)
    ∧ ((tdmIn true 0).inputOn = true ∧ ClearToPost (tdmIn true 0) 1) := by
  unfold ClearToPost
  refine ⟨?_, ?_, ?_, ?_⟩ <;> decide +kernel

theorem witness_ChainFrames :
    ((chained 1 32 32).linkOn = true ∧ (chained 1 32 32).chain.enteredRun = false ∧ (chained 1 32 32).frameTurn 32 = some 33 ∧ (chained 1 32 32).linkReset 5 = false ∧ (chained 1 32 32).chain.ownStart = none)
    ∧ ((chained 1 33 32).linkOn = true ∧ (chained 1 33 32).kiln.raised = [] ∧ (chained 1 33 32).linkReset 4 = false ∧ (chained 1 33 32).chain.rxFrame < 33 ∧ (chained 1 33 32).linkState = 1)
    ∧ (chainGood (sentWords 33) true = true)
    ∧ (chainGood [] true = false ∧ Heard (chained 1 33 32) (mkMsg 0 0 kChainCrc 0 0 (max 8200 (34 * 256) / 4096)) ∧ (chained 1 33 32).kindLimit kChainCrc = 0)
    ∧ ((chained 1 32 32).chain.txFrame ≤ (chained 1 32 32).chain.rxFrame) := by
  unfold Heard
  refine ⟨?_, ?_, ?_, ?_, ?_⟩ <;> decide +kernel

theorem witness_ChainTimes :
    ((aligning 1).mayAdopt = true ∧ (aligning 1).chain.enteredRun = false)
    ∧ ((aligning 0).mayAdopt = false)
    ∧ ((startsAt 40 0x11 1).isReady = true ∧ (startsAt 40 0x11 1).chain.starts = [(40, 0x11)] ∧ (startsAt 40 0x11 1).tmr.length = 4 ∧ (startsAt 40 0x11 1).tcl.length = 3 ∧ 40 + 4 < 16 * (startsAt 40 0x11 1).lastBlock + 16 ∧ bit ((startsAt 40 0x11 1).regN bTIMER 4) 0 = true)
    ∧ (bit ((startsAt 40 0x11 0).regN bTIMER 4) 0 = false)
    ∧ (16 * (startsAt 44 0x11 1).lastBlock + 16 ≤ 44 + 4) := by
  refine ⟨?_, ?_, ?_, ?_, ?_⟩ <;> decide +kernel

/-! ### Witnesses: the Kiln, supplies, clocks, reset, start -/

/-- A message of kind GRIST_PORT in a class, from the store, and one from the analog die's own detectors. -/
def told (cls : Nat) : BitVec 64 := mkMsg 2 3 kGristPort cls 0 0
def dieMsg (cls : Nat) : BitVec 64 := mkMsg 2 1 kSupply cls 0 0
def quiet : State := { rdy with regs := [(0x0A0154, 0)] }
def heldQuiet : State := { held with regs := [(0x0A0154, 0)] }
def acted : State := { rdy with regs := [(0x0A0154, 0x52)] }
def actedHeld : State := { held with regs := [(0x0A0154, 0x52)] }
def limited : State := { rdy with regs := [(0x0A0154, 0x00050000)], kiln.c0Win := [(kGristPort, 1)] }

/-- Kinds whose messages make their unit do something of its own. -/
def unitKinds : List Nat := [kVpeCheck, kClusterMixer, kMemUncorrectable, kSwitchHalf, kRegionQuarantine, kDieLink, kCpuCheck, kCopyCompare, kCopperCore]
/-- Lane 1 of the die link; copies of a unit built twice, of which the other one is disabled already in `lastLeft`. -/
def laneMsg : BitVec 64 := mkMsg 2 0 kDieLink 1 1 0
def copyMsg : BitVec 64 := mkMsg 5 14 kCopyCompare 1 1 0
def lastLeft : State := { quiet with mash.disabled := [15] }

theorem witness_KilnMessages :
    (Heard quiet (told 1) ∧ msgClass (told 1) = 1 ∧ msgKind (told 1) ∉ unitKinds ∧ FreeSet quiet (told 1))
    ∧ (Heard heldQuiet (told 2) ∧ msgClass (told 2) = 2 ∧ heldQuiet.kiln.cap.valid = true ∧ heldQuiet.kiln.ready = [] ∧ heldQuiet.kindAction (msgKind (told 2)) = 0)
    ∧ (Heard acted (told 1) ∧ acted.kiln.cap.valid = false ∧ acted.kindAction (msgKind (told 1)) ≠ 0 ∧ acted.kiln.safe = false ∧ acted.kiln.acts.length < 8 ∧ acted.kiln.ready = [])
    ∧ (Heard actedHeld (told 1) ∧ actedHeld.kiln.cap.valid = true ∧ actedHeld.kindAction (msgKind (told 1)) ≠ 0 ∧ actedHeld.kiln.safe = false)
    ∧ (Heard quiet (told 0) ∧ msgClass (told 0) = 0 ∧ quiet.kindLimit (msgKind (told 0)) = 0)
    ∧ (Heard limited (told 0) ∧ limited.kindLimit (msgKind (told 0)) ≠ 0 ∧ sget (fun _ => 0) limited.kiln.c0Win (msgKind (told 0)) + 1 ≤ limited.kindLimit (msgKind (told 0)))
    ∧ (Heard quiet (told 3) ∧ msgClass (told 3) = 3 ∧ quiet.kiln.safe = false ∧ quiet.fw.diag = none ∧ quiet.kiln.cap.valid = false ∧ quiet.pwr.latch = none) := by
  unfold Heard FreeSet
  refine ⟨?_, ?_, ?_, ?_, ?_, ?_, ?_⟩ <;> decide +kernel
theorem witness_KilnMessages_units :
    (Heard quiet laneMsg ∧ msgKind laneMsg = kDieLink ∧ msgLevel laneMsg = 2 ∧ msgClass laneMsg = 1 ∧ FreeSet quiet laneMsg)
    ∧ (Heard quiet copyMsg ∧ msgKind copyMsg = kCopyCompare ∧ msgLevel copyMsg = 5 ∧ msgIndex copyMsg = 14 ∧ msgDetail copyMsg % 2 = 1 ∧ msgClass copyMsg = 1 ∧ quiet.mash.disabled = [] ∧ FreeSet quiet copyMsg)
    ∧ (Heard lastLeft copyMsg ∧ lastLeft.mash.disabled.contains (otherCopy 14) = true ∧ lastLeft.kiln.safe = false ∧ lastLeft.fw.diag = none ∧ lastLeft.kiln.cap.valid = false ∧ lastLeft.pwr.latch = none ∧ Heard lastLeft (mkMsg 5 14 kLastCopy 3 kCopyCompare (blockOf lastLeft.time))) := by
  unfold Heard FreeSet
  refine ⟨?_, ?_, ?_⟩ <;> decide +kernel

theorem witness_KilnUnheard :
    (State.reset.kiln.raised = [] ∧ kindReserved (msgKind (mkMsg 2 3 0xFF 1 0 0)) = true ∧ State.reset.isReady = false)
    ∧ (State.reset.isReady = false ∧ kindReserved (msgKind (told 1)) = false ∧ msgLevel (told 1) ≤ 5 ∧ ¬ (msgClass (told 1) = 3 ∧ msgLevel (told 1) = 2 ∧ msgIndex (told 1) = 1))
    ∧ (State.reset.isReady = false ∧ kindReserved (msgKind (dieMsg 3)) = false ∧ msgClass (dieMsg 3) = 3 ∧ msgLevel (dieMsg 3) = 2 ∧ msgIndex (dieMsg 3) = 1 ∧ State.reset.pwr.latch = none)
    ∧ (({ State.reset with pwr.latch := some (dieMsg 3, 5) } : State).pwr.latch ≠ none)
    ∧ ((windowed true 0).kiln.raised = [] ∧ (windowed true 0).masked (told 1) = true ∧ msgClass (told 1) ≠ 3)
    ∧ (quiet.isReady = true ∧ quiet.masked (told 0) = false ∧ msgClass (told 0) = 0)
    ∧ ((windowed false 1).isReady = true ∧ (windowed false 1).masked (told 1) = false ∧ (windowed false 1).consequential (told 1) = true ∧ (windowed false 1).kiln.log.length < 1024 ∧ msgKind (told 1) ∉ unitKinds) := by
  refine ⟨?_, ?_, ?_, ?_, ?_, ?_, ?_⟩ <;> decide +kernel

theorem witness_KilnTimers :
    (actDue.isReady = true ∧ actDue.kiln.raised = [] ∧ actDue.firstAct = some (oneAct 9000) ∧ 9000 < 4096 * (actDue.lastBlock + 1) ∧ (∀ x ∈ actDue.kiln.acts ++ actDue.kiln.ready, x.action ≠ actSafe))
    ∧ (∃ w ∈ (windowed true 4).kiln.windows, w.target = 4 ∧ w.inReset = true)
    ∧ (∃ w ∈ (windowed true 1).kiln.windows, w.target = 1 ∧ w.inReset = true)
    ∧ (∃ w ∈ (windowed true 8).kiln.windows, w.target = 8 ∧ w.inReset = true)
    ∧ (∃ w ∈ (windowed true 9).kiln.windows, w.target = 9 ∧ w.inReset = true)
    ∧ (∀ w ∈ (windowed true 4).kiln.windows, w.target = 5 → w.inReset = false)
    ∧ ((windowed false 4).isReady = true) := by
  refine ⟨?_, ?_, ?_, ?_, ?_, ?_, ?_⟩ <;> decide +kernel

def beatLate : State := { rdy with time := 4096 * 70, lastBlock := 70 }
def beatMsg : BitVec 64 := mkMsg 2 0 kFwHeartbeat 1 0 0
def readback (pin cls access : Nat) : BitVec 64 := mkMsg 1 pin kPinReadback cls access 0
def breakMsg : BitVec 64 := mkMsg 0 (chained 1 32 32).ownPosition kChainBreak 1 1 ((chained 1 32 32).time / 4096)
def tdmQuiet : State := { tdmOut 0x000FF2B7 with kiln.windows := [] }
def latchedOnly : State := { rdy with pwr.latch := some (told 3, 5) }

theorem witness_AliveAndHeartbeat :
    (rdy.isReady = true ∧ rdy.pwr.aliveNext = some 9000 ∧ 9000 < 4096 * (rdy.lastBlock + 1) ∧ rdy.host.aliveCfg.getLsbD 0 = true ∧ rdy.kiln.hbMissed = none ∧ rdy.kiln.safe = false)
    ∧ (¬ (safeState.kiln.safe = false) ∧ safeState.pwr.aliveNext = some 9000 ∧ safeState.isReady = true)
    ∧ (beatLate.kiln.hbMissed = none ∧ beatLate.kiln.hbLast + bits (beatLate.regN bKILN 0) 8 8 * 24576 < 4096 * (beatLate.lastBlock + 1) ∧ Heard beatLate beatMsg ∧ FreeSet beatLate beatMsg)
    ∧ (watched.kiln.raised = [] ∧ watched.kiln.hbMissed ≠ none)
    ∧ (rdy.pwr.dieWatch = true ∧ rdy.kiln.safe = false ∧ rdy.fw.diag = none ∧ rdy.pwr.latch = none)
    ∧ (State.reset.pwr.dieWatch = false) := by
  unfold Heard FreeSet
  refine ⟨?_, ?_, ?_, ?_, ?_, ?_⟩ <;> decide +kernel

theorem witness_PinReadback :
    (rdy.padCompared 4 = true ∧ Heard rdy (readback 4 1 1) ∧ FreeSet rdy (readback 4 1 1))
    ∧ (latchedOnly.padCompared 5 = true ∧ Heard latchedOnly (readback 5 1 0) ∧ FreeSet latchedOnly (readback 5 1 0))
    ∧ (tdmQuiet.padCompared 3 = true ∧ Heard tdmQuiet (readback 3 3 1) ∧ tdmQuiet.kiln.safe = false ∧ tdmQuiet.fw.diag = none ∧ tdmQuiet.kiln.cap.valid = false ∧ tdmQuiet.pwr.latch = none)
    ∧ ((chained 1 32 32).padCompared 7 = true ∧ Heard (chained 1 32 32) breakMsg ∧ FreeSet (chained 1 32 32) breakMsg)
    ∧ (rdy.kiln.raised = [] ∧ rdy.padCompared 0 = false ∧ rdy.padCompared 8 = false) := by
  unfold Heard FreeSet
  refine ⟨?_, ?_, ?_, ?_, ?_⟩ <;> decide +kernel

def beatGone : State := { watched with lastBlock := 200, time := 4096 * 200 }
def lowMsg (code : Nat) : BitVec 64 := mkMsg 2 1 kSupply 1 code 0
def clockMsg (cls : Nat) : BitVec 64 := mkMsg 2 1 kClock cls 0 0
def warnedRail : State := { rdy with pwr.warned := rdy.pwr.warned.set 3 true }
def driven : State := { rdy with pwr.driveLow := true }

theorem witness_PinsInReset : State.reset.pwr.phase = .inReset ∧ (0 ≠ 1 ∨ State.reset.part.variant ≠ .qk1024n) := by decide +kernel
theorem witness_ResetWays :
    (rdy.pwr.phase ≠ .standby)
    ∧ (HostHears armed ∧ armed.armed = true)
    ∧ (beatGone.isReady = true ∧ beatGone.kiln.hbMissed = some 5 ∧ bits (beatGone.regN bKILN 0) 16 16 = 1 ∧ 5 + 1 * 24576 < 4096 * (beatGone.lastBlock + 1))
    ∧ (250 < 251 ∧ rdy.pwr.driveLow = false)
    ∧ (250 < 5000 ∧ driven.pwr.driveLow = true ∧ 5000 ≤ 5000)
    ∧ (149 < 150 ∧ 150 ≤ 250) := by
  unfold HostHears
  refine ⟨?_, ?_, ?_, ?_, ?_, ?_⟩ <;> decide +kernel

theorem witness_SupplyWarnings :
    (rdy.kiln.raised = [] ∧ State.reset.kiln.raised = [] ∧ warnedRail.kiln.raised = [])
    ∧ (Heard rdy (lowMsg 3) ∧ FreeSet rdy (lowMsg 3) ∧ nthB rdy.pwr.warned 3 = false)
    ∧ (Heard rdy (lowMsg 7) ∧ FreeSet rdy (lowMsg 7))
    ∧ (nthB warnedRail.pwr.warned 3 = true)
    ∧ (State.reset.isReady = false)
    ∧ (Heard rdy (lowMsg 11) ∧ FreeSet rdy (lowMsg 11)) := by
  unfold Heard FreeSet
  refine ⟨?_, ?_, ?_, ?_, ?_, ?_⟩ <;> decide +kernel

def backupFitted : State := { rdy with pwr.shadow.refBackup := 1 }

theorem witness_StartAndReference :
    (inResetUp.pwr.phase = .inReset ∧ (∀ x ∈ inResetUp.pwr.railLow, x = false) ∧ inResetUp.part.caskBad = false ∧ inResetUp.pwr.latch = none)
    ∧ (State.reset.pwr.phase = .inReset ∧ true ∈ State.reset.pwr.railLow)
    ∧ ((released none).pwr.phase ≠ .inReset ∧ (released none).pwr.phase ≠ .standby ∧ (released none).pwr.refUsed = none ∧ (released none).pwr.phase = .released)
    ∧ ((onPrimary none).pwr.phase ≠ .inReset ∧ (onPrimary none).pwr.phase ≠ .standby ∧ (onPrimary none).pwr.refUsed ≠ none)
    ∧ (backupFitted.pwr.shadow.refBackup ≠ 3 ∧ backupFitted.pwr.phase ≠ .inReset ∧ backupFitted.pwr.refUsed = none ∧ backupFitted.pwr.phase ≠ .released)
    ∧ ((onPrimary none).pwr.refUsed ≠ some false)
    ∧ (onBackup.pwr.qualP = some 5 ∧ onBackup.clocked = true ∧ onBackup.pwr.refUsed ≠ some true ∧ 5 + 24576000 ≤ onBackup.time ∧ onBackup.time % 4096 = 0)
    ∧ ((onPrimary none).pwr.qualP = some 5 ∧ (onPrimary none).time < 5 + 24576000) := by
  refine ⟨?_, ?_, ?_, ?_, ?_, ?_, ?_, ?_⟩ <;> decide +kernel

theorem witness_ReferenceFaults :
    ((onPrimary none).kiln.raised = [] ∧ (onPrimary none).pwr.phase ≠ .standby)
    ∧ (Heard (onPrimary (some 6)) (clockMsg 1) ∧ FreeSet (onPrimary (some 6)) (clockMsg 1) ∧ (onPrimary (some 6)).pwr.refUsed = some true ∧ (onPrimary (some 6)).pwr.qualB ≠ none)
    ∧ (Heard (onPrimary none) (clockMsg 1) ∧ FreeSet (onPrimary none) (clockMsg 1) ∧ (onPrimary none).pwr.qualB = none)
    ∧ (Heard onBackup (clockMsg 1) ∧ FreeSet onBackup (clockMsg 1) ∧ onBackup.pwr.refUsed = some false)
    ∧ (onBackup.pwr.mainLoop = true ∧ onBackup.pwr.standbyLoop = true)
    ∧ ((holding 5).pwr.holdover = some 5 ∧ (holding 5).pwr.holdTold = false ∧ 5 + 245760000 ≤ (holding 5).time ∧ (holding 5).pwr.qualP = none ∧ (holding 5).pwr.qualB = none ∧ Heard (holding 5) (clockMsg 2) ∧ FreeSet (holding 5) (clockMsg 2))
    ∧ ((holding 300000000).pwr.holdover = some 300000000 ∧ (holding 300000000).time < 300000000 + 245760000) := by
  unfold Heard FreeSet
  refine ⟨?_, ?_, ?_, ?_, ?_, ?_, ?_⟩ <;> decide +kernel

def lockedState (s : State) : State := { s with pwr.phase := .locked, lastBlock := s.time / 4096 }

theorem witness_PllLockBoots :
    ((anchored 0).pwr.phase = .released ∧ (anchored 0).pwr.refUsed ≠ none ∧ (lockedState (anchored 0)).findAnchor = some ⟨0, 0, 5, 0, false⟩)
    ∧ ((lockedState (anchored 1)).findAnchor = some ⟨0, 1, 5, 0, false⟩)
    ∧ ((released (some true)).pwr.phase = .released ∧ (lockedState (released (some true))).findAnchor = none) := by
  refine ⟨?_, ?_, ?_⟩ <;> decide +kernel

theorem witness_ReadyState :
    (locked.pwr.phase = .locked ∧ locked.pwr.debugHalt = false ∧ locked.pwr.wakeCause = none ∧ locked.pwr.latch = none ∧ locked.store.ports.length = 2 ∧ locked.kiln.raised = [])
    ∧ ((⟨true, 20, 27⟩ : PortSetup).meets = true ∧ 8 ≤ 20 ∧ 20 ≤ 30 ∧ 26 ≤ 27 ∧ 27 ≤ 31 ∧ locked.part.variant ≠ .qk1024n) := by
  refine ⟨?_, ?_⟩ <;> decide +kernel

theorem witness_WakeAndTap : (wakeable.pwr.phase = .standby ∧ nthB wakeable.pwr.railLow 2 = false ∧ WakeComp.mk 2 1 ∈ wakeable.pwr.wakeSet) ∧ WakeComp.mk 2 1 ∉ rdy.pwr.wakeSet
    ∧ TapInstr.sample ∈ [TapInstr.bypass, .idcode, .sample] ∧ TapInstr.clamp ∈ [TapInstr.extest, .clamp, .highz] ∧ HostHears rdy ∧ rdy.pwr.phase ≠ .standby := by
  unfold HostHears
  decide +kernel

end Sys2Proof.Tests
end

section
/-! How a command ends. Every row of the table closes its work with `State.done`, which puts back the queue and what the factory
fixed; the rows differ in what comes before. -/
namespace Sys2Proof.Machine

/-- What the dispatch can answer: the row of a Copper instruction, an ending at which the Kiln takes the messages raised, or
`State.done` itself. -/
theorem exec_endings (i : Instr) (s : State) :
    (∃ eff, exec i s = s.copperRow i eff) ∨ (∃ t, exec i s = s.ends t) ∨ ∃ t, exec i s = s.done t := by
  cases i with
  | cNop | cMpy | cMac | cMsu | cCmpy | cCmac | cCmsu | cCmacj | cAdd | cSub | cAdds | cSubs | cAnd | cOr | cXor | cAbs | cSha
  | cShl | cAadd | cAsub | cAsh | cRnd | cClr | cCmp | cTsta | cMaxi | cMini | cMvc
  | cLdi | cMv | cLdx | cLdy | cStx | cSty | cLdio | cStio | cPush | cPop
  | cBr | cCall | cRet | cReti | cLoop | cRep | cWfr =>
    dsimp only [exec]
    exact .inl ⟨_, rfl⟩
  | takeDoorbell | takingResume | uartFrame | diagStart
  | bankLoadDone | svtLoadDone | wtLoadDone | gristCommitDone | gristReadDone | copperLoadDone | gristReadComplete | gristPort
  | blockBoundary | voiceBlock | voiceBlockRetry | twinCompare | twinRecompute | deviceMix
  | chainFrameTransmit | chainFrameReceive | spargeStage1Output | spargeFineValue | thresholdChange
  | kilnMessage | actionDeadline | fwHeartbeat | pinReadback
  | supplyThreshold | comparatorDisagreement | ready | referenceLoss | holdoverTimeout | pllLoopFail
  | memoryScrub | atomicAdd | atomicSwap | bankPowerUpEnd | bankClearDone => exact .inr (.inl ⟨_, rfl⟩)
  | _ => exact .inr (.inr ⟨_, rfl⟩)

/-- Settles O2: each ending is `State.done` of some state, which answers a next state with the queue and the part as they stood. -/
theorem everyCommandCompletes : Obligations.EveryCommandCompletes := by
  unfold Obligations.EveryCommandCompletes
  intro i s
  obtain ⟨eff, h⟩ | ⟨t, h⟩ | ⟨t, h⟩ := exec_endings i s <;> exact ⟨_, h, rfl, rfl⟩

end Sys2Proof.Machine
end

section
/-! The step: the queue's front, or one tick of device time. -/
namespace Sys2Proof.Machine

/-- An idle part ticks while its time runs (R610, log 1). -/
theorem tick_of_running (s : State) (hc : s.clocked = true) (hp : s.pwr.phase ≠ .standby) : s.tick = { s with time := s.time + 1 } := by
  unfold State.tick
  rw [if_pos (by simp [hc, hp])]

/-- An idle part whose time stands stays as it is (R618). -/
theorem tick_of_stopped (s : State) (h : s.clocked = false ∨ s.pwr.phase = .standby) : s.tick = s := by
  unfold State.tick
  rw [if_neg (by rcases h with h | h <;> simp [h])]

theorem step_idle (s : State) (h : s.pending = []) : step s = .next s.tick := by
  unfold step
  rw [h]

/-- Settles O1: the front of the queue runs; an empty queue leaves the tick. -/
theorem stepTakesFront : Obligations.StepTakesFront := by
  unfold Obligations.StepTakesFront
  intro s c rest
  refine ⟨rfl, fun hq hc hp => ?_, fun hq h => ?_⟩
  · rw [step_idle s hq, tick_of_running s hc hp]
  · rw [step_idle s hq, tick_of_stopped s h]

end Sys2Proof.Machine
end

section
/-! Sparse data by their entries, and a message of class C0 on its way into the log. -/
namespace Sys2Proof.Machine

@[simp] theorem sfind_sinsert_same {α : Type} (m : Sparse α) (k : Nat) (x : α) : sfind (sinsert m k x) k = some x := by
  induction m with
  | nil => simp [sinsert, sfind]
  | cons e m ih =>
    obtain ⟨a, w⟩ := e
    simp only [sinsert]
    split
    · simp [sfind]
    · split
      · simp [sfind]
      · rename_i h; simp [sfind, h, ih]

theorem sfind_sinsert_ne {α : Type} (m : Sparse α) (k j : Nat) (x : α) (h : j ≠ k) : sfind (sinsert m k x) j = sfind m j := by
  induction m with
  | nil => simp [sinsert, sfind, h]
  | cons e m ih =>
    obtain ⟨a, w⟩ := e
    simp only [sinsert]
    split
    · simp [sfind, h]
    · split
      · rename_i e; subst e; simp [sfind, h]
      · simp [sfind, ih]

@[simp] theorem msgKind_mkMsg (level index kind cls detail address : Nat) :
    msgKind (mkMsg level index kind cls detail address) = kind % 64 := by
  unfold msgKind mkMsg bits
  rw [BitVec.toNat_ofNat]
  omega

@[simp] theorem msgClass_mkMsg (level index kind cls detail address : Nat) :
    msgClass (mkMsg level index kind cls detail address) = cls % 4 := by
  unfold msgClass mkMsg bits
  rw [BitVec.toNat_ofNat]
  omega

theorem msgKind_lt (m : BitVec 64) : msgKind m < 64 := Nat.mod_lt _ (by decide)

@[simp] theorem State.noted_pending (s : State) (m : BitVec 64) (a b c : Nat) : (s.noted m a b c).pending = s.pending := rfl
@[simp] theorem State.noted_part (s : State) (m : BitVec 64) (a b c : Nat) : (s.noted m a b c).part = s.part := rfl
theorem State.noted_log (s : State) (m : BitVec 64) (master access flags : Nat) :
    (s.noted m master access flags).kiln.log = s.kiln.log ++ [⟨m, s.time, master, access, flags, 7, s.kiln.seq, false⟩] := rfl

theorem State.noted_cap (s : State) (m : BitVec 64) (master access flags : Nat) :
    (s.noted m master access flags).kiln.cap = s.kiln.cap := rfl

/-- What a message counts is no register of the configuration of its kind (R349). -/
theorem kindLimit_noted (s : State) (m : BitVec 64) (master access flags k : Nat) (hk : k < 64) :
    (s.noted m master access flags).kindLimit k = s.kindLimit k := by
  have h : regKey bKILN (0x100 + 4 * k) ≠ regKey bKILN (0x200 + 4 * msgKind m) := by
    have := msgKind_lt m
    unfold regKey
    omega
  have e : (s.noted m master access flags).reg bKILN (0x100 + 4 * k) = s.reg bKILN (0x100 + 4 * k) := State.reg_setReg_ne s _ _ _ _ _ h
  unfold State.kindLimit State.regN
  rw [e]

/-- A log that is not full takes a record at its end (R330). -/
theorem logRecord_room (s : State) (m : BitVec 64) (time master access flags : Nat) (h : s.kiln.log.length < 1024) :
    s.logRecord m time master access flags =
      { s with
        kiln.log := s.kiln.log ++ [⟨m, time, master, access, flags, 7, s.kiln.seq, false⟩]
        kiln.seq := (s.kiln.seq + 1) % 2 ^ 32 } := by
  have hfull : decide (1024 ≤ s.kiln.log.length) = false := decide_eq_false (by omega)
  unfold State.logRecord
  simp only [hfull, Bool.false_eq_true, if_false]

@[simp] theorem countMsg_kiln (s : State) (m : BitVec 64) : (s.countMsg m).kiln = s.kiln := by
  unfold State.countMsg
  dsimp only
  split <;> rfl

/-- A kind without a C0 limit raises no C0_RATE message (R336). -/
theorem c0Rate_unlimited (s : State) (m : BitVec 64) (master access : Nat) (h : s.kindLimit (msgKind m) = 0) :
    s.c0Rate m master access = s := by
  unfold State.c0Rate
  dsimp only
  rw [if_pos (by simp [h])]

/-- A C0 message that passes the windows is counted and logged (R330). -/
theorem takeMsg_c0 (s : State) (m : BitVec 64) (master access : Nat) (hm : s.masked m = false) (hc : s.consequential m = false)
    (h0 : msgClass m = 0) (hroom : s.kiln.log.length < 1024) : s.takeMsg m master access = s.noted m master access 0 := by
  unfold State.takeMsg
  rw [if_neg (by simp [hm]), if_neg (by simp [hc]), if_pos h0, logRecord_room _ _ _ _ _ _ (by simpa using hroom)]
  unfold State.countMsg State.noted
  dsimp only
  rw [if_pos h0, if_pos h0]
  rfl

/-- A C0 message that is heard is counted and logged, and nothing else happens where its kind has no limit (R330, R336). -/
theorem hear_report_c0 (s : State) (m : BitVec 64) (master access : Nat) (h : Heard s m) (h0 : msgClass m = 0)
    (hk : s.kindLimit (msgKind m) = 0) : (s.report m master access).hear = s.noted m master access 0 := by
  obtain ⟨hready, hquiet, hkind, hlevel, hmask, hcons, hroom⟩ := h
  rw [hear_report s m master access hready hquiet hkind hlevel, takeMsg_c0 s m master access hmask hcons h0 hroom,
    c0Rate_unlimited]
  rw [kindLimit_noted _ _ _ _ _ _ (msgKind_lt m), hk]

end Sys2Proof.Machine
end

section
/-! What a released voice-block changes: sums or twin results, the stream store, the starvation counts, its voice. -/
namespace Sys2Proof.Machine

/-- Reads that are taken up, queued or posted change the store alone. -/
theorem addRead_eq (s : State) (st : Stream) (tier deadline : Nat) (fs : List Nat) (again : Bool) :
    ∃ d, s.addRead st tier deadline fs again = { s with store := d } := by
  unfold State.addRead
  split
  · exact ⟨_, rfl⟩
  · exact ⟨_, rfl⟩

theorem postStream_eq (s : State) (c : Ctx) (i n m : Nat) (st : Stream) (o : OscState) :
    ∃ d, s.postStream c i n m st o = { s with store := d } := by
  unfold State.postStream State.queueRead
  split
  · exact ⟨_, rfl⟩
  · exact ⟨_, (addRead_eq _ _ _ _ _ _).choose_spec⟩

/-- A voice's posts change the store alone (R86). -/
theorem postVoice_eq (s : State) (v : Nat) (twin : Option Nat) (c : Ctx) (n m : Nat) :
    ∃ d, s.postVoice v twin c n m = { s with store := d } := by
  unfold State.postVoice
  induction List.range 4 generalizing s with
  | nil => exact ⟨_, rfl⟩
  | cons i is ih =>
    rw [List.foldl_cons]
    dsimp only
    split
    · split
      · obtain ⟨d, e⟩ := postStream_eq s c i n m ‹_› (c.osc.getD i OscState.reset)
        obtain ⟨d', e'⟩ := ih { s with store := d }
        exact ⟨d', by rw [e]; exact e'⟩
      · exact ih s
    · exact ih s

/-- Starvation counts in GRIST's register and in a lifetime counter (R87). -/
theorem countStarved_eq (s : State) (twin : Option Nat) (is : List Nat) :
    ∃ r l, s.countStarved twin is = { s with regs := r, pwr.life := l }
      ∧ ∀ b o, regKey b o ≠ regKey bGRIST 0x34 → ({ s with regs := r } : State).reg b o = s.reg b o := by
  unfold State.countStarved
  dsimp only
  generalize (List.filter _ is).length = k
  split
  · exact ⟨_, _, rfl, fun _ _ _ => rfl⟩
  · exact ⟨_, _, rfl, fun b o h => State.reg_setReg_ne s _ _ _ _ _ h⟩

/-- The voice behind a block that passed its check: the old context is the checkpoint (R297). -/
def Voice.passed (x : Voice) (ctx : Ctx) (peak : Nat) : Voice :=
  { x with
    ctx := ctx
    ckpt := x.ctx
    ckptAt := some x.next
    next := x.next + 1
    failed := none
    peak := peak
    ckptBad := false }

/-- The sums and the waiting twin results once a block of the voice is released (R37, R307), none of it where it is late (R28). -/
def State.withSends (s : State) (v : Nat) (x : Voice) (sends : List (List Int)) (ctx : Ctx) : State :=
  if x.next + 2 ≤ s.lastBlock then s else
  match x.twin with
  | some w =>
    { s with mash.twins := s.mash.twins ++ [⟨x.next, v, w, x.session, sends, ctx, false, false,
        s.mash.twins.any fun r => r.v == w && r.block == x.next && r.released, false⟩] }
  | none => s.addSends x.next (logicalOf v) x.session x.ctx.recipe sends

theorem addSends_eq (s : State) (n l sess : Nat) (r : Recipe) (sends : List (List Int)) :
    ∃ z, s.addSends n l sess r sends = { s with mash.sums := z } := by
  unfold State.addSends
  dsimp only
  split <;> exact ⟨_, rfl⟩

/-- A cluster's first sends of a block are its sums. -/
theorem addSends_first (s : State) (n l sess : Nat) (r : Recipe) (sends : List (List Int))
    (h : ∀ z ∈ s.mash.sums, ¬ (z.block = n ∧ z.cluster = l)) :
    (s.addSends n l sess r sends).mash.sums = s.mash.sums ++ [ClusterSum.mk n l (sendBlock r (s.guarded sess n sends))] := by
  have none : (s.mash.sums.any fun x => x.block == n && x.cluster == l) = false := by
    rw [List.any_eq_false]
    intro z hz
    simpa using h z hz
  unfold State.addSends
  dsimp only
  rw [if_neg (by rw [none]; decide)]

/-- The guards' factors are judged by the chain and its registers (R599). -/
theorem guarded_congr (s t : State) (sess n : Nat) (sends : List (List Int)) (hc : t.chain = s.chain)
    (hr : ∀ o, t.reg bCHAIN o = s.reg bCHAIN o) : t.guarded sess n sends = s.guarded sess n sends := by
  have hs : t.guardSession = s.guardSession := by
    funext q
    unfold State.guardSession State.regN
    rw [hr]
  have ht : t.taken = s.taken := by
    funext q
    unfold State.taken State.regN
    rw [hr]
  unfold State.guarded State.guardGain
  rw [hc, hs, ht]

theorem addSends_congr (s t : State) (n l sess : Nat) (r : Recipe) (sends : List (List Int)) (hm : t.mash.sums = s.mash.sums)
    (hc : t.chain = s.chain) (hr : ∀ o, t.reg bCHAIN o = s.reg bCHAIN o) :
    (t.addSends n l sess r sends).mash.sums = (s.addSends n l sess r sends).mash.sums := by
  unfold State.addSends
  dsimp only
  rw [hm, guarded_congr s t sess n sends hc hr]
  split <;> rfl

theorem withSends_eq (s : State) (v : Nat) (x : Voice) (sends : List (List Int)) (ctx : Ctx) :
    ∃ z w, s.withSends v x sends ctx = { s with mash.sums := z, mash.twins := w } := by
  unfold State.withSends
  split
  · exact ⟨_, _, rfl⟩
  · split
    · exact ⟨_, _, rfl⟩
    · obtain ⟨z, e⟩ := addSends_eq s x.next (logicalOf v) x.session x.ctx.recipe sends
      exact ⟨z, _, e⟩

/-- Sends that join, or wait, are judged by the sums, the results that wait, and the guards. -/
theorem withSends_congr (s t : State) (v : Nat) (x : Voice) (sends : List (List Int)) (ctx : Ctx) (hs : t.mash.sums = s.mash.sums)
    (ht : t.mash.twins = s.mash.twins) (hb : t.lastBlock = s.lastBlock) (hc : t.chain = s.chain)
    (hr : ∀ o, t.reg bCHAIN o = s.reg bCHAIN o) :
    (t.withSends v x sends ctx).mash.sums = (s.withSends v x sends ctx).mash.sums
      ∧ (t.withSends v x sends ctx).mash.twins = (s.withSends v x sends ctx).mash.twins := by
  unfold State.withSends
  rw [hb]
  split
  · exact ⟨hs, ht⟩
  · split
    · rw [ht]
      exact ⟨hs, rfl⟩
    · obtain ⟨z, hz⟩ := addSends_eq s x.next (logicalOf v) x.session x.ctx.recipe sends
      obtain ⟨y, hy⟩ := addSends_eq t x.next (logicalOf v) x.session x.ctx.recipe sends
      refine ⟨addSends_congr s t _ _ _ _ _ hs hc hr, ?_⟩
      rw [hz, hy]
      exact ht

/-- A voice whose position no ending voice holds takes its place among the sounding ones. -/
theorem setVoice_sounding (s : State) (v : Nat) (x : Voice) (h : sfind s.mash.ending v = none) :
    s.setVoice v x = { s with mash.voices := sinsert s.mash.voices v x } := by
  unfold State.setVoice
  rw [if_neg (by simp [h])]

/-- A block that passed its check: its voice moves on, its sends join or wait, and besides that only the stream store, GRIST's
starvation count and its lifetime counter move (R37, R86, R87, R297). -/
theorem release_pass (s : State) (v : Nat) (x : Voice) (h : sfind s.mash.ending v = none) :
    let b := voiceBlock (s.viewOf v x.twin x.prio x.next) x.ctx
    ∃ r l d, (∀ blk o, regKey blk o ≠ regKey bGRIST 0x34 → ({ s with regs := r } : State).reg blk o = s.reg blk o)
      ∧ s.release v x .pass = { s with
          regs := r
          pwr.life := l
          store := d
          mash.voices := sinsert s.mash.voices v (x.passed b.ctx b.peak)
          mash.sums := (s.withSends v x b.sends b.ctx).mash.sums
          mash.twins := (s.withSends v x b.sends b.ctx).mash.twins } := by
  intro b
  obtain ⟨r, l, hs, hr⟩ := countStarved_eq s x.twin b.starved
  obtain ⟨d, hp⟩ := postVoice_eq { s with regs := r, pwr.life := l } v x.twin b.ctx x.next 32
  refine ⟨r, l, d, hr, ?_⟩
  let u : State := { s with regs := r, pwr.life := l, store := d }
  obtain ⟨hz, hw⟩ := withSends_congr s u v x b.sends b.ctx rfl rfl rfl rfl fun o => hr bCHAIN o (by unfold regKey bCHAIN bGRIST; omega)
  have hu : s.release v x .pass = (u.withSends v x b.sends b.ctx).setVoice v (x.passed b.ctx b.peak) := by
    show (State.setVoice (if x.next + 2 ≤ _ then _ else _) v _) = _
    rw [show s.countStarved x.twin (voiceBlock (s.viewOf v x.twin x.prio x.next) x.ctx).starved = _ from hs, hp]
    rfl
  obtain ⟨z, w, e⟩ := withSends_eq u v x b.sends b.ctx
  rw [hu, ← hz, ← hw, e]
  exact setVoice_sounding _ _ _ h

/-- `t` is `s` with the voice moved on by a block that passed its check, and the block's sends where they go (R37, R297, R307). -/
structure MovedOn (s t : State) (v : Nat) (x : Voice) : Prop where
  voices : t.mash.voices = sinsert s.mash.voices v
    (x.passed (voiceBlock (s.viewOf v x.twin x.prio x.next) x.ctx).ctx (voiceBlock (s.viewOf v x.twin x.prio x.next) x.ctx).peak)
  sums  : t.mash.sums = (s.withSends v x (voiceBlock (s.viewOf v x.twin x.prio x.next) x.ctx).sends
    (voiceBlock (s.viewOf v x.twin x.prio x.next) x.ctx).ctx).mash.sums
  twins : t.mash.twins = (s.withSends v x (voiceBlock (s.viewOf v x.twin x.prio x.next) x.ctx).sends
    (voiceBlock (s.viewOf v x.twin x.prio x.next) x.ctx).ctx).mash.twins
  units : t.host = s.host ∧ t.fw = s.fw ∧ t.hop = s.hop ∧ t.cop = s.cop ∧ t.mem = s.mem ∧ t.chain = s.chain ∧ t.sns = s.sns
    ∧ t.tbs = s.tbs
  time  : t.time = s.time

theorem MovedOn.release (s : State) (v : Nat) (x : Voice) (h : sfind s.mash.ending v = none) : MovedOn s (s.release v x .pass) v x := by
  obtain ⟨r, l, d, -, e⟩ := release_pass s v x h
  rw [e]
  exact ⟨rfl, rfl, rfl, ⟨rfl, rfl, rfl, rfl, rfl, rfl, rfl, rfl⟩, rfl⟩

/-- The slots that a VPE has used are no part of what its blocks read (R295). -/
theorem MovedOn.of_useSlot {s t : State} {v : Nat} {x : Voice} (h : MovedOn (s.useSlot v) t v x) : MovedOn s t v x := by
  obtain ⟨hs, ht⟩ := withSends_congr s (s.useSlot v) v x (voiceBlock (s.viewOf v x.twin x.prio x.next) x.ctx).sends
    (voiceBlock (s.viewOf v x.twin x.prio x.next) x.ctx).ctx rfl rfl rfl rfl fun _ => rfl
  exact ⟨h.voices, h.sums.trans hs, h.twins.trans ht, h.units, h.time⟩

theorem MovedOn.noted {s t : State} {v : Nat} {x : Voice} (h : MovedOn s t v x) (m : BitVec 64) (master access flags : Nat) :
    MovedOn s (t.noted m master access flags) v x :=
  ⟨h.voices, h.sums, h.twins, h.units, h.time⟩

theorem MovedOn.voice_and_others {s t : State} {v : Nat} {x : Voice} (h : MovedOn s t v x) :
    sfind t.mash.voices v = some (x.passed (voiceBlock (s.viewOf v x.twin x.prio x.next) x.ctx).ctx
        (voiceBlock (s.viewOf v x.twin x.prio x.next) x.ctx).peak)
      ∧ ∀ u, u ≠ v → sfind t.mash.voices u = sfind s.mash.voices u := by
  rw [h.voices]
  exact ⟨sfind_sinsert_same .., fun u hu => sfind_sinsert_ne _ _ _ _ hu⟩

theorem withSends_late (s : State) (v : Nat) (x : Voice) (sends : List (List Int)) (ctx : Ctx) (h : x.next + 2 ≤ s.lastBlock) :
    s.withSends v x sends ctx = s := if_pos h

/-- A voice without a twin: the cluster's sums take its sends. -/
theorem withSends_alone (s : State) (v : Nat) (x : Voice) (sends : List (List Int)) (ctx : Ctx) (h : s.lastBlock < x.next + 2)
    (ht : x.twin = none) : s.withSends v x sends ctx = s.addSends x.next (logicalOf v) x.session x.ctx.recipe sends := by
  unfold State.withSends
  rw [if_neg (by omega), ht]

/-- A twin whose partner has nothing waiting: its result waits at the comparator. -/
theorem withSends_first_twin (s : State) (v w : Nat) (x : Voice) (sends : List (List Int)) (ctx : Ctx) (h : s.lastBlock < x.next + 2)
    (ht : x.twin = some w) (hw : ∀ z ∈ s.mash.twins, z.v ≠ w) :
    s.withSends v x sends ctx =
      { s with mash.twins := s.mash.twins ++ [TwinResult.mk x.next v w x.session sends ctx false false false false] } := by
  have none : (s.mash.twins.any fun r => r.v == w && r.block == x.next && r.released) = false := by
    rw [List.any_eq_false]
    intro z hz
    simp [hw z hz]
  unfold State.withSends
  rw [if_neg (by omega), ht]
  dsimp only
  rw [none]

end Sys2Proof.Machine
end

section
/-! Voice-blocks (R28, R29, R54, R293 to R303): whose turn it is, what a passed one leaves, the retry of a failed one. -/
namespace Sys2Proof.Machine

theorem Voice.ripe_next (x : Voice) : x.ripe.next = x.next := by
  unfold Voice.ripe Voice.endReleased
  split <;> rfl

theorem Voice.ripe_prio (x : Voice) : x.ripe.prio = x.prio := by
  unfold Voice.ripe Voice.endReleased
  split <;> rfl

/-- A voice has its turn when its block is due, it waits, and no voice of its VPE comes first. -/
theorem voiceTurn_some (s : State) (v : Nat) (x : Voice) :
    s.voiceTurn v = some x ↔ s.voiceDue v = some x ∧ s.waiting v x = true ∧ s.outranked v x = false := by
  unfold State.voiceTurn
  simp [Option.filter_eq_some_iff]

/-- One key of R29 that is not before another comes later in the order of its parts. -/
theorem not_dueKey_lt (v w : Nat) (x y : Voice) (h : ¬ dueKey w y < dueKey v x) :
    x.next < y.next ∨ x.next = y.next ∧ (6 ≤ x.prio ∧ y.prio < 6 ∨ (6 ≤ x.prio ↔ 6 ≤ y.prio) ∧ v ≤ w) := by
  unfold dueKey b2n at h
  simp only [List.cons_lt_cons_iff, List.lt_irrefl, decide_eq_true_eq] at h
  split at h <;> split at h <;> omega

/-- The voice whose turn it is comes first of those that wait on its VPE (R29, R54, R303). -/
theorem voiceTurn_first (s : State) (v : Nat) (x : Voice) (h : s.voiceTurn v = some x) (e : Nat × Voice)
    (he : e ∈ s.mash.ending ++ s.mash.voices) (hv : e.1 / 256 = v / 256) (hw : s.waiting e.1 e.2 = true) :
    x.next < e.2.next ∨ x.next = e.2.next ∧ (6 ≤ x.prio ∧ e.2.prio < 6 ∨ (6 ≤ x.prio ↔ 6 ≤ e.2.prio) ∧ v ≤ e.1) := by
  obtain ⟨_, _, hout⟩ := (voiceTurn_some s v x).1 h
  unfold State.outranked at hout
  rw [List.any_eq_false] at hout
  have hk := hout e he
  simp only [hv, hw, beq_self_eq_true, Bool.true_and, decide_eq_true_eq] at hk
  exact not_dueKey_lt v e.1 x e.2 hk

/-- The sends of a block in time join the sums of its cluster, or wait at the comparator (R37, R307). -/
theorem withSends_joins (s : State) (v : Nat) (x : Voice) (sends : List (List Int)) (ctx : Ctx) (h : s.lastBlock < x.next + 2) :
    let t := s.withSends v x sends ctx
    (x.twin = none → (∀ z ∈ s.mash.sums, ¬ (z.block = x.next ∧ z.cluster = logicalOf v)) →
      t.mash.sums = s.mash.sums
          ++ [ClusterSum.mk x.next (logicalOf v) (sendBlock x.ctx.recipe (s.guarded x.session x.next sends))]
        ∧ t.mash.twins = s.mash.twins)
    ∧ (∀ w, x.twin = some w → (∀ z ∈ s.mash.twins, z.v ≠ w) →
      t.mash.twins = s.mash.twins ++ [TwinResult.mk x.next v w x.session sends ctx false false false false]
        ∧ t.mash.sums = s.mash.sums) := by
  intro t
  refine ⟨fun ht hz => ?_, fun w ht hz => ?_⟩
  · have e : t = _ := withSends_alone s v x sends ctx h ht
    obtain ⟨z, ez⟩ := addSends_eq s x.next (logicalOf v) x.session x.ctx.recipe sends
    rw [e]
    exact ⟨addSends_first _ _ _ _ _ _ hz, by rw [ez]⟩
  · have e : t = _ := withSends_first_twin s v w x sends ctx h ht hz
    rw [e]
    exact ⟨rfl, rfl⟩

theorem release_kiln (s : State) (v : Nat) (x : Voice) (h : sfind s.mash.ending v = none) : (s.release v x .pass).kiln = s.kiln := by
  obtain ⟨r, l, d, -, e⟩ := release_pass s v x h
  rw [e]

/-- A failed first attempt keeps its voice for the retry, the context it began with as its checkpoint (R295, R297). -/
theorem attemptFails_waits (s : State) (v : Nat) (x : Voice) (cause lane sample : Nat) (he : sfind s.mash.ending v = none)
    (h : s.slotLeft v = true) :
    s.attemptFails v x cause lane sample none =
      { s with mash.voices := sinsert s.mash.voices v { x with
          ckpt := x.ctx
          ckptAt := some x.next
          ckptBad := false
          failed := some ⟨cause, lane, sample, none, s.nextFailure, none⟩ } } := by
  have hc : s.catchingUp (logicalOf v) = false := by
    unfold State.slotLeft at h
    simp only [Bool.and_eq_true, Bool.not_eq_true'] at h
    exact h.2
  unfold State.attemptFails
  rw [if_neg (by simp [hc]), if_neg (by simp [h])]
  exact setVoice_sounding s v _ he

/-- A retry of a fault outside the rings whose block passes: the block is released, and VPE_CHECK reports a transient (R298). -/
theorem retryRuns_pass (s : State) (v : Nat) (x : Voice) (a : Attempt) (hr : a.ring = none) (hm : a.moved = none)
    (hc : s.noCover (v, x) = false) :
    s.retryRuns v x a .pass = (s.release v x .pass).vpeCheck v x.next 0 a.cause a.lane a.sample := by
  unfold State.retryRuns
  rw [if_neg (by simp [hc])]
  simp [hr, hm]

theorem vpeMsg_kind (s : State) (v n cls cause lane detail : Nat) : msgKind (s.vpeMsg v n cls cause lane detail) = kVpeCheck := by
  unfold State.vpeMsg
  rw [msgKind_mkMsg]
  rfl

theorem vpeMsg_class (s : State) (v n cls cause lane detail : Nat) : msgClass (s.vpeMsg v n cls cause lane detail) = cls % 4 := by
  unfold State.vpeMsg
  rw [msgClass_mkMsg]

theorem exec_voiceBlock_idle (s : State) (v : Nat) (out : VoiceOutcome) (hq : s.kiln.raised = []) (h : s.voiceTurn v = none) :
    exec (.voiceBlock v out) s = .next s := by
  have e : s.voiceBlockStep v out = s := by
    unfold State.voiceBlockStep
    rw [h]
  rw [exec_voiceBlock, execVoiceBlock, e]
  exact ends_quiet s s hq rfl rfl

theorem exec_voiceBlock_pass (s : State) (v : Nat) (x : Voice) (hq : s.kiln.raised = []) (he : sfind s.mash.ending v = none)
    (h : s.voiceTurn v = some x) : exec (.voiceBlock v .pass) s = .next (s.release v x.ripe .pass) := by
  have e : s.voiceBlockStep v .pass = s.release v x.ripe .pass := by
    unfold State.voiceBlockStep
    rw [h]
  obtain ⟨r, l, d, -, er⟩ := release_pass s v x.ripe he
  rw [exec_voiceBlock, execVoiceBlock, e]
  exact ends_quiet s _ (by rw [er]; exact hq) (by rw [er]) (by rw [er])

theorem exec_voiceBlock_fail (s : State) (v : Nat) (x : Voice) (cause lane sample : Nat) (hq : s.kiln.raised = [])
    (he : sfind s.mash.ending v = none) (h : s.voiceTurn v = some x) (hs : s.slotLeft v = true) :
    exec (.voiceBlock v (.fail cause lane sample)) s =
      .next (s.attemptFails v x.ripe (cause % 4) (lane % 8) (sample % 16) none) := by
  have e : s.voiceBlockStep v (.fail cause lane sample) = s.attemptFails v x.ripe (cause % 4) (lane % 8) (sample % 16) none := by
    unfold State.voiceBlockStep
    rw [h]
  rw [exec_voiceBlock, execVoiceBlock, e, attemptFails_waits s v x.ripe _ _ _ he hs]
  exact ends_quiet s _ hq rfl rfl

theorem exec_voiceBlockRetry_idle (s : State) (v : Nat) (out : VoiceOutcome) (hq : s.kiln.raised = []) (h : s.voiceRetry v out = s) :
    exec (.voiceBlockRetry v out) s = .next s := by
  rw [exec_voiceBlockRetry, execVoiceBlockRetry, h]
  exact ends_quiet s s hq rfl rfl

/-- A retry without a failure to repeat does nothing (log 24). -/
theorem voiceRetry_unfailed (s : State) (v : Nat) (x : Voice) (out : VoiceOutcome)
    (h : s.voiceDue v = none ∨ s.voiceDue v = some x ∧ x.failed = none) : s.voiceRetry v out = s := by
  unfold State.voiceRetry
  rcases h with h | ⟨h, hf⟩
  · rw [h]
  · rw [h]
    dsimp only
    rw [hf]

/-- A retry whose turn has not come waits (R296). -/
theorem voiceRetry_waits (s : State) (v : Nat) (x : Voice) (a : Attempt) (out : VoiceOutcome) (h : s.voiceDue v = some x)
    (hf : x.failed = some a) (hr : s.retryReady v a = false) : s.voiceRetry v out = s := by
  unfold State.voiceRetry
  rw [h]
  dsimp only
  rw [hf]
  dsimp only
  rw [if_pos (by simp [hr])]

/-- A retry whose turn has come runs in a reserve slot (R295). -/
theorem voiceRetry_runs (s : State) (v : Nat) (x : Voice) (a : Attempt) (out : VoiceOutcome) (h : s.voiceDue v = some x)
    (hf : x.failed = some a) (hr : s.retryReady v a = true) (hs : s.slotLeft v = true) :
    s.voiceRetry v out = (s.useSlot v).retryRuns v x a out := by
  unfold State.voiceRetry
  rw [h]
  dsimp only
  rw [hf]
  dsimp only
  rw [if_neg (by simp [hr]), if_neg (by simp [hs])]

/-- What a retry that passes leaves: the block is released as at a first attempt, and the transient fault is counted and logged. -/
theorem exec_voiceBlockRetry_pass (s : State) (v : Nat) (x : Voice) (a : Attempt) (he : sfind s.mash.ending v = none)
    (h : s.voiceDue v = some x) (hf : x.failed = some a) (ha : a.ring = none) (hm : a.moved = none) (hr : s.retryReady v a = true)
    (hs : s.slotLeft v = true) (hc : s.noCover (v, x) = false)
    (hh : Heard s (s.vpeMsg v x.next 0 a.cause a.lane a.sample)) (hk : s.kindLimit kVpeCheck = 0) :
    ∃ u, exec (.voiceBlockRetry v .pass) s =
        .next (u.noted (s.vpeMsg v x.next 0 a.cause a.lane a.sample) 1 (if a.cause = 3 then 1 else 0) 0)
      ∧ MovedOn s u v x ∧ u.kiln = s.kiln := by
  obtain ⟨r, l, d, hreg, er⟩ := release_pass (s.useSlot v) v x he
  refine ⟨(s.useSlot v).release v x .pass, ?_, (MovedOn.release (s.useSlot v) v x he).of_useSlot, by rw [er]; rfl⟩
  have hu : ((s.useSlot v).release v x .pass).kindLimit kVpeCheck = 0 := by
    rw [er, ← hk]
    unfold State.kindLimit State.regN
    exact congrArg (fun w : Word => bits w.toNat 16 8) (hreg bKILN _ (by unfold regKey bKILN bGRIST kVpeCheck; omega))
  have hheard : (((s.useSlot v).release v x .pass).vpeCheck v x.next 0 a.cause a.lane a.sample).hear =
      ((s.useSlot v).release v x .pass).noted (s.vpeMsg v x.next 0 a.cause a.lane a.sample) 1 (if a.cause = 3 then 1 else 0) 0 := by
    have hmsg : ((s.useSlot v).release v x .pass).vpeMsg v x.next 0 a.cause a.lane a.sample
        = s.vpeMsg v x.next 0 a.cause a.lane a.sample := by
      rw [er]
      rfl
    unfold State.vpeCheck
    rw [hmsg]
    exact hear_report_c0 _ _ _ _ (by rw [er]; exact hh) (vpeMsg_class ..) (by rw [vpeMsg_kind, hu])
  rw [exec_voiceBlockRetry, execVoiceBlockRetry, State.ends, voiceRetry_runs s v x a .pass h hf hr hs,
    retryRuns_pass (s.useSlot v) v x a ha hm hc, hheard]
  exact done_same s _ (by rw [State.noted_pending, er]; rfl) (by rw [State.noted_part, er]; rfl)

/-- Settles O29: the order of the turns, the released block, the failed one, and the retry. -/
theorem voiceBlocks : Obligations.VoiceBlocks := by
  unfold Obligations.VoiceBlocks
  intro s v x hq he n l b y goesOn sums turn
  have moves {t : State} (h : MovedOn s t v x) : goesOn t := ⟨h.voice_and_others.1, h.voice_and_others.2, h.units⟩
  have joins {t : State} (h : MovedOn s t v x) (hb : s.lastBlock < n + 2) : sums t := by
    dsimp only [sums]
    rw [h.sums, h.twins]
    exact withSends_joins s v x b.sends b.ctx hb
  refine ⟨?order, ?inTime, ?late, ?fails, fun out h => exec_voiceBlock_idle s v out hq h,
    fun out h => exec_voiceBlockRetry_idle s v out hq (voiceRetry_unfailed s v x out h),
    fun a out h hf hr => exec_voiceBlockRetry_idle s v out hq (voiceRetry_waits s v x a out h hf hr), ?retry⟩
  case order =>
    rintro e hmem ⟨x0, ht, rfl⟩ hv hw
    have h := voiceTurn_first s v x0 ht e hmem hv hw
    rwa [← x0.ripe_next, ← x0.ripe_prio] at h
  case inTime =>
    rintro ⟨x0, ht, rfl⟩ hb
    have hm := MovedOn.release s v x0.ripe he
    exact ⟨_, exec_voiceBlock_pass s v x0 hq he ht, moves hm, joins hm hb, release_kiln s v x0.ripe he, hm.time⟩
  case late =>
    rintro ⟨x0, ht, rfl⟩ hb
    have hm := MovedOn.release s v x0.ripe he
    have hw := withSends_late s v x0.ripe b.sends b.ctx hb
    exact ⟨_, exec_voiceBlock_pass s v x0 hq he ht, moves hm, by rw [hm.sums, hw], by rw [hm.twins, hw], release_kiln s v x0.ripe he⟩
  case fails =>
    rintro cause lane sample ⟨x0, ht, rfl⟩ hs
    rw [exec_voiceBlock_fail s v x0 cause lane sample hq he ht hs, attemptFails_waits s v x0.ripe _ _ _ he hs]
  case retry =>
    intro a h hf ha hm hr hs hc hb m hh hk
    obtain ⟨u, hex, hu, huk⟩ := exec_voiceBlockRetry_pass s v x a he h hf ha hm hr hs hc hh hk
    have hn := hu.noted (s.vpeMsg v x.next 0 a.cause a.lane a.sample) 1 (if a.cause = 3 then 1 else 0) 0
    refine ⟨_, hex, moves hn, joins hn hb, hn.time, ?_, ?_⟩
    · rw [State.noted_log, huk, hu.time]
      rfl
    · rw [State.noted_cap, huk]

end Sys2Proof.Machine
end

section
/-! Twin results at the comparator (R307, R308, R310): a pair that agrees, one that differs, and its recomputation. -/
namespace Sys2Proof.Machine

theorem State.noted_mash (s : State) (m : BitVec 64) (master access flags : Nat) : (s.noted m master access flags).mash = s.mash := rfl
theorem State.noted_host (s : State) (m : BitVec 64) (master access flags : Nat) : (s.noted m master access flags).host = s.host := rfl

/-- Whether the Kiln takes a message as it is depends on READY and on the Kiln alone. -/
theorem Heard.of_kiln {s t : State} {m : BitVec 64} (h : Heard s m) (hr : t.isReady = s.isReady) (hk : t.kiln = s.kiln) : Heard t m := by
  unfold Heard State.masked State.consequential at h ⊢
  rw [hr, hk]
  exact h

/-- A voice whose last block differs from its twin's has no turn (R31). -/
theorem voiceTurn_heldBack (s : State) (v : Nat) (x : Voice) (hx : s.voiceAt v = some x)
    (h : ∃ r ∈ s.mash.twins, (r.v = v ∨ x.twin = some r.v) ∧ r.differs = true ∧ r.block + 1 = x.next) : s.voiceTurn v = none := by
  have held : s.heldBack v x = true := by
    obtain ⟨r, hr, hv, hd, hb⟩ := h
    unfold State.heldBack
    rw [List.any_eq_true]
    exact ⟨r, hr, by simp [hv, hd, hb]⟩
  have due : ∀ y, s.voiceDue v = some y → y = x := by
    intro y hy
    unfold State.voiceDue at hy
    rw [hx] at hy
    split at hy
    · cases hy
    · obtain ⟨hy, -⟩ := Option.filter_eq_some_iff.1 hy
      exact (Option.some.inj hy).symm
  rw [Option.eq_none_iff_forall_ne_some]
  intro y hy
  obtain ⟨hd, hw, -⟩ := (voiceTurn_some s v y).1 hy
  rw [due y hd] at hw
  unfold State.waiting at hw
  simp [held] at hw

theorem exec_twinCompare_taken (s : State) (v : Nat) (ok : Bool) (hr : s.isReady = true) (hh : s.kiln.halted = false) :
    exec (.twinCompare v ok) s = s.ends (s.twinCompare v ok) := by
  rw [exec_twinCompare, execTwinCompare, if_pos (by simp [hr, hh])]

theorem exec_twinRecompute_taken (s : State) (v : Nat) (o1 o2 : VoiceOutcome) (d : Option Nat) (hr : s.isReady = true)
    (hh : s.kiln.halted = false) : exec (.twinRecompute v o1 o2 d) s = s.ends (s.twinRecompute v o1 o2 d) := by
  rw [exec_twinRecompute, execTwinRecompute, if_pos (by simp [hr, hh])]

/-! ### The comparison -/

theorem twinCompare_unpaired (s : State) (v : Nat) (ok : Bool) (h : s.twinPair v = none) : s.twinCompare v ok = s := by
  unfold State.twinCompare
  rw [h]

/-- A pair that waits for its recomputation is not compared again. -/
theorem twinCompare_waits (s : State) (v : Nat) (ok : Bool) (a b : TwinResult) (h : s.twinPair v = some (a, b)) (hd : a.differs = true) :
    s.twinCompare v ok = s := by
  unfold State.twinCompare
  rw [h]
  dsimp only
  rw [if_pos hd]

/-- A pair that differs, or on which the comparator's copies disagree, waits for its recomputation (R307, R310). -/
theorem twinCompare_differs (s : State) (v : Nat) (ok : Bool) (a b : TwinResult) (h : s.twinPair v = some (a, b))
    (hd : a.differs = false) (hs : (!ok && s.pairOfComparators) = true ∨ sameResult a b = false) :
    s.twinCompare v ok = s.setTwins { a with differs := true, split := !ok && s.pairOfComparators }
      { b with differs := true, split := !ok && s.pairOfComparators } := by
  unfold State.twinCompare
  rw [h]
  dsimp only
  rw [if_neg (by simp [hd]), if_neg]
  rcases hs with hs | hs <;> simp [hs]

theorem sameResult_of_eq {a b : TwinResult} (hs : a.sends = b.sends) (hc : a.ctx = b.ctx) : sameResult a b = true := by
  unfold sameResult
  rw [hs, hc]
  simp

/-- A pair that agrees enters the device sum once, from the region that is up, and is settled (R307). -/
theorem twinCompare_agrees (s : State) (v : Nat) (a b : TwinResult) (h : s.twinPair v = some (a, b)) (hd : a.differs = false)
    (hs : sameResult a b = true) :
    s.twinCompare v true = (s.releaseTwin (if s.regionUp (vRegion a.v) then a else b)).setTwins
      { a with released := true, compared := true } { b with released := true, compared := true } := by
  unfold State.twinCompare
  rw [h]
  dsimp only
  rw [if_neg (by simp [hd]), if_pos (by simp [hs])]

theorem releaseTwin_first (s : State) (r : TwinResult) (h : r.released = false) :
    s.releaseTwin r = s.addSends r.block 4 r.session r.ctx.recipe r.sends := by
  unfold State.releaseTwin
  rw [if_neg (by simp [h])]

/-! ### The recomputation -/

theorem twinRecompute_unpaired (s : State) (v : Nat) (o1 o2 : VoiceOutcome) (d : Option Nat) (h : s.twinPair v = none) :
    s.twinRecompute v o1 o2 d = s := by
  unfold State.twinRecompute
  rw [h]

theorem twinRecompute_same (s : State) (v : Nat) (o1 o2 : VoiceOutcome) (d : Option Nat) (a b : TwinResult)
    (h : s.twinPair v = some (a, b)) (hd : a.differs = false) : s.twinRecompute v o1 o2 d = s := by
  unfold State.twinRecompute
  rw [h]
  dsimp only
  rw [if_pos (by simp [hd])]

/-- A VPE's slots are its own. -/
theorem slotLeft_useSlot (s : State) (v w : Nat) (h : v / 256 ≠ w / 256) : (s.useSlot v).slotLeft w = s.slotLeft w := by
  have e : (s.useSlot v).slotsUsed w = s.slotsUsed w :=
    sget_sput_ne (fun _ => 0) s.mash.resSlots (v / 256) (w / 256) (s.slotsUsed v + 1) h.symm
  unfold State.slotLeft
  rw [e]
  rfl

/-- The result of a recomputation from a voice's checkpoint. -/
def State.again (s : State) (r : TwinResult) (x : Voice) : TwinResult :=
  { r with
    sends := (voiceBlock (s.viewOf r.v x.twin x.prio r.block) x.ckpt).sends
    ctx := (voiceBlock (s.viewOf r.v x.twin x.prio r.block) x.ckpt).ctx }

/-- A recomputation that passes its check takes a reserve slot and gives a result (R308). -/
theorem recompute_pass (s : State) (r : TwinResult) (x : Voice) (hx : sfind s.mash.voices r.v = some x) (hs : s.slotLeft r.v = true)
    (hk : x.ckptAt = some r.block) (hc : s.noCover (r.v, x) = false) :
    s.recompute r .pass = (s.useSlot r.v, .result (s.again r x)) := by
  unfold State.recompute
  rw [hx]
  dsimp only
  rw [if_neg (by simp [hs]), if_neg (by simp [hk, hc])]
  rfl

/-- Two recomputations that agree are case 1 of R308. -/
theorem twinRecompute_agree (s : State) (v : Nat) (a b : TwinResult) (x y : Voice) (h : s.twinPair v = some (a, b))
    (hd : a.differs = true) (hv : a.v / 256 ≠ b.v / 256)
    (hx : sfind s.mash.voices a.v = some x) (hxs : s.slotLeft a.v = true) (hxk : x.ckptAt = some a.block) (hxc : s.noCover (a.v, x) = false)
    (hy : sfind s.mash.voices b.v = some y) (hys : s.slotLeft b.v = true) (hyk : y.ckptAt = some b.block) (hyc : s.noCover (b.v, y) = false)
    (hsame : sameResult (s.again a x) (s.again b y) = true) :
    s.twinRecompute v .pass .pass none = ((s.useSlot a.v).useSlot b.v).twinTransient a b (s.again a x) (s.again b y) := by
  have hb : (s.useSlot a.v).recompute b .pass = ((s.useSlot a.v).useSlot b.v, .result (s.again b y)) :=
    recompute_pass (s.useSlot a.v) b y hy (by rw [slotLeft_useSlot s a.v b.v hv, hys]) hyk hyc
  unfold State.twinRecompute
  rw [h]
  dsimp only
  rw [if_neg (by simp [hd]), ite_self]
  dsimp only
  rw [recompute_pass s a x hx hxs hxk hxc]
  dsimp only
  rw [hb]
  unfold State.twinVerdict State.slotless State.comparatorVerdict
  dsimp only
  rw [if_pos hsame]

/-- The transients charged to a VPE, one more where a twin's first result differed (case 1 of R308). -/
def chargedTo (m : Sparse Nat) (v : Nat) (same : Bool) : Sparse Nat :=
  if same then m else sput (fun _ => 0) m (v / 256) (sget (fun _ => 0) m (v / 256) + 1)

theorem sget_chargedTo_same (m : Sparse Nat) (v : Nat) (same : Bool) :
    sget (fun _ => 0) (chargedTo m v same) (v / 256) = sget (fun _ => 0) m (v / 256) + if same then 0 else 1 := by
  cases same <;> simp [chargedTo]

theorem sget_chargedTo_ne (m : Sparse Nat) (v k : Nat) (same : Bool) (h : k ≠ v / 256) :
    sget (fun _ => 0) (chargedTo m v same) k = sget (fun _ => 0) m k := by
  unfold chargedTo
  split
  · rfl
  · exact sget_sput_ne _ _ _ _ _ h

theorem chargeTransient_eq (s : State) (v : Nat) (same : Bool) :
    (if same then s else s.chargeTransient v) = { s with mash.transients := chargedTo s.mash.transients v same } := by
  cases same <;> rfl

/-- A sounding voice whose next block follows the result's goes on from the recomputed context. -/
theorem adopt_next (s : State) (r : TwinResult) (x : Voice) (hx : sfind s.mash.voices r.v = some x) (hn : x.next = r.block + 1)
    (he : sfind s.mash.ending r.v = none) :
    s.adopt r = { s with mash.voices := sinsert s.mash.voices r.v { x with ctx := r.ctx } } := by
  unfold State.adopt
  rw [hx]
  dsimp only
  rw [if_pos hn, setVoice_sounding s r.v _ he]

/-- The result once the pair is settled. -/
def TwinResult.settled (r : TwinResult) : TwinResult := { r with differs := false, released := true, compared := true }

/-- A pair whose voices sound and have not gone on is settled: both take their recomputed contexts (R308). -/
theorem settlePair_eq (s : State) (p q : TwinResult) (x y : Voice) (hpq : p.v < q.v)
    (hx : sfind s.mash.voices p.v = some x) (hxn : x.next = p.block + 1) (hxe : sfind s.mash.ending p.v = none)
    (hy : sfind s.mash.voices q.v = some y) (hyn : y.next = q.block + 1) (hye : sfind s.mash.ending q.v = none) :
    s.settlePair p q = { s with
      mash.voices := sinsert (sinsert s.mash.voices p.v { x with ctx := p.ctx }) q.v { y with ctx := q.ctx }
      mash.twins := (s.setTwins p.settled q.settled).mash.twins } := by
  let u : State := { s with mash.voices := sinsert s.mash.voices p.v { x with ctx := p.ctx } }
  have hp : s.adopt p = u := adopt_next s p x hx hxn hxe
  have hq : u.adopt q = { u with mash.voices := sinsert u.mash.voices q.v { y with ctx := q.ctx } } :=
    adopt_next u q y ((sfind_sinsert_ne _ _ _ _ (by omega)).trans hy) hyn hye
  unfold State.settlePair
  rw [hp, hq]
  rfl

/-- Case 1 of R308 for such a pair: A' enters the device sum, the differing twins are charged, the pair is settled, and the message is
raised. -/
theorem twinTransient_eq (s : State) (a b p q : TwinResult) (x y : Voice) (hpq : p.v < q.v) (hp : p.released = false)
    (hx : sfind s.mash.voices p.v = some x) (hxn : x.next = p.block + 1) (hxe : sfind s.mash.ending p.v = none)
    (hy : sfind s.mash.voices q.v = some y) (hyn : y.next = q.block + 1) (hye : sfind s.mash.ending q.v = none) :
    s.twinTransient a b p q =
      ({ s with
        mash.transients := chargedTo (chargedTo s.mash.transients a.v (sameResult a p)) b.v (sameResult b p)
        mash.sums := (s.addSends p.block 4 p.session p.ctx.recipe p.sends).mash.sums
        mash.voices := sinsert (sinsert s.mash.voices p.v { x with ctx := p.ctx }) q.v { y with ctx := q.ctx }
        mash.twins := (s.setTwins p.settled q.settled).mash.twins } : State).report (twinMsg a 1 0) 10 0 := by
  let c : State := { s with
    mash.transients := chargedTo (chargedTo s.mash.transients a.v (sameResult a p)) b.v (sameResult b p) }
  have hc : s.twinTransient a b p q = ((c.releaseTwin p).settlePair p q).report (twinMsg a 1 0) 10 0 := by
    unfold State.twinTransient
    dsimp only
    rw [chargeTransient_eq s a.v, chargeTransient_eq _ b.v]
  obtain ⟨z, hz⟩ := addSends_eq c p.block 4 p.session p.ctx.recipe p.sends
  have hsums : z = (s.addSends p.block 4 p.session p.ctx.recipe p.sends).mash.sums := by
    rw [← addSends_congr s c _ _ _ _ _ rfl rfl fun _ => rfl, hz]
  rw [hc, releaseTwin_first c p hp, hz, ← hsums, settlePair_eq { c with mash.sums := z } p q x y hpq hx hxn hxe hy hyn hye]
  rfl

/-- What two recomputations that agree leave (R308, case 1), the message counted and logged. -/
theorem exec_twinRecompute_agree (s : State) (v : Nat) (a b : TwinResult) (x y : Voice) (hr : s.isReady = true)
    (hh : s.kiln.halted = false) (h : s.twinPair v = some (a, b)) (hd : a.differs = true) (hab : a.v < b.v)
    (hv : a.v / 256 ≠ b.v / 256) (hrel : a.released = false)
    (hx : sfind s.mash.voices a.v = some x) (hxe : sfind s.mash.ending a.v = none) (hxs : s.slotLeft a.v = true)
    (hxk : x.ckptAt = some a.block) (hxc : s.noCover (a.v, x) = false) (hxn : x.next = a.block + 1)
    (hy : sfind s.mash.voices b.v = some y) (hye : sfind s.mash.ending b.v = none) (hys : s.slotLeft b.v = true)
    (hyk : y.ckptAt = some b.block) (hyc : s.noCover (b.v, y) = false) (hyn : y.next = b.block + 1)
    (hsame : sameResult (s.again a x) (s.again b y) = true)
    (hm : Heard s (twinMsg a 1 0)) (hk : s.kindLimit kTwinCompare = 0) :
    ∃ u : State, exec (.twinRecompute v .pass .pass none) s = .next (u.noted (twinMsg a 1 0) 10 0 0)
      ∧ u.kiln = s.kiln ∧ u.host = s.host ∧ u.time = s.time
      ∧ u.mash.transients = chargedTo (chargedTo s.mash.transients a.v (sameResult a (s.again a x))) b.v (sameResult b (s.again a x))
      ∧ u.mash.sums = (s.addSends a.block 4 a.session (s.again a x).ctx.recipe (s.again a x).sends).mash.sums
      ∧ u.mash.voices = sinsert (sinsert s.mash.voices a.v { x with ctx := (s.again a x).ctx }) b.v { y with ctx := (s.again b y).ctx }
      ∧ u.mash.twins = (s.setTwins (s.again a x).settled (s.again b y).settled).mash.twins := by
  let w := (s.useSlot a.v).useSlot b.v
  let p := s.again a x
  let q := s.again b y
  let u : State := { w with
    mash.transients := chargedTo (chargedTo s.mash.transients a.v (sameResult a p)) b.v (sameResult b p)
    mash.sums := (w.addSends p.block 4 p.session p.ctx.recipe p.sends).mash.sums
    mash.voices := sinsert (sinsert s.mash.voices p.v { x with ctx := p.ctx }) q.v { y with ctx := q.ctx }
    mash.twins := (w.setTwins p.settled q.settled).mash.twins }
  have hu : s.twinRecompute v .pass .pass none = u.report (twinMsg a 1 0) 10 0 :=
    (twinRecompute_agree s v a b x y h hd hv hx hxs hxk hxc hy hys hyk hyc hsame).trans
      (twinTransient_eq w a b p q x y hab hrel hx hxn hxe hy hyn hye)
  have hkind : msgKind (twinMsg a 1 0) = kTwinCompare := by
    unfold twinMsg
    rw [msgKind_mkMsg]
    rfl
  have hcls : msgClass (twinMsg a 1 0) = 0 := by
    unfold twinMsg
    rw [msgClass_mkMsg]
  have hheard : (u.report (twinMsg a 1 0) 10 0).hear = u.noted (twinMsg a 1 0) 10 0 0 :=
    hear_report_c0 u _ 10 0 (hm.of_kiln rfl rfl) hcls (by rw [hkind]; exact hk)
  have hsums : u.mash.sums = (s.addSends p.block 4 p.session p.ctx.recipe p.sends).mash.sums :=
    addSends_congr s w _ _ _ _ _ rfl rfl fun _ => rfl
  refine ⟨u, ?_, rfl, rfl, rfl, rfl, hsums, rfl, rfl⟩
  rw [exec_twinRecompute_taken s v _ _ _ hr hh, hu]
  unfold State.ends
  rw [hheard]
  exact done_same s _ (State.noted_pending u _ _ _ _) (State.noted_part u _ _ _ _)

theorem twinMsg_transient (a : TwinResult) (cls : Nat) : twinMsg a 1 cls = mkMsg 2 0 kTwinCompare cls (a.v % 2048) a.block := by
  unfold twinMsg
  rw [Nat.sub_self, Nat.zero_mul, Nat.zero_add]

/-- Settles O30: what waits, what is compared, and the recomputation of case 1. -/
theorem twinResults : Obligations.TwinResults := by
  unfold Obligations.TwinResults
  intro s v hr hh hq settled charged
  refine ⟨fun x held hx out => exec_voiceBlock_idle s v out hq (voiceTurn_heldBack s v x hx held), fun hnone ok o1 o2 d => ?unpaired,
    fun a b h => ⟨fun hd o1 o2 d => ?same, fun hd ok => ?waits, ?differs, fun hd hsends hctx ha hb => ?agrees,
      ?recomputed⟩⟩
  case unpaired =>
    rw [exec_twinCompare_taken s v ok hr hh, exec_twinRecompute_taken s v o1 o2 d hr hh, twinCompare_unpaired s v ok hnone,
      twinRecompute_unpaired s v o1 o2 d hnone]
    exact ⟨ends_quiet s s hq rfl rfl, ends_quiet s s hq rfl rfl⟩
  case same =>
    rw [exec_twinRecompute_taken s v o1 o2 d hr hh, twinRecompute_same s v o1 o2 d a b h hd]
    exact ends_quiet s s hq rfl rfl
  case waits =>
    rw [exec_twinCompare_taken s v ok hr hh, twinCompare_waits s v ok a b h hd]
    exact ends_quiet s s hq rfl rfl
  case differs =>
    intro ok hd split hs
    rw [exec_twinCompare_taken s v ok hr hh, twinCompare_differs s v ok a b h hd hs]
    exact ends_quiet s _ hq rfl rfl
  case agrees =>
    intro r
    have hrel : r.released = false := by
      dsimp only [r]
      split
      · exact ha
      · exact hb
    obtain ⟨z, hz⟩ := addSends_eq s r.block 4 r.session r.ctx.recipe r.sends
    rw [exec_twinCompare_taken s v true hr hh, twinCompare_agrees s v a b h hd (sameResult_of_eq hsends hctx),
      releaseTwin_first s r hrel, hz]
    exact ends_quiet s _ hq rfl rfl
  case recomputed =>
    intro xa xb hd hblock hab ha hb hxa hxb hea heb hca hcb hka hkb hv hsa hsb ra rb m hsends hctx hna hnb hm hk
    have hsame : sameResult (s.again a xa) (s.again b xb) = true := sameResult_of_eq hsends hctx
    have hmsg : twinMsg a 1 0 = m := twinMsg_transient a 0
    obtain ⟨u, hex, hukiln, huhost, hutime, hutrans, husums, huvoices, hutwins⟩ :=
      exec_twinRecompute_agree s v a b xa xb hr hh h hd hab hv ha hxa hea hsa hka hca hna
        hxb heb hsb hkb hcb hnb hsame (by rw [hmsg]; exact hm) hk
    refine ⟨_, hex, ?_, ?_, ?_, ?_, ?_, ?_, ?_, ?_⟩
    · dsimp only [charged]
      rw [State.noted_mash, hutrans, sget_chargedTo_ne _ _ _ _ hv]
      exact sget_chargedTo_same ..
    · dsimp only [charged]
      rw [State.noted_mash, hutrans, sget_chargedTo_same, sget_chargedTo_ne _ _ _ _ hv.symm]
      rfl
    · rw [State.noted_mash, husums]
      rfl
    · rw [State.noted_mash, huvoices, sfind_sinsert_ne _ _ _ _ (by omega)]
      exact sfind_sinsert_same ..
    · rw [State.noted_mash, huvoices]
      exact sfind_sinsert_same ..
    · rw [State.noted_mash, hutwins]
      rfl
    · rw [State.noted_log, hukiln, hutime, hmsg]
    · rw [State.noted_host, huhost]

end Sys2Proof.Machine
end

section
/-! The stages of a boundary at which nothing waits (R26): each leaves the state, or all of it but what it names. -/
namespace Sys2Proof.Machine

theorem foldl_keeps {σ α : Type} (f : σ → α → σ) (s : σ) (l : List α) (h : ∀ a ∈ l, f s a = s) : l.foldl f s = s := by
  induction l with
  | nil => rfl
  | cons a l ih =>
    rw [List.foldl_cons, h a List.mem_cons_self]
    exact ih fun b hb => h b (List.mem_cons_of_mem _ hb)

/-! ### What begins with the block -/

theorem regionOne_none (s : State) (n : Nat) (h : s.fw.region1From = none) : s.regionOne n = s := by
  unfold State.regionOne
  rw [h]

theorem thrSettle_still (s : State) (n : Nat) (h : ∀ c < 8, ∀ k < 2, s.thrDue c k = false) : s.thrSettle n = s := by
  unfold State.thrSettle
  refine foldl_keeps _ s _ fun i hi => ?_
  have hi := List.mem_range.1 hi
  rw [if_neg]
  rw [h (i / 2) (by omega) (i % 2) (by omega)]
  simp

/-- Clips count in the Wort's own registers (R231). -/
theorem countClips_eq (s : State) (n : Nat) :
    s.countClips n = { s with regs := (s.countClips n).regs }
      ∧ ∀ b o, regKey b o ≠ regKey bWORT 0x80 → regKey b o ≠ regKey bWORT 0x84 → (s.countClips n).reg b o = s.reg b o := by
  unfold State.countClips
  induction (List.range 32).filter busChannel generalizing s with
  | nil => exact ⟨rfl, fun _ _ _ _ => rfl⟩
  | cons ch l ih =>
    rw [List.foldl_cons]
    dsimp only
    split
    · exact ih s
    · refine ⟨(ih _).1, fun b o h0 h4 => ((ih _).2 b o h0 h4).trans ?_⟩
      exact (State.reg_setReg_ne _ _ _ _ _ _ h4).trans (State.reg_setReg_ne s _ _ _ _ _ h0)

/-- A Wort bus block that no capture takes is formed (R229, R442). -/
theorem formBlock_eq (s : State) (n : Nat) (hc : s.fw.capture = none) :
    s.formBlock n = { s with regs := (s.formBlock n).regs, mash.wort := (s.formBlock n).mash.wort }
      ∧ ∀ b o, regKey b o ≠ regKey bWORT 0x80 → regKey b o ≠ regKey bWORT 0x84 → (s.formBlock n).reg b o = s.reg b o := by
  obtain ⟨e, hr⟩ := countClips_eq s n
  have hcap : (s.countClips n).captureBlock n = s.countClips n := by
    unfold State.captureBlock
    rw [e]
    dsimp only
    rw [hc]
  unfold State.formBlock
  split
  · exact ⟨rfl, fun _ _ _ _ => rfl⟩
  · dsimp only
    rw [hcap]
    generalize s.countClips n = c at e hr
    refine ⟨?_, fun b o h0 h4 => hr b o h0 h4⟩
    rw [e]

/-- With no voice and no result left, the block of two boundaries ago only stands (R28, R230). -/
theorem settleBlocks_still (s : State) (n : Nat) (ht : s.mash.twins = []) (hv : s.mash.voices = []) (he : s.mash.ending = [])
    (hc : s.fw.capture = none) :
    s.settleBlocks n = { s with regs := (s.settleBlocks n).regs, mash.wort := (s.settleBlocks n).mash.wort }
      ∧ ∀ b o, regKey b o ≠ regKey bWORT 0x80 → regKey b o ≠ regKey bWORT 0x84 → (s.settleBlocks n).reg b o = s.reg b o := by
  have empty : s.settleBlocks n = if n < 2 ∨ s.kiln.halted = true then s else s.formBlock (n - 2) := by
    unfold State.settleBlocks
    simp only [ht, hv, he, List.filter_nil, List.foldl_nil, List.append_nil]
    split <;> split <;> simp_all
  rw [empty]
  split
  · exact ⟨rfl, fun _ _ _ _ => rfl⟩
  · exact formBlock_eq s (n - 2) hc

theorem takeAgreement_none (s : State) (n : Nat) (h : s.fw.unitPending = false) : s.takeAgreement n = s := by
  unfold State.takeAgreement
  rw [if_pos (by simp [h])]

/-! ### Images and memories -/

theorem tdmoRestart_none (s : State) (n : Nat) (h : s.tdm.restart = none) : s.tdmoRestart n = s := by
  unfold State.tdmoRestart
  rw [h]

/-- A boundary's requests, releases and locks move the memories alone (R582, R584). -/
theorem takeRequest_eq (s : State) (b : Nat) : ∃ m, s.takeRequest b = { s with mem := m } := by
  have lost (s : State) : ∃ m, s.loseBank b = { s with mem := m } := by
    unfold State.loseBank
    dsimp only
    split <;> exact ⟨_, rfl⟩
  unfold State.takeRequest
  split
  · exact ⟨_, wakeBank_eq s b⟩
  · split
    · exact ⟨_, wakeBank_eq s b⟩
    · split <;> exact ⟨_, rfl⟩
    · obtain ⟨m, e⟩ := lost (s.setBank b .off)
      exact ⟨m, e⟩
    · exact ⟨_, rfl⟩

theorem memBoundary_eq (s : State) (written : List Nat) : ∃ m, s.memBoundary written = { s with mem := m } := by
  have fold (p : Nat → Bool) (l : List Nat) (s : State) :
      ∃ m, l.foldl (fun (s : State) b => if p b then s.takeRequest b else s) s = { s with mem := m } := by
    induction l generalizing s with
    | nil => exact ⟨_, rfl⟩
    | cons b l ih =>
      rw [List.foldl_cons]
      split
      · obtain ⟨m, e⟩ := takeRequest_eq s b
        rw [e]
        obtain ⟨m', e'⟩ := ih { s with mem := m }
        exact ⟨m', e'⟩
      · exact ih s
  unfold State.memBoundary
  obtain ⟨m, e⟩ := fold _ (List.range 12) s
  dsimp only
  rw [e, applyLocks_eq]
  exact ⟨_, rfl⟩

/-- A write to another block's image leaves this block. -/
theorem blockWritten_other (s : State) (n b : Nat) (w : PendingWrite) (h : w.block ≠ b) : s.blockWritten n [w] b = s := by
  unfold State.blockWritten
  dsimp only
  rw [if_pos (by simp [h])]

/-- A write of a Wort gain enters its register and nothing else (R231, R407). -/
theorem blockWritten_gain (s : State) (n due ch : Nat) (gain : Word) (h : ch < 32) :
    s.blockWritten n [⟨bWORT, 4 * ch, gain, due⟩] bWORT = s.applyWrite ⟨bWORT, 4 * ch, gain, due⟩ := by
  have hf : [PendingWrite.mk bWORT (4 * ch) gain due].filter (fun w => w.block == bWORT) = [⟨bWORT, 4 * ch, gain, due⟩] := by simp
  unfold State.blockWritten
  rw [hf]
  show State.unitWritten (s.applyWrite ⟨bWORT, 4 * ch, gain, due⟩) s n 0x0D [⟨bWORT, 4 * ch, gain, due⟩] = _
  show (if ([PendingWrite.mk bWORT (4 * ch) gain due].any fun w => w.off == 0x80 && w.value != 0) then _ else _) = _
  have : 4 * ch ≠ 128 := by omega
  rw [if_neg (by simp [this])]

/-- The images of a boundary with one write, that of a Wort gain: its register, then the gains of the block (R231, R407). -/
theorem applyImages_gain (s : State) (n ch : Nat) (gain : Word) (h : ch < 32) (hr : s.tdm.restart = none)
    (hw : s.fw.writes = [⟨bWORT, 4 * ch, gain, n⟩]) :
    ∃ m, s.applyImages n = { s.applyWrite ⟨bWORT, 4 * ch, gain, n⟩ with
      fw.writes := []
      mem := m
      mash.gains := s.mash.gains ++
        [(n, (List.range 32).map fun k => (s.applyWrite ⟨bWORT, 4 * ch, gain, n⟩).regN bWORT (4 * k))] } := by
  let w : PendingWrite := ⟨bWORT, 4 * ch, gain, n⟩
  let u : State := { s with fw.writes := [] }
  have blocks : ((List.range 13).map fun k => k + 1).foldl (fun (s : State) b => s.blockWritten n [w] b) u = u.applyWrite w := by
    rw [List.range_succ, List.map_append, List.foldl_append]
    rw [foldl_keeps _ u _ fun b hb => blockWritten_other u n b w (by simp [w, bWORT] at hb ⊢; omega)]
    exact blockWritten_gain u n n ch gain h
  have due : s.fw.writes.filter (fun w => decide (w.due ≤ n)) = [w] := by
    rw [hw]
    simp [w]
  have rest : s.fw.writes.filter (fun w => decide (n < w.due)) = [] := by
    rw [hw]
    simp
  obtain ⟨m, e⟩ := memBoundary_eq (u.applyWrite w) (([w].filter fun w => w.block == bMEMCTL).map fun w => w.off)
  have written : (((List.range 13).map fun k => k + 1).foldl (fun (s : State) b => s.blockWritten n [w] b)
      (u.tdmoRestart n)).memBoundary (([w].filter fun w => w.block == bMEMCTL).map fun w => w.off)
        = { u.applyWrite w with mem := m } := by
    rw [tdmoRestart_none u n hr, blocks, e]
  refine ⟨m, ?_⟩
  unfold State.applyImages
  rw [due, rest]
  exact congrArg (fun v : State => { v with mash.gains := v.mash.gains ++ [(n, (List.range 32).map fun k => v.regN bWORT (4 * k))] })
    written

/-! ### Faults, sessions and content -/

theorem Kiln.without_actions (k : Kiln) (ha : k.acts = []) (hr : k.ready = []) : { k with acts := [], ready := [] } = k := by
  cases k
  simp_all

theorem expireActs_none (s : State) (ha : s.kiln.acts = []) (hr : s.kiln.ready = []) : s.expireActs = s := by
  unfold State.expireActs State.takeSafeActions
  simp only [ha, hr, List.filter_nil, List.append_nil, List.find?_nil]
  exact congrArg (fun k : Kiln => { s with kiln := k }) (s.kiln.without_actions ha hr)

/-- Without actions, resets and windows the Kiln only begins its C0 window anew (R333, R336, R338). -/
theorem kilnBoundary_still (s : State) (n : Nat) (ha : s.kiln.acts = []) (hr : s.kiln.ready = []) (hq : s.kiln.resetReq = [])
    (hw : s.kiln.windows = []) :
    ∃ w t, s.kilnBoundary n = { s with kiln.c0Win := w, kiln.c0Told := t } := by
  unfold State.kilnBoundary
  rw [expireActs_none s ha hr]
  simp only [hr, hq, hw, List.filter_nil, List.foldl_nil, List.isEmpty_nil, if_true]
  split
  · exact ⟨[], [], rfl⟩
  · exact ⟨_, _, rfl⟩

theorem quarantines_none (s : State) (n : Nat) (h : s.mash.stopped = []) : s.quarantines n = s := by
  unfold State.quarantines
  rw [h]
  rfl

theorem catchupsEnd_none (s : State) (n : Nat) (h : s.mash.catchups = []) : s.catchupsEnd n = s := by
  unfold State.catchupsEnd
  simp only [h, List.filter_nil, List.foldl_nil]
  rw [← h]

theorem haltSafe_unsafe (s : State) (h : s.kiln.safe = false) : s.haltSafe = s := by
  unfold State.haltSafe
  rw [if_neg (by simp [h])]

theorem closeSessions_none (s : State) (n : Nat) (h : ∀ k < 32, (s.fw.sessions.getD k Session.closed).closing = false)
    (hr : s.fw.replies = []) : s.closeSessions n = s := by
  have kept : (List.range 32).foldl (fun (s : State) k => s.closeSession n k) s = s := by
    refine foldl_keeps _ s _ fun k hk => ?_
    unfold State.closeSession
    rw [if_pos (by rw [h k (List.mem_range.1 hk)]; rfl)]
  have unawaited : s.awaits 0x05 = false := by
    unfold State.awaits
    rw [hr]
    rfl
  unfold State.closeSessions
  rw [kept]
  dsimp only
  rw [if_neg (by simp [unawaited])]

/-- Without content that waits only the tables whose end has come are let go (R431). -/
theorem contentBoundary_still (s : State) (n : Nat) (hb : s.fw.bankNext = []) (hs : s.fw.svtNext = none) (ha : s.store.nextAnchor = none)
    (hf : s.hop.fadeNext = []) : s.contentBoundary n = { s with fw.tables := (s.contentBoundary n).fw.tables } := by
  unfold State.contentBoundary
  simp only [hb, hs, ha, hf, List.foldl_nil]
  rw [← ha, ← hf]

/-! ### Voices and streams -/

theorem Mash.without_voices (m : Mash) (hv : m.voices = []) (hq : m.queued = []) (hl : m.lost = []) :
    { m with voices := [], queued := [], lost := [] } = m := by
  cases m
  simp_all

theorem voicesBoundary_none (s : State) (n : Nat) (hv : s.mash.voices = []) (hq : s.mash.queued = []) (hl : s.mash.lost = []) :
    s.voicesBoundary n = s := by
  unfold State.voicesBoundary
  simp only [hv, hq, hl, List.map_nil, List.filter_nil, List.foldl_nil]
  exact congrArg (fun m : Mash => { s with mash := m }) (s.mash.without_voices hv hq hl)

/-- Without streams and reads the ports only take up what is there (R272). -/
theorem streamsBoundary_none (s : State) (n : Nat) (hs : s.store.streams = []) (hr : s.store.reads = []) :
    s.streamsBoundary n = { s with store.serving := (s.streamsBoundary n).store.serving } := by
  unfold State.streamsBoundary State.serve
  simp only [hs, hr, List.filterMap_nil, List.filter_nil, List.foldl_nil]

/-- A region without a ceiling sheds nothing (R674). -/
theorem shedAll_unceiled (s : State) (n : Nat) (h : ∀ r < 2, s.ceilingOf r = none) : s.shedAll n = s := by
  unfold State.shedAll
  refine foldl_keeps _ s _ fun r hr => ?_
  have two : s.part.variant.regionCount ≤ 2 := by
    unfold Variant.regionCount
    split <;> omega
  unfold State.shed
  rw [h r (by have := List.mem_range.1 hr; omega)]

/-! ### Trackers, dispatch and the snapshot -/

theorem chainBoundary_off (s : State) (n : Nat) (hu : s.unitOn 3 = false) (hl : s.linkState = 0) : s.chainBoundary n = s := by
  unfold State.chainBoundary
  rw [if_pos (by simp [hu]), if_pos hl]

/-- A tracker that is off stays as it is and raises no event (R175). -/
theorem boundary_off (c : TbCfg) (n : Nat) : ∃ snap, Tracker.off.boundary c n none = (Tracker.off, snap, 0) := by
  refine ⟨(Tracker.off.boundary c n none).2.1, ?_⟩
  have expired : Tracker.off.expired c (73728 * n) = false := by
    unfold Tracker.expired
    split <;> rfl
  unfold Tracker.boundary Tracker.timeout
  dsimp only
  rw [expired]
  simp [Tracker.off, Tracker.now, Tracker.otherBlock, b2n, nthI]

/-- Trackers that are off leave a boundary only their snapshot entries. -/
theorem tbBoundary_off (s : State) (n : Nat) (ht : s.tbs = List.replicate 4 Tracker.off) (hu : s.fw.tbUpdates = []) :
    ∃ tbs, s.tbBoundary n = (s, tbs) := by
  have tracker (i : Nat) : s.tracker i = Tracker.off := by
    unfold State.tracker
    rw [ht, List.getD_eq_getElem?_getD, List.getElem?_replicate]
    split <;> rfl
  have set (i : Nat) : s.setTracker i Tracker.off = s := by
    unfold State.setTracker
    rw [ht, List.set_replicate_self, ← ht]
  have fold (l : List Nat) (acc : List TbSnap) : ∃ tbs, l.foldl (fun (acc : State × List TbSnap) i =>
      let upd := (acc.1.fw.tbUpdates.reverse.find? fun u => u.1 == i).map fun u => u.2
      let (k, snap, ev) := (acc.1.tracker i).boundary (acc.1.tbCfg i) n upd
      ((acc.1.setTracker i k).tbEvent i ev, acc.2 ++ [snap])) (s, acc) = (s, tbs) := by
    induction l generalizing acc with
    | nil => exact ⟨acc, rfl⟩
    | cons i l ih =>
      obtain ⟨snap, e⟩ := boundary_off (s.tbCfg i) n
      rw [List.foldl_cons]
      simp only [hu, tracker, List.reverse_nil, List.find?_nil, Option.map_none, e, set]
      exact ih (acc ++ [snap])
  obtain ⟨tbs, e⟩ := fold (List.range 4) []
  refine ⟨tbs, ?_⟩
  unfold State.tbBoundary
  rw [e]
  dsimp only
  rw [← hu]

theorem dispatch_idle (s : State) (n : Nat) (tbs : List TbSnap) (h : s.hop.tasks = []) :
    s.dispatch n tbs = { s with hop.senses := (s.dispatch n tbs).hop.senses } := by
  unfold State.dispatch
  simp only [h, List.map_nil, List.filter_nil, sortBy, List.foldl_nil, State.dispatchAll]

/-- The profiles of a block move the gains of R513 on; what they count is SPARGE's own (R512). -/
theorem profiles_eq (s : State) (n : Nat) :
    s.profiles n = { s with
        regs := (s.profiles n).regs
        prof := (s.profiles n).prof
        hop.pgPrev := s.hop.pg
        hop.pg := (s.profiles n).hop.pg }
      ∧ ∀ b o, regKey b o ≠ regKey bSPARGE 0x38 → (s.profiles n).reg b o = s.reg b o := by
  unfold State.profiles
  dsimp only
  split
  · exact ⟨rfl, fun _ _ _ => rfl⟩
  · exact ⟨rfl, fun b o h => State.reg_setReg_ne s _ _ _ _ _ h⟩

/-- Trackers off, no chain, no task: the gains of R513 move on and the snapshot of the block is frozen (R39). -/
theorem hopperBoundary_still (s : State) (n : Nat) (ht : s.tbs = List.replicate 4 Tracker.off) (hu : s.fw.tbUpdates = [])
    (hc : s.unitOn 3 = false) (hl : s.linkState = 0) (hk : s.hop.tasks = []) :
    ∃ r f e a g p, s.hopperBoundary n = { s with
        regs := r
        prof := f
        hop.senses := e
        hop.pgPrev := s.hop.pg
        hop.pg := g
        mash.snaps := s.mash.snaps ++ [p]
        host.angleBlock := n
        host.angles := a }
      ∧ p.block = n ∧ p.ctl = s.hop.ctl ∧ p.pgPrev = s.hop.pg ∧ p.pg = g
      ∧ ∀ b o, regKey b o ≠ regKey bSPARGE 0x38 → ({ s with regs := r } : State).reg b o = s.reg b o := by
  obtain ⟨tbs, etb⟩ := tbBoundary_off s n ht hu
  have idle : ∃ e, (if s.noDispatch then { s with hop.senses := [] } else s.dispatch n tbs) = { s with hop.senses := e } := by
    split
    · exact ⟨_, rfl⟩
    · exact ⟨_, dispatch_idle s n tbs hk⟩
  obtain ⟨e, eidle⟩ := idle
  obtain ⟨eprof, hreg⟩ := profiles_eq { s with hop.senses := e } n
  unfold State.hopperBoundary
  rw [chainBoundary_off s n hc hl, etb]
  dsimp only
  rw [eidle]
  generalize State.profiles _ n = u at eprof hreg
  rw [eprof]
  exact ⟨u.regs, u.prof, e, _, u.hop.pg, _, rfl, rfl, rfl, rfl, rfl,
    fun b o h => (congrArg (fun w : State => w.reg b o) eprof).symm.trans (hreg b o h)⟩

/-! ### The other units -/

theorem copperSwap_none (s : State) (n : Nat) (h : s.cop.swapLen = none) : s.copperSwap n = s := by
  unfold State.copperSwap
  rw [h]

theorem captureStops_none (s : State) (h : s.fw.capture = none) : s.captureStops = s := by
  unfold State.captureStops
  rw [h]

theorem scrubBlock_off (s : State) (n : Nat) (rd : List PageFault) (h : bit (s.regN bGRIST 0) 25 = false) : s.scrubBlock n rd = s := by
  unfold State.scrubBlock
  rw [if_pos (by simp [h])]

theorem diagBoundary_none (s : State) (n : Nat) (h : s.fw.diag = none) : s.diagBoundary n = s := by
  unfold State.diagBoundary
  rw [h]

theorem handoverSwitch_none (s : State) (ok fails : Bool) (h : s.host.hoStep ≠ 4) : s.handoverSwitch ok fails = s := by
  unfold State.handoverSwitch
  rw [if_pos h]

/-- Below 115 °C less 5 no level of R672 is told. -/
theorem judgeTemp_cool (s : State) (i : Nat) (hi : i < 4) (h : s.hottest ≤ 110) :
    s.judgeTemp i = { s with pwr.tempTold := s.pwr.tempTold.set i false } := by
  have lowest : ∀ i < 4, 115 ≤ (tempLevels.getD i (115, 0)).1 := by decide
  have := lowest i hi
  show (if s.hottest ≤ (tempLevels.getD i (115, 0)).1 - 5 then _ else _) = _
  rw [if_pos (by omega)]

/-- The hours that a boundary counts (R445). -/
def State.hoursCounted (s : State) (n : Nat) : State := if n % 6000 = 0 then s.life 0 1 else s

/-- The hot blocks and the highest temperature that a boundary counts (R445, R672). -/
def State.heatCounted (s : State) : State :=
  let hot := s.hottest
  let s := { s with
    pwr.hotBlocks := if 115 ≤ hot then (s.pwr.hotBlocks + 1) % 6000 else s.pwr.hotBlocks
    pwr.life := modAt s.pwr.life 11 fun x => if signed 32 x < hot then (w32i hot).toNat else x }
  if 115 ≤ hot ∧ s.pwr.hotBlocks = 0 then s.life 10 1 else s

theorem temperature_eq (s : State) (n : Nat) (dig ana : Int) :
    s.temperature n dig ana = (List.range 4).foldl State.judgeTemp
      (State.heatCounted (State.hoursCounted { s with pwr.tempDig := dig, pwr.tempAna := ana } n)) := rfl

theorem hoursCounted_eq (s : State) (n : Nat) : ∃ l, s.hoursCounted n = { s with pwr.life := l } := by
  unfold State.hoursCounted
  split <;> exact ⟨_, rfl⟩

theorem heatCounted_eq (s : State) : ∃ b l, s.heatCounted = { s with pwr.hotBlocks := b, pwr.life := l } := by
  unfold State.heatCounted
  dsimp only
  generalize (if 115 ≤ s.hottest then (s.pwr.hotBlocks + 1) % 6000 else s.pwr.hotBlocks) = b
  split <;> exact ⟨b, _, rfl⟩

theorem judgeTemps_cool (s : State) (l : List Nat) (hl : ∀ i ∈ l, i < 4) (h : s.hottest ≤ 110) :
    ∃ t, l.foldl State.judgeTemp s = { s with pwr.tempTold := t } := by
  induction l generalizing s with
  | nil => exact ⟨_, rfl⟩
  | cons i l ih =>
    rw [List.foldl_cons, judgeTemp_cool s i (hl i List.mem_cons_self) h]
    obtain ⟨t, e⟩ := ih { s with pwr.tempTold := s.pwr.tempTold.set i false } (fun j hj => hl j (List.mem_cons_of_mem _ hj)) h
    exact ⟨t, e⟩

/-- The readings of two cool dies are taken, and nothing is reported (R672). -/
theorem temperature_cool (s : State) (n : Nat) (dig ana : Int) (h : max dig ana ≤ 110) :
    ∃ t b l, s.temperature n dig ana =
      { s with pwr.tempDig := dig, pwr.tempAna := ana, pwr.tempTold := t, pwr.hotBlocks := b, pwr.life := l } := by
  obtain ⟨l1, e1⟩ := hoursCounted_eq { s with pwr.tempDig := dig, pwr.tempAna := ana } n
  rw [temperature_eq, e1]
  generalize hu : ({ s with pwr.tempDig := dig, pwr.tempAna := ana, pwr.life := l1 } : State) = u
  obtain ⟨b, l, e2⟩ := heatCounted_eq u
  have cool : ({ u with pwr.hotBlocks := b, pwr.life := l } : State).hottest ≤ 110 := by
    rw [← hu]
    exact h
  obtain ⟨t, e3⟩ := judgeTemps_cool _ (List.range 4) (fun i hi => List.mem_range.1 hi) cool
  rw [e2, e3, ← hu]
  exact ⟨t, b, l, rfl⟩

/-- The units outside the Mash, where none has work: ports take up reads, temperatures are read. -/
theorem unitsBoundary_still (s : State) (n : Nat) (b : BoundaryInput) (hswap : s.cop.swapLen = none) (hcap : s.fw.capture = none)
    (hreads : s.store.reads = []) (hscrub : bit (s.regN bGRIST 0) 25 = false) (hdiag : s.fw.diag = none) (hho : s.host.hoStep ≠ 4)
    (hcool : max b.tempDig b.tempAna ≤ 110) :
    ∃ d t k l, s.unitsBoundary n b = { s with
      store.serving := d
      pwr.tempDig := b.tempDig
      pwr.tempAna := b.tempAna
      pwr.tempTold := t
      pwr.hotBlocks := k
      pwr.life := l } := by
  have served : ∃ d, ({ s with
        store.reads := s.store.reads.filter fun (r : GristRead) =>
          r.tier == 3 || decide (n * 4096 < r.deadline) } : State).serve
      = { s with store.serving := d } := by
    rw [hreads, List.filter_nil, ← hreads]
    exact ⟨_, rfl⟩
  obtain ⟨d, ed⟩ := served
  let u : State := { s with store.serving := d }
  obtain ⟨t, k, l, et⟩ := temperature_cool u n b.tempDig b.tempAna hcool
  unfold State.unitsBoundary
  rw [copperSwap_none s n hswap, captureStops_none s hcap]
  dsimp only
  rw [ed, scrubBlock_off u n b.scrub hscrub, diagBoundary_none u n hdiag, et]
  exact ⟨d, t, k, l, handoverSwitch_none _ _ _ hho⟩

end Sys2Proof.Machine
end

section
/-! The quiet boundary (R24, R26, R39, R231, R343, R407, R672), stage by stage. -/
namespace Sys2Proof.Machine

/-- The state without what a boundary moves even where nothing waits. -/
def State.offBoundary (s : State) : State :=
  { s with
    time := 0
    lastBlock := 0
    regs := []
    prof := []
    mem := Memories.reset
    host.angleBlock := 0
    host.angles := []
    fw.writes := []
    fw.tables := []
    hop.senses := []
    hop.pg := []
    hop.pgPrev := []
    mash.snaps := []
    mash.gains := []
    mash.sums := []
    mash.wort := []
    mash.svtOld := []
    mash.resSlots := []
    store.serving := []
    kiln.hbLast := 0
    kiln.hbMissed := none
    kiln.c0Win := []
    kiln.c0Told := []
    pwr.tempDig := 0
    pwr.tempAna := 0
    pwr.tempTold := []
    pwr.hotBlocks := 0
    pwr.life := [] }

/-- What a quiet boundary moves in a known way: time, the heartbeat, waiting writes, bus gains, snapshots, die temperatures. -/
structure Course where
  time       : Nat
  lastBlock  : Nat
  hbLast     : Nat
  hbMissed   : Option Nat
  writes     : List PendingWrite
  gains      : List (Nat × List Nat)
  snaps      : List Snapshot
  pg         : List Nat
  angleBlock : Nat
  tempDig    : Int
  tempAna    : Int

def State.course (s : State) : Course :=
  ⟨s.time, s.lastBlock, s.kiln.hbLast, s.kiln.hbMissed, s.fw.writes, s.mash.gains, s.mash.snaps, s.hop.pg, s.host.angleBlock,
    s.pwr.tempDig, s.pwr.tempAna⟩

/-- `t` is `s` but for what a quiet boundary moves: of the registers the Wort's and the count of profile starts. -/
structure Calm (s t : State) : Prop where
  off  : t.offBoundary = s.offBoundary
  regs : ∀ b o, b ≠ bWORT → o < 0x10000 → ¬ (b = bSPARGE ∧ o = 0x38) → t.reg b o = s.reg b o

/-- The Wort's gain registers stand. -/
def GainsStand (s t : State) : Prop := ∀ k < 32, t.reg bWORT (4 * k) = s.reg bWORT (4 * k)

theorem regKey_inj {b o c p : Nat} (ho : o < 0x10000) (hp : p < 0x10000) : regKey b o = regKey c p ↔ b = c ∧ o = p := by
  unfold regKey
  omega

/-- What waits for a boundary is none of what a quiet boundary moves. -/
theorem Still.of_calm {s t : State} (h : Still s) (c : Calm s t) : Still t := by
  have reg {b o : Nat} (hb : b ≠ bWORT) (ho : o < 0x10000) (hs : ¬ (b = bSPARGE ∧ o = 0x38)) : t.regN b o = s.regN b o :=
    congrArg BitVec.toNat (c.regs b o hb ho hs)
  have scrub : t.regN bGRIST 0 = s.regN bGRIST 0 := reg (by decide) (by decide) (by decide)
  have link : t.linkState = s.linkState :=
    congrArg (fun x => bits x 0 3) (reg (b := bCHAIN) (o := 0x30) (by decide) (by decide) (by decide))
  have source (n : Nat) (hn : n < 4) : (t.tbCfg n).source = (s.tbCfg n).source :=
    congrArg (fun x => bits x 0 3) (reg (b := bTIMEBASE) (o := tbReg n 0) (by decide)
      (by unfold tbReg; omega) (by simp [bTIMEBASE, bSPARGE]))
  have cfg (k j : Nat) (hk : k < 8) (hj : j < 2) : t.thrCfg k j = s.thrCfg k j :=
    reg (b := bSPARGE) (o := 0x44 + 0x20 * k + 8 * j) (by decide) (by omega) (by omega)
  have e := c.off
  simp only [State.offBoundary, State.mk.injEq, Power.mk.injEq, HostPort.mk.injEq, Firmware.mk.injEq, Hopper.mk.injEq, Mash.mk.injEq,
    Store.mk.injEq, Kiln.mk.injEq, true_and, and_true] at e
  have due (k j : Nat) (hk : k < 8) (hj : j < 2) : t.thrDue k j = s.thrDue k j := by
    unfold State.thrDue State.sense
    rw [cfg k j hk hj]
    simp only [e]
  obtain ⟨ready, voices, tasks, streams, firmware, sessions, kiln, ceilings, trackers, outside⟩ := h
  constructor
  case ready => simpa only [State.isReady, e] using ready
  case voices => simpa only [e] using voices
  case tasks => simpa only [e] using tasks
  case streams => simpa only [e, scrub] using streams
  case firmware => simpa only [e] using firmware
  case sessions => simpa only [e] using sessions
  case kiln => simpa only [e] using kiln
  case ceilings => simpa only [e] using ceilings
  case trackers =>
    refine ⟨?_, fun n hn => (source n hn).trans (trackers.2 n hn)⟩
    simpa only [e] using trackers.1
  case outside =>
    obtain ⟨hswap, hrestart, hunit, hlink, hthr⟩ := outside
    refine ⟨?_, ?_, ?_, link.trans hlink, fun k hk j hj => (due k j hk hj).trans (hthr k hk j hj)⟩
    · simpa only [e] using hswap
    · simpa only [e] using hrestart
    · simpa only [State.unitOn, e] using hunit

theorem Calm.trans {s t u : State} (h : Calm s t) (k : Calm t u) : Calm s u :=
  ⟨k.off.trans h.off, fun b o hb ho hs => (k.regs b o hb ho hs).trans (h.regs b o hb ho hs)⟩

/-! ### The stages in five groups -/

/-- Device time reaches B(n), and a heartbeat of the period that ends is taken (R24, R343). -/
def State.begun (s : State) (n : Nat) (beat : Bool) : State :=
  State.heartbeat { s with time := max s.time (n * 4096), lastBlock := n } n beat

/-- What is left of the blocks before is settled or let go, and the agreement taken (R28, R301, R402, R509). -/
def State.settled (s : State) (n : Nat) : State :=
  ((((s.regionOne n).thrSettle n).settleBlocks n).pruneMash n).takeAgreement n

/-- Faults, sessions, content, voices, streams and ceilings (R223, R283, R209, R298, R333, R347, R674). -/
def State.passed (s : State) (n : Nat) : State :=
  ((((((((s.kilnBoundary n).quarantines n).catchupsEnd n).haltSafe.closeSessions n).contentBoundary n).voicesBoundary
    n).streamsBoundary n).shedAll n)

/-- The order of R26. -/
theorem boundary_eq (s : State) (n : Nat) (b : BoundaryInput) :
    s.boundary n b = ((b.copies.foldl (fun (s : State) c => s.settleCopies n c)
      ((((s.begun n b.heartbeat).settled n).applyImages n).passed n)).hopperBoundary n).unitsBoundary n b := rfl

theorem begun_still (s : State) (n : Nat) (beat : Bool) :
    Calm s (s.begun n beat) ∧ GainsStand s (s.begun n beat)
      ∧ (s.begun n beat).course = { s.course with
          time := max s.time (n * 4096)
          lastBlock := n
          hbLast := if beat then n * 4096 else s.kiln.hbLast
          hbMissed := if beat then none else s.kiln.hbMissed } := by
  cases beat <;> exact ⟨⟨rfl, fun _ _ _ _ _ => rfl⟩, fun _ _ => rfl, rfl⟩

theorem pruneMash_off (s : State) (n : Nat) (ht : s.mash.twins = []) : (s.pruneMash n).offBoundary = s.offBoundary := by
  unfold State.pruneMash State.offBoundary
  simp only [ht, List.filter_nil]

theorem settled_still (s : State) (n : Nat) (h : Still s) :
    Calm s (s.settled n) ∧ GainsStand s (s.settled n)
      ∧ (s.settled n).course = { s.course with
          gains := s.course.gains.filter fun g => decide (n < g.1 + 5)
          snaps := s.course.snaps.filter fun p => decide (n < p.block + 10) } := by
  obtain ⟨hvoices, -, hending, htwins, -, -, -⟩ := h.voices
  obtain ⟨hunit, hregion, -, -, -, hcapture, -, -, -⟩ := h.firmware
  obtain ⟨-, -, -, -, hthr⟩ := h.outside
  obtain ⟨e, hr⟩ := settleBlocks_still s n htwins hvoices hending hcapture
  unfold State.settled
  rw [regionOne_none s n hregion, thrSettle_still s n hthr]
  generalize s.settleBlocks n = u at e hr
  have hu : u.fw = s.fw := by rw [e]
  have ht : u.mash.twins = [] := by
    rw [e]
    exact htwins
  rw [takeAgreement_none (u.pruneMash n) n ((congrArg Firmware.unitPending hu).trans hunit)]
  refine ⟨⟨?_, fun b o hb ho _ => ?_⟩, fun k hk => ?_, ?_⟩
  · rw [pruneMash_off u n ht, e]
    rfl
  · exact hr b o (by rw [Ne, regKey_inj ho (by decide)]; tauto) (by rw [Ne, regKey_inj ho (by decide)]; tauto)
  · exact hr bWORT (4 * k) (by rw [Ne, regKey_inj (by omega) (by decide)]; omega) (by rw [Ne, regKey_inj (by omega) (by decide)]; omega)
  · rw [e]
    rfl

/-- The image write of a Wort gain at a still boundary: its register, and the gains of the block (R231, R407). -/
theorem applyImages_still (s : State) (n ch : Nat) (gain : Word) (h : Still s) (hch : ch < 32)
    (hw : s.fw.writes = [⟨bWORT, 4 * ch, gain, n⟩]) :
    Calm s (s.applyImages n)
      ∧ (s.applyImages n).course = { s.course with
          writes := []
          gains := s.course.gains ++ [(n, (List.range 32).map fun k => (s.applyImages n).regN bWORT (4 * k))] }
      ∧ (s.applyImages n).reg bWORT (4 * ch) = applyAccess (regInfo s.part.variant bWORT (4 * ch)) (s.reg bWORT (4 * ch)) gain
      ∧ ∀ k < 32, k ≠ ch → (s.applyImages n).reg bWORT (4 * k) = s.reg bWORT (4 * k) := by
  obtain ⟨-, hrestart, -, -, -⟩ := h.outside
  obtain ⟨m, e⟩ := applyImages_gain s n ch gain hch hrestart hw
  have other (b o : Nat) (ho : o < 0x10000) (hne : ¬ (b = bWORT ∧ o = 4 * ch)) : (s.applyImages n).reg b o = s.reg b o := by
    rw [e]
    exact State.reg_setReg_ne s bWORT (4 * ch) b o _ (by rw [Ne, regKey_inj ho (by omega)]; exact hne)
  refine ⟨⟨?_, fun b o hb ho _ => other b o ho fun hbo => hb hbo.1⟩, ?_, ?_, fun k hk hne => other _ _ (by omega) (by omega)⟩
  · rw [e]
    rfl
  · rw [e]
    rfl
  · rw [e]
    exact State.reg_setReg s _ _ _

/-- From the faults to the ceilings nothing waits. -/
theorem passed_still (s : State) (n : Nat) (h : Still s) :
    Calm s (s.passed n) ∧ GainsStand s (s.passed n) ∧ (s.passed n).course = s.course := by
  obtain ⟨-, hacts, hready, hresets, hwindows, -⟩ := h.kiln
  obtain ⟨w, c, ek⟩ := kilnBoundary_still s n hacts hready hresets hwindows
  unfold State.passed
  generalize s.kilnBoundary n = k at ek
  have hk : Still k := h.of_calm ⟨by rw [ek]; rfl, fun _ _ _ _ _ => by rw [ek]; rfl⟩
  obtain ⟨-, -, -, -, hstopped, -, hcatchups⟩ := hk.voices
  obtain ⟨-, hfades⟩ := hk.tasks
  obtain ⟨-, -, hanchor, -⟩ := hk.streams
  obtain ⟨-, -, hbanks, hsvt, -, -, -, hreplies, -⟩ := hk.firmware
  obtain ⟨-, -, -, -, -, hsafe⟩ := hk.kiln
  rw [quarantines_none k n hstopped, catchupsEnd_none k n hcatchups, haltSafe_unsafe k hsafe, closeSessions_none k n hk.sessions hreplies]
  have ec := contentBoundary_still k n hbanks hsvt hanchor hfades
  generalize k.contentBoundary n = u at ec
  have hu : Still u := hk.of_calm ⟨by rw [ec]; rfl, fun _ _ _ _ _ => by rw [ec]; rfl⟩
  obtain ⟨hvoices, hqueued, -, -, -, hlost, -⟩ := hu.voices
  obtain ⟨hstreams, hreads, -, -⟩ := hu.streams
  rw [voicesBoundary_none u n hvoices hqueued hlost]
  have es := streamsBoundary_none u n hstreams hreads
  generalize u.streamsBoundary n = t at es
  have ht : Still t := hu.of_calm ⟨by rw [es]; rfl, fun _ _ _ _ _ => by rw [es]; rfl⟩
  rw [shedAll_unceiled t n ht.ceilings, es, ec, ek]
  exact ⟨⟨rfl, fun _ _ _ _ _ => rfl⟩, fun _ _ => rfl, rfl⟩

/-- The dispatch pass without tasks, the profiles and the snapshot of the block (R39, R202, R513). -/
theorem hopperBoundary_calm (s : State) (n : Nat) (h : Still s) :
    ∃ p, Calm s (s.hopperBoundary n) ∧ GainsStand s (s.hopperBoundary n)
      ∧ (s.hopperBoundary n).course = { s.course with snaps := s.course.snaps ++ [p], pg := p.pg, angleBlock := n }
      ∧ p.block = n ∧ p.ctl = s.hop.ctl ∧ p.pgPrev = s.hop.pg := by
  obtain ⟨htasks, -⟩ := h.tasks
  obtain ⟨htrackers, -⟩ := h.trackers
  obtain ⟨-, -, -, -, hupdates, -, -, -, -⟩ := h.firmware
  obtain ⟨-, -, hunit, hlink, -⟩ := h.outside
  obtain ⟨r, f, e, a, g, p, eh, hblock, hctl, hprev, hpg, hr⟩ := hopperBoundary_still s n htrackers hupdates hunit hlink htasks
  subst hpg
  rw [eh]
  refine ⟨p, ⟨rfl, fun b o _ ho hs => ?_⟩, fun k hk => ?_, rfl, hblock, hctl, hprev⟩
  · exact hr b o (by rw [Ne, regKey_inj ho (by decide)]; exact hs)
  · exact hr bWORT (4 * k) (by rw [Ne, regKey_inj (by omega) (by decide)]; simp [bWORT, bSPARGE])

/-- The units outside the Mash, where the die temperatures alone are news (R672). -/
theorem unitsBoundary_calm (s : State) (n : Nat) (b : BoundaryInput) (h : Still s) (hcool : max b.tempDig b.tempAna ≤ 110) :
    Calm s (s.unitsBoundary n b) ∧ GainsStand s (s.unitsBoundary n b)
      ∧ (s.unitsBoundary n b).course = { s.course with tempDig := b.tempDig, tempAna := b.tempAna } := by
  obtain ⟨-, hreads, -, hscrub⟩ := h.streams
  obtain ⟨-, -, -, -, -, hcapture, hdiag, -, hstep⟩ := h.firmware
  obtain ⟨hswap, -, -, -, -⟩ := h.outside
  obtain ⟨d, t, k, l, e⟩ := unitsBoundary_still s n b hswap hcapture hreads hscrub hdiag hstep hcool
  rw [e]
  exact ⟨⟨rfl, fun _ _ _ _ _ => rfl⟩, fun _ _ => rfl, rfl⟩

/-- A quiet boundary with one write of a Wort gain, its stages together. -/
theorem boundary_still (s : State) (n : Nat) (b : BoundaryInput) (ch : Nat) (gain : Word) (h : Still s) (hch : ch < 32)
    (hcool : max b.tempDig b.tempAna ≤ 110) (hcopies : b.copies = []) (hw : s.fw.writes = [⟨bWORT, 4 * ch, gain, n⟩]) :
    ∃ t p, s.boundary n b = t ∧ t.offBoundary = s.offBoundary
      ∧ t.course =
        { time := max s.time (n * 4096)
          lastBlock := n
          hbLast := if b.heartbeat then n * 4096 else s.kiln.hbLast
          hbMissed := if b.heartbeat then none else s.kiln.hbMissed
          writes := []
          gains := (s.mash.gains.filter fun g => decide (n < g.1 + 5)) ++ [(n, (List.range 32).map fun k => t.regN bWORT (4 * k))]
          snaps := (s.mash.snaps.filter fun p => decide (n < p.block + 10)) ++ [p]
          pg := p.pg
          angleBlock := n
          tempDig := b.tempDig
          tempAna := b.tempAna }
      ∧ p.block = n ∧ p.ctl = s.hop.ctl ∧ p.pgPrev = s.hop.pg
      ∧ t.reg bWORT (4 * ch) = applyAccess (regInfo s.part.variant bWORT (4 * ch)) (s.reg bWORT (4 * ch)) gain
      ∧ ∀ k < 32, k ≠ ch → t.reg bWORT (4 * k) = s.reg bWORT (4 * k) := by
  rw [boundary_eq, hcopies, List.foldl_nil]
  obtain ⟨c1, g1, e1⟩ := begun_still s n b.heartbeat
  generalize s.begun n b.heartbeat = t1 at c1 g1 e1
  obtain ⟨c2, g2, e2⟩ := settled_still t1 n (h.of_calm c1)
  generalize t1.settled n = t2 at c2 g2 e2
  have c2 := c1.trans c2
  have w2 : t2.fw.writes = [⟨bWORT, 4 * ch, gain, n⟩] :=
    (congrArg Course.writes e2 : _).trans ((congrArg Course.writes e1 : _).trans hw)
  obtain ⟨c3, e3, r3, g3⟩ := applyImages_still t2 n ch gain (h.of_calm c2) hch w2
  generalize t2.applyImages n = t3 at c3 e3 r3 g3
  have c3 := c2.trans c3
  obtain ⟨c4, g4, e4⟩ := passed_still t3 n (h.of_calm c3)
  generalize t3.passed n = t4 at c4 g4 e4
  have c4 := c3.trans c4
  obtain ⟨p, c5, g5, e5, hblock, hctl, hprev⟩ := hopperBoundary_calm t4 n (h.of_calm c4)
  generalize t4.hopperBoundary n = t5 at c5 g5 e5
  have c5 := c4.trans c5
  obtain ⟨c6, g6, e6⟩ := unitsBoundary_calm t5 n b (h.of_calm c5) hcool
  generalize t5.unitsBoundary n b = t6 at c6 g6 e6
  have late (k : Nat) (hk : k < 32) : t6.reg bWORT (4 * k) = t3.reg bWORT (4 * k) := (g6 k hk).trans ((g5 k hk).trans (g4 k hk))
  have early (k : Nat) (hk : k < 32) : t2.reg bWORT (4 * k) = s.reg bWORT (4 * k) := (g2 k hk).trans (g1 k hk)
  have listed : (List.range 32).map (fun k => t3.regN bWORT (4 * k)) = (List.range 32).map fun k => t6.regN bWORT (4 * k) :=
    List.map_congr_left fun k hk => congrArg BitVec.toNat (late k (List.mem_range.1 hk)).symm
  have part : t2.part = s.part := (congrArg State.part c2.off : _)
  have ctl : t4.hop.ctl = s.hop.ctl := (congrArg (fun z : State => z.hop.ctl) c4.off : _)
  have pg : t4.hop.pg = s.hop.pg := by
    have e : t4.course.pg = s.course.pg := by rw [e4, e3, e2, e1]
    exact e
  refine ⟨t6, p, rfl, c6.off.trans c5.off, ?_, hblock, hctl.trans ctl, hprev.trans pg, ?_, fun k hk hne => ?_⟩
  · rw [e6, e5, e4, e3, e2, e1, listed]
    rfl
  · rw [late ch hch, r3, part, early ch hch]
  · rw [late k hk, g3 k hk hne, early k hk]

/-- Settles O32: the stages of a quiet boundary, and what each of them moves. -/
theorem boundaryOfBlock : Obligations.BoundaryOfBlock := by
  unfold Obligations.BoundaryOfBlock
  intro s b ch gain h hch hcool hcopies _ hw n
  obtain ⟨t, p, et, off, course, hblock, hctl, hprev, hreg, hregs⟩ := boundary_still s n b ch gain h hch hcool hcopies hw
  obtain ⟨hquiet, -⟩ := h.kiln
  have hex : exec (.blockBoundary b) s = .next t := by
    rw [exec_blockBoundary, execBlockBoundary, if_pos h.ready, et]
    exact ends_quiet s t ((congrArg (fun z : State => z.kiln.raised) off : _).trans hquiet) (congrArg State.pending off : _)
      (congrArg State.part off : _)
  have hgains : t.mash.gains = (s.mash.gains.filter fun g => decide (n < g.1 + 5)) ++
      [(n, (List.range 32).map fun k => t.regN bWORT (4 * k))] :=
    (congrArg Course.gains course : _)
  have hsnaps : t.mash.snaps = (s.mash.snaps.filter fun p => decide (n < p.block + 10)) ++ [p] := (congrArg Course.snaps course : _)
  have hlast : t.kiln.hbLast = if b.heartbeat then n * 4096 else s.kiln.hbLast := (congrArg Course.hbLast course : _)
  have hmissed : t.kiln.hbMissed = if b.heartbeat then none else s.kiln.hbMissed := (congrArg Course.hbMissed course : _)
  refine ⟨t, p, hex, (congrArg Course.lastBlock course : _), (congrArg Course.time course : _), (congrArg Course.writes course : _),
    hreg, hregs,
    by rw [hgains, List.getLast?_concat], by rw [hsnaps, List.getLast?_concat], hblock, hctl, hprev, (congrArg Course.pg course : _).symm,
    (congrArg Course.angleBlock course : _), (congrArg Course.tempDig course : _), (congrArg Course.tempAna course : _),
    (congrArg (fun z : State => z.host.mailbox) off : _), (congrArg (fun z : State => z.kiln.log) off : _), (congrArg State.cop off : _),
    fun hb => by rw [hlast, hmissed, hb]; exact ⟨rfl, rfl⟩, fun hb => by rw [hlast, hmissed, hb]; exact ⟨rfl, rfl⟩,
    (congrArg (fun z : State => z.store.flash) off : _), (congrArg State.chain off : _), (congrArg State.tdm off : _),
    (congrArg State.dacs off : _), (congrArg State.uarts off : _)⟩

end Sys2Proof.Machine
end

section
/-! The words of byte images, and the wavetable memories after a table has entered them (R13, R66, R101). -/
namespace Sys2Proof.Machine

theorem u8_drop (l : List Byte) (a i : Nat) : u8 (l.drop a) i = u8 l (a + i) := by
  simp only [u8, List.getD_eq_getElem?_getD, List.getElem?_drop]

theorem u32_drop (l : List Byte) (a i : Nat) : u32 (l.drop a) i = u32 l (a + i) := by
  simp only [u32, u16, u8_drop, Nat.add_assoc]

/-- Word k of an image is made of its bytes from 4 k on (R13). -/
theorem bytesWords_getElem? (n : Nat) (l : List Byte) (k : Nat) :
    (bytesWords n l)[k]? = if k < n then some (w32 (u32 l (4 * k))) else none := by
  induction n generalizing l k with
  | zero => simp [bytesWords]
  | succ n ih =>
    cases k with
    | zero => simp [bytesWords]
    | succ k =>
      have hbyte : 4 + 4 * k = 4 * (k + 1) := by omega
      rw [bytesWords, List.getElem?_cons_succ, ih, u32_drop, hbyte]
      simp only [Nat.add_lt_add_iff_right]

/-- A table written over one copy: its own words read back, every later word stands. -/
theorem sget_tableWords (m : Sparse Word) (q n : Nat) (b : List Byte) (k : Nat) :
    sget (fun _ => 0) (sputs (fun _ => 0) m (q * 2048) (bytesWords (2048 * n) (b.drop 0x40))) (2048 * q + k)
      = if k < 2048 * n then w32 (u32 b (0x40 + 4 * k)) else sget (fun _ => 0) m (2048 * q + k) := by
  have hoff : 2048 * q + k - q * 2048 = k := by omega
  rw [sget_sputs, if_pos (by omega), hoff, bytesWords_getElem?, u32_drop]
  split <;> rfl

/-- The table stands alike in the copy of every region that the part has (R101). -/
theorem writeTable_read (s : State) (q n : Nat) (b : List Byte) (r k : Nat) (hr : r < s.part.variant.regionCount) :
    sget (fun _ => 0) ((s.writeTable q b n).mash.wave.getD r []) (2048 * q + k)
      = if k < 2048 * n then w32 (u32 b (0x40 + 4 * k)) else sget (fun _ => 0) (s.mash.wave.getD r []) (2048 * q + k) := by
  have two : s.part.variant.regionCount ≤ 2 := by
    cases s.part.variant <;> decide
  match r, hr with
  | 0, _ => exact sget_tableWords _ q n b k
  | 1, hr =>
    have both : s.part.variant.regionCount = 2 := by omega
    unfold State.writeTable
    simp only [if_pos both, List.getD_cons_succ, List.getD_cons_zero]
    exact sget_tableWords _ q n b k
  | r + 2, hr => omega

/-- A table that comes in is resident. -/
theorem residentTables_append (s : State) (t : Table) (h : t.gone = none) :
    ({ s with fw.tables := s.fw.tables ++ [t] } : State).residentTables = s.residentTables + 1 := by
  simp [State.residentTables, List.filter_append, h]

end Sys2Proof.Machine
end

section
/-! The ends of BANK_LOAD, SVT_LOAD and WT_LOAD whose object reads without an error (R101, R139, R428 to R431). -/
namespace Sys2Proof.Machine

theorem Outstanding.jobOf {s : State} {op n : Nat} {j : Job} (h : Outstanding s op n j) : s.jobOf op = some j := h.1

/-- An outstanding command that ends without a message, its event ring untouched until then, finishes with its COMPLETION. -/
theorem Outstanding.finishes {s u : State} {op n : Nat} {j : Job} {i : Instr} {st : Nat} {ws : List Word}
    (h : Outstanding s op n j) (hi : exec i s = s.ends (u.complete j st ws)) (hn : ws.length = n)
    (hk : u.kiln = s.kiln) (hr : SameEvents s u) : Finishes s i j st ws u := by
  obtain ⟨-, horigin, hclear, hquiet⟩ := h
  subst hn
  exact finishes_of_ends s u i j st ws horigin hi (by rw [hk, hquiet]) hclear hr

section Loads
variable {s : State} {rd : List PageFault} {j : Job} {b : List Byte}

/-! ### Banks (R428) -/

/-- A bank that passes its check waits for the boundary, in place of an earlier one for its slot. -/
theorem bankLoadDone_good {bank : Bank} (hj : s.jobOf 0x30 = some j) (hb : s.fetchObject rd (bits (j.w 0) 16 16) 3 = (.ok b, s))
    (hl : 12 ≤ b.length) (hc : s.checkBank rd (bits (j.w 0) 0 2) (bits (j.w 0) 16 16) b = (.ok bank, s)) :
    s.bankLoadDone rd =
      ({ s with fw.bankNext := (s.fw.bankNext.filter fun (x : Nat × Option Bank) => x.1 != bits (j.w 0) 0 2)
          ++ [(bits (j.w 0) 0 2, some bank)] } : State).complete j stOk
        [w32 (u32 b 8), w32 (u16 b 6 % 512 + 0xFFFF0000), 0xFFFFFFFF] := by
  have hid : ¬ b.length < 0xC := by omega
  have hcount : ¬ b.length < 8 := by omega
  simp only [State.bankLoadDone, hj, hb, hc, if_neg hid, if_neg hcount]

/-- A bank that fails its check is reported by its status, recipe and offset, and nothing waits for the boundary. -/
theorem bankLoadDone_bad {f : BankFault} (hj : s.jobOf 0x30 = some j) (hb : s.fetchObject rd (bits (j.w 0) 16 16) 3 = (.ok b, s))
    (hl : 12 ≤ b.length) (hc : s.checkBank rd (bits (j.w 0) 0 2) (bits (j.w 0) 16 16) b = (.error f, s)) :
    s.bankLoadDone rd =
      s.complete j f.status [w32 (u32 b 8), w32 (u16 b 6 % 512 + f.recipe * 0x10000), w32 f.offset] := by
  have hid : ¬ b.length < 0xC := by omega
  have hcount : ¬ b.length < 8 := by omega
  simp only [State.bankLoadDone, hj, hb, hc, if_neg hid, if_neg hcount]

/-! ### Speaker vectors (R139, R430) -/

/-- A speaker-vector table of the one right length waits for the boundary. -/
theorem svtLoadDone_good (hj : s.jobOf 0x32 = some j) (hb : s.fetchObject rd (bits (j.w 0) 16 16) 4 = (.ok b, s))
    (hl : b.length = 8192) :
    s.svtLoadDone rd =
      ({ s with fw.svtNext := some (bits (j.w 0) 16 16, (List.range 4096).map fun i => u16 b (2 * i)) } : State).complete j stOk
        [w32 s.nextBlock] := by
  have hsize : ¬ b.length ≠ 8192 := not_not_intro hl
  simp only [State.svtLoadDone, hj, hb, if_neg hsize]

/-! ### Wavetables (R101, R431) -/

/-- The state with a table in its frame slots and in the list of tables, from the next block on. -/
def State.withTable (s : State) (obj q n : Nat) (b : List Byte) : State :=
  { s.writeTable q b n with fw.tables := s.fw.tables ++ [Table.mk obj q n s.nextBlock none] }

theorem withTable_residentTables (s : State) (obj q n : Nat) (b : List Byte) :
    (s.withTable obj q n b).residentTables = s.residentTables + 1 :=
  residentTables_append (s.writeTable q b n) _ rfl

/-- A sound wavetable enters the first run of frame slots that is free. -/
theorem wtLoadDone_good {n q : Nat} (hj : s.jobOf 0x33 = some j) (hb : s.fetchObject rd (bits (j.w 0) 16 16) 2 = (.ok b, s))
    (hn : wavetableFrames b = some n) (hroom : s.residentTables < 128) (hcrc : frameCrcsOk b n = true) (hq : s.freeRun n = some q) :
    s.wtLoadDone rd =
      (s.withTable (bits (j.w 0) 16 16) q n b).complete j stOk [w32 (q + 0x100 * n + 0x10000 * (s.residentTables + 1))] := by
  have hfits : ¬ (128 ≤ s.residentTables ∨ (!frameCrcsOk b n) = true) := by
    rw [hcrc, not_or]
    exact ⟨Nat.not_le.2 hroom, Bool.false_ne_true⟩
  rw [← withTable_residentTables s (bits (j.w 0) 16 16) q n b]
  simp only [State.wtLoadDone, hj, hb, hn, if_neg hfits, hq]
  rfl

/-- A wavetable finds no space: too many tables, a frame that fails its CRC, or no run of free slots. -/
theorem wtLoadDone_noSpace {n : Nat} (hj : s.jobOf 0x33 = some j) (hb : s.fetchObject rd (bits (j.w 0) 16 16) 2 = (.ok b, s))
    (hn : wavetableFrames b = some n) (hbad : 128 ≤ s.residentTables ∨ frameCrcsOk b n = false ∨ s.freeRun n = none) :
    s.wtLoadDone rd = s.complete j stNoSpace [w32 (0x10000 * s.residentTables)] := by
  have hnone : (if 128 ≤ s.residentTables ∨ (!frameCrcsOk b n) = true then none else s.freeRun n) = none := by
    rcases hbad with hfull | hcrc | hrun
    · exact if_pos (.inl hfull)
    · exact if_pos (.inr (by rw [hcrc]; rfl))
    · rw [hrun, ite_self]
  simp only [State.wtLoadDone, hj, hb, hn, hnone]

/-- The end of a WT_LOAD with a sound table: its COMPLETION, its entry among the tables, its words in every copy. -/
theorem wtLoadDone_enters {n q : Nat} (ho : Outstanding s 0x33 1 j) (hb : s.fetchObject rd (bits (j.w 0) 16 16) 2 = (.ok b, s))
    (hn : wavetableFrames b = some n) (hroom : s.residentTables < 128) (hcrc : frameCrcsOk b n = true) (hq : s.freeRun n = some q) :
    ∃ t, exec (.wtLoadDone rd) s = .next t
      ∧ t.offRings = ({ s with
          mash.wave := t.mash.wave
          fw.tables := s.fw.tables ++ [Table.mk (bits (j.w 0) 16 16) q n s.nextBlock none]
          fw.jobs := s.fw.jobs.erase j } : State).offRings
      ∧ Posts s t 0x81 j.session (completionWords j stOk [w32 (q + 0x100 * n + 0x10000 * (s.residentTables + 1))])
      ∧ t.mash.wave = (s.writeTable q b n).mash.wave := by
  obtain ⟨t, hexec, hoff, hposts⟩ := ho.finishes (u := s.withTable (bits (j.w 0) 16 16) q n b)
    (by rw [exec_wtLoadDone, execWtLoadDone, wtLoadDone_good ho.jobOf hb hn hroom hcrc hq]) rfl rfl
    (SameEvents.refl s)
  have hwave : t.mash.wave = (s.writeTable q b n).mash.wave := (congrArg (fun x : State => x.mash.wave) hoff : _)
  exact ⟨t, hexec, by rw [hoff, hwave]; rfl, hposts, hwave⟩

end Loads

/-! ### The statement -/

/-- Settles O20: each end is the completion of a state that differs from the old one in what it loads, or in nothing. -/
theorem contentLoaded : Obligations.ContentLoaded := by
  unfold Obligations.ContentLoaded
  intro s rd j b
  refine ⟨fun bank ho hb hl hc => ?_, fun f ho hb hl hc => ?_, fun ho hb hl => ?_, fun n q ho hb hn hroom hcrc hq => ?_,
    fun n ho hb hn hbad => ?_⟩
  · exact ho.finishes (by rw [exec_bankLoadDone, execBankLoadDone, bankLoadDone_good ho.jobOf hb hl hc]; rfl) rfl rfl (SameEvents.refl s)
  · exact ho.finishes (by rw [exec_bankLoadDone, execBankLoadDone, bankLoadDone_bad ho.jobOf hb hl hc]) rfl rfl (SameEvents.refl s)
  · exact ho.finishes (by rw [exec_svtLoadDone, execSvtLoadDone, svtLoadDone_good ho.jobOf hb hl]; rfl) rfl rfl (SameEvents.refl s)
  · obtain ⟨t, hexec, hoff, hposts, hwave⟩ := wtLoadDone_enters ho hb hn hroom hcrc hq
    exact ⟨t, hexec, hoff, hposts, fun r hr k => by rw [hwave]; exact writeTable_read s q n b r k hr⟩
  · exact ho.finishes (by rw [exec_wtLoadDone, execWtLoadDone, wtLoadDone_noSpace ho.jobOf hb hn hbad]; rfl) rfl rfl (SameEvents.refl s)

end Sys2Proof.Machine
end

section
/-! Accepted edges at the trackers (R149 to R152): an edge changes each tracker by itself, and besides TB_EVENT and the rings nothing
that another tracker looks at. -/
namespace Sys2Proof.Machine

/-! ### What the edges of a pin leave -/

/-- What trackers look at besides themselves is in `t` as in `s`: their pins and the TIMEBASE image but for TB_EVENT. -/
structure TbKept (s t : State) : Prop where
  time    : t.time = s.time
  tbPins  : t.tbPins = s.tbPins
  count   : t.tbs.length = s.tbs.length
  pending : t.pending = s.pending
  part    : t.part = s.part
  reg     : ∀ o, o ≠ 4 → t.reg bTIMEBASE o = s.reg bTIMEBASE o

theorem TbKept.refl (s : State) : TbKept s s := ⟨rfl, rfl, rfl, rfl, rfl, fun _ _ => rfl⟩

theorem TbKept.trans {s t u : State} (h : TbKept s t) (k : TbKept t u) : TbKept s u :=
  ⟨k.time.trans h.time, k.tbPins.trans h.tbPins, k.count.trans h.count, k.pending.trans h.pending, k.part.trans h.part,
    fun o ho => (k.reg o ho).trans (h.reg o ho)⟩

theorem TbKept.tbCfg {s t : State} (h : TbKept s t) (n : Nat) : t.tbCfg n = s.tbCfg n := by
  have set (r : Nat) : t.regN bTIMEBASE (tbReg n r) = s.regN bTIMEBASE (tbReg n r) :=
    congrArg BitVec.toNat (h.reg _ (by unfold tbReg; omega))
  simp only [State.tbCfg, set]

theorem TbKept.pinActive {s t : State} (h : TbKept s t) (p : Nat) (level : Bool) : t.pinActive p level = s.pinActive p level := by
  simp only [State.pinActive, State.pinPol, State.regN, h.reg 0 (by decide)]

theorem TbKept.pinOf {s t : State} (h : TbKept s t) (p : Nat) : t.pinOf p = s.pinOf p := by
  unfold State.pinOf
  rw [h.tbPins]

theorem setTracker_kept (s : State) (n : Nat) (k : Tracker) : TbKept s (s.setTracker n k) :=
  ⟨rfl, rfl, List.length_set, rfl, rfl, fun _ _ => rfl⟩

theorem tracker_setTracker (s : State) (n m : Nat) (k : Tracker) (h : n < s.tbs.length) :
    (s.setTracker n k).tracker m = if m = n then k else s.tracker m := by
  unfold State.tracker State.setTracker
  simp only [List.getD_eq_getElem?_getD, List.getElem?_set]
  split
  next e =>
    subst e
    simp only [if_true, Option.getD_some]
  next e => rw [if_neg (Ne.symm e)]

theorem setTracker_tracker (s : State) (n : Nat) : s.setTracker n (s.tracker n) = s := by
  unfold State.setTracker State.tracker
  rw [set_getD_self]

/-- TB_EVENT and the event of R396 leave the trackers and what they look at. -/
theorem tbEvent_kept (s : State) (n ev : Nat) : TbKept s (s.tbEvent n ev) ∧ (s.tbEvent n ev).tbs = s.tbs := by
  have key (o : Nat) (h : o ≠ 4) : regKey bTIMEBASE o ≠ regKey bTIMEBASE 4 := by
    unfold regKey
    omega
  have noted (w : Word) : TbKept s (s.setReg bTIMEBASE 4 w) :=
    ⟨rfl, rfl, rfl, rfl, rfl, fun o h => State.reg_setReg_ne s _ _ _ _ w (key o h)⟩
  unfold State.tbEvent
  split
  · exact ⟨.refl s, rfl⟩
  · dsimp only
    split
    · exact ⟨noted _, rfl⟩
    · have posted (u : State) (ws : List Word) : TbKept u (u.event 0x84 0 ws) ∧ (u.event 0x84 0 ws).tbs = u.tbs := by
        have off := event_off u 0x84 0 ws
        have tbs : (u.event 0x84 0 ws).tbs = u.tbs := (congrArg State.tbs off : _)
        exact ⟨⟨(congrArg State.time off : _), (congrArg State.tbPins off : _), congrArg List.length tbs, (congrArg State.pending off : _),
          (congrArg State.part off : _), fun o _ => (congrArg (fun x : State => x.reg bTIMEBASE o) off : _)⟩, tbs⟩
      exact ⟨(noted _).trans (posted _ _).1, (posted _ _).2⟩

/-! ### What an edge makes of a tracker -/

/-- Tracker n after an edge on pin p, as `State.trackerEdge` leaves it. -/
def State.edged (s : State) (p : Nat) (level both : Bool) (t n : Nat) : Tracker :=
  let c := s.tbCfg n
  let k := s.tracker n
  let active := s.pinActive p level
  let k1 :=
    if !c.edgePin p then k
    else if c.source = 1 then k.toothPin c active t
    else if both then (if p = c.pin then k.quadBoth t else k)
    else if p = c.pin then k.quadPin c true level (s.pinOf (p + 1)).1 t
    else k.quadPin c false (s.pinOf c.pin).1 level t
  if c.refEn && active && p == c.refPin then
    if c.source = 1 then k1.toothRef c else if c.source = 2 then k1.quadIndex c t else k1
  else k1

theorem trackerEdge_eq (s : State) (p : Nat) (level both : Bool) (t n : Nat) :
    s.trackerEdge p level both t n =
      if (s.edged p level both t n).reverse != (s.tracker n).reverse then (s.setTracker n (s.edged p level both t n)).tbEvent n 8
      else s.setTracker n (s.edged p level both t n) := rfl

theorem trackerEdge_kept (s : State) (p : Nat) (level both : Bool) (t n : Nat) :
    TbKept s (s.trackerEdge p level both t n)
      ∧ (s.trackerEdge p level both t n).tbs = (s.setTracker n (s.edged p level both t n)).tbs := by
  rw [trackerEdge_eq]
  split
  · obtain ⟨kept, tbs⟩ := tbEvent_kept (s.setTracker n (s.edged p level both t n)) n 8
    exact ⟨(setTracker_kept s n _).trans kept, tbs⟩
  · exact ⟨setTracker_kept s n _, rfl⟩

theorem trackerEdge_tracker (s : State) (p : Nat) (level both : Bool) (t n m : Nat) (h : n < s.tbs.length) :
    (s.trackerEdge p level both t n).tracker m = if m = n then s.edged p level both t n else s.tracker m := by
  rw [← tracker_setTracker s n m _ h]
  unfold State.tracker
  rw [(trackerEdge_kept s p level both t n).2]

theorem TbKept.edged {s t : State} (h : TbKept s t) (p : Nat) (level both : Bool) (cycle n : Nat) (hk : t.tracker n = s.tracker n) :
    t.edged p level both cycle n = s.edged p level both cycle n := by
  simp only [State.edged, h.tbCfg, h.pinActive, h.pinOf, hk]

/-- An edge handed to the trackers of a list one by one: each of them takes it as if it were alone. -/
theorem trackerEdges (p : Nat) (level both : Bool) (t : Nat) (l : List Nat) (s : State) (hl : l.Nodup) (hn : ∀ i ∈ l, i < s.tbs.length) :
    let u := l.foldl (fun (s : State) i => s.trackerEdge p level both t i) s
    TbKept s u ∧ ∀ m, u.tracker m = if m ∈ l then s.edged p level both t m else s.tracker m := by
  induction l generalizing s with
  | nil => exact ⟨.refl s, fun m => rfl⟩
  | cons i l ih =>
    obtain ⟨hi, hl⟩ := List.nodup_cons.1 hl
    obtain ⟨kept, -⟩ := trackerEdge_kept s p level both t i
    have one := trackerEdge_tracker s p level both t i
    obtain ⟨rest, each⟩ := ih (s.trackerEdge p level both t i) hl fun j hj => kept.count ▸ hn j (List.mem_cons_of_mem _ hj)
    refine ⟨kept.trans rest, fun m => ?_⟩
    rw [List.foldl_cons, each m]
    by_cases hm : m = i
    · subst hm
      rw [if_neg hi, if_pos List.mem_cons_self, one m (hn m List.mem_cons_self), if_pos rfl]
    · have other : (s.trackerEdge p level both t i).tracker m = s.tracker m := by
        rw [one m (hn i List.mem_cons_self), if_neg hm]
      rw [kept.edged p level both t m other, other]
      simp only [List.mem_cons, hm, false_or]

/-- One accepted edge: its pin shows it and every tracker takes it. -/
theorem oneEdge_trackers (s : State) (p : Nat) (level both : Bool) (cycle : Nat) (h : s.tbs.length = 4) :
    TbKept { s with tbPins := s.tbPins.set p (level, cycle) } (s.oneEdge p level both cycle)
      ∧ ∀ n < 4, (s.oneEdge p level both cycle).tracker n = s.edged p level both cycle n := by
  obtain ⟨kept, each⟩ := trackerEdges p level both cycle (List.range 4) s List.nodup_range fun i hi => h ▸ List.mem_range.1 hi
  refine ⟨⟨kept.time, ?_, kept.count, kept.pending, kept.part, kept.reg⟩, fun n hn => (each n).trans (if_pos (List.mem_range.2 hn))⟩
  exact congrArg (fun l : List (Bool × Nat) => l.set p (level, cycle)) kept.tbPins

/-! ### TB_EDGE -/

/-- An edge the pin cannot show changes nothing (R151, log 24). -/
theorem exec_tbEdge_unfit (s : State) (p : Nat) (level : Bool) (cycle : Nat) (both : Bool) (h : s.edgeFits p level cycle = false) :
    exec (.tbEdge p level cycle both) s = .next s := by
  rw [exec_tbEdge, execTbEdge]
  unfold State.tbEdge
  rw [if_pos (by simp [h])]
  exact done_same s s rfl rfl

/-- A pin that had an edge shows none before its level changes and its filter has passed (R151). -/
theorem edgeFits_early (s : State) (p : Nat) (level : Bool) (cycle : Nat) (hp : (s.pinOf p).2 ≠ 0)
    (h : level = (s.pinOf p).1 ∨ cycle < (s.pinOf p).2 + s.pinHold p) : s.edgeFits p level cycle = false := by
  unfold State.edgeFits
  rcases h with h | h
  · simp [hp, h]
  · simp [hp, Nat.not_le.2 h]

theorem exec_tbEdge_single (s : State) (p : Nat) (level : Bool) (cycle : Nat) (ht : s.tracksEdges = true) (hl : s.tbs.length = 4)
    (h : s.edgeFits p level cycle = true) :
    ∃ t, exec (.tbEdge p level cycle false) s = .next t ∧ t.time = max s.time (cycle / 18) ∧ t.tbPins = s.tbPins.set p (level, cycle)
      ∧ ∀ n < 4, t.tracker n = s.edged p level false cycle n := by
  obtain ⟨kept, each⟩ := oneEdge_trackers { s with time := max s.time (cycle / 18) } p level false cycle hl
  refine ⟨_, ?_, kept.time, kept.tbPins, each⟩
  rw [exec_tbEdge, execTbEdge]
  unfold State.tbEdge
  rw [if_neg (by simp [ht, h])]
  dsimp only
  rw [Bool.false_and, if_neg Bool.false_ne_true]
  exact done_same s _ kept.pending kept.part

/-- Edges on both pins of a pair in one core cycle: pin A's first, then pin B's, each marked as one of two (R161). -/
theorem exec_tbEdge_both (s : State) (p : Nat) (level : Bool) (cycle : Nat) (ht : s.tracksEdges = true) (hl : s.tbs.length = 4)
    (heven : p % 2 = 0) (h : s.edgeFits p level cycle = true) (hq : s.edgeFits (p + 1) (!(s.pinOf (p + 1)).1) cycle = true) :
    ∃ t u : State, exec (.tbEdge p level cycle true) s = .next t ∧ (∀ n, u.tbCfg n = s.tbCfg n)
      ∧ (∀ n < 4, u.tracker n = s.edged p level true cycle n)
      ∧ ∀ n < 4, t.tracker n = u.edged (p + 1) (!(s.pinOf (p + 1)).1) true cycle n := by
  obtain ⟨kept, each⟩ := oneEdge_trackers { s with time := max s.time (cycle / 18) } p level true cycle hl
  obtain ⟨kept', each'⟩ := oneEdge_trackers _ (p + 1) (!(s.pinOf (p + 1)).1) true cycle (kept.count.trans hl)
  refine ⟨_, _, ?_, kept.tbCfg, each, each'⟩
  have other : otherPin p = p + 1 := if_pos heven
  have hlt : p < p + 1 := Nat.lt_succ_self p
  rw [exec_tbEdge, execTbEdge]
  unfold State.tbEdge
  rw [other, if_neg (by simp [ht, h])]
  dsimp only
  rw [hq, Bool.and_self, if_pos rfl, if_pos hlt, if_pos hlt, Nat.min_eq_left hlt.le, Nat.max_eq_right hlt.le]
  exact done_same s _ (kept'.pending.trans kept.pending) (kept'.part.trans kept.part)

/-! ### A tracker at its edge -/

theorem edged_off (s : State) (p : Nat) (level both : Bool) (cycle n : Nat) (h : (s.tbCfg n).source = 0) :
    s.edged p level both cycle n = s.tracker n := by
  simp [State.edged, TbCfg.edgePin, h]

/-- The active edge of a plain tooth pin (R152). -/
theorem edged_tooth (s : State) (p : Nat) (level both : Bool) (cycle n : Nat) (hs : (s.tbCfg n).source = 1) (hp : p = (s.tbCfg n).pin)
    (ha : s.pinActive p level = true) (hd : (s.tbCfg n).dirMode = false) (hr : (s.tbCfg n).refEn = false) :
    s.edged p level both cycle n = (s.tracker n).toothEdge (s.tbCfg n) cycle false := by
  simp [State.edged, TbCfg.edgePin, Tracker.toothPin, hs, ← hp, ha, hd, hr]

/-- Of two edges in one core cycle the one on pin A is the error, that on pin B nothing more (R161). -/
theorem edged_quadBoth (s : State) (p : Nat) (level : Bool) (cycle n : Nat) (hs : (s.tbCfg n).source = 2) (hr : (s.tbCfg n).refEn = false)
    (hp : p = (s.tbCfg n).pin ∨ p = (s.tbCfg n).pin + 1) :
    s.edged p level true cycle n = if p = (s.tbCfg n).pin then (s.tracker n).quadBoth cycle else s.tracker n := by
  have pin : (s.tbCfg n).edgePin p = true := by simpa [TbCfg.edgePin, hs] using hp
  simp [State.edged, pin, hs, hr]

/-- An input has come at time t: the timeout starts anew (R175). -/
def Tracker.heard (t : Nat) (k : Tracker) : Tracker := { k with lastInput := t, quiet := false }

theorem quadBoth_synced (t : Nat) (k : Tracker) (h : k.now = 3) : k.quadBoth t = (k.heard t).lose t 4 := if_pos h

/-- The first tooth edge of an unsynced tracker starts SYNCING (R175). -/
theorem toothEdge_unsynced (c : TbCfg) (t : Nat) (rv : Bool) (k : Tracker) (h : k.now = 1) (hrev : k.reverse = rv) :
    k.toothEdge c t rv = (k.heard t).startSync t := by
  have now : ({ k with lastInput := t, quiet := false } : Tracker).now = 1 := h
  subst hrev
  unfold Tracker.toothEdge
  simp only [now]
  rfl

theorem toothEdge_synced (c : TbCfg) (t : Nat) (rv : Bool) (k : Tracker) (h : k.now = 3) :
    k.toothEdge c t rv = (k.heard t).toothSynced c t rv := by
  have now : ({ k with lastInput := t, quiet := false } : Tracker).now = 3 := h
  unfold Tracker.toothEdge
  simp only [now]
  rfl

/-- What an estimate gives, and that it leaves position and state (R169). -/
theorem estimate_fields (c : TbCfg) (span : Int) (p : Nat) (k : Tracker) :
    let m := rndDiv (span * 2 ^ tbF) (max 1 p : Nat)
    let e := k.estimate c span p
    e.w = (if k.first then m else k.w + rndShift (m - k.w) c.sShift) ∧ e.now = k.now ∧ e.tooth = k.tooth ∧ e.rev = k.rev := by
  unfold Tracker.estimate
  dsimp only
  split <;> exact ⟨rfl, rfl, rfl, rfl⟩

/-! ### A wheel without a gap in SYNCED -/

section Gapless

variable {c : TbCfg} {k : Tracker} {t : Nat} (hgap : c.gap = 0) (hrev : k.reverse = false)
include hgap hrev

/-- The teeth of a wheel without a gap follow one another round the turn (R155, R158). -/
theorem nextTooth_gapless : c.nextTooth false k =
    (if c.teeth ≤ k.tooth + 1 then 0 else k.tooth + 1, if c.teeth ≤ k.tooth + 1 then k.rev + 1 else k.rev, false) := by
  have last : c.present ≤ k.tooth + 1 ↔ c.teeth ≤ k.tooth + 1 := by
    unfold TbCfg.present
    omega
  unfold TbCfg.nextTooth
  rw [if_neg (by simp [hrev])]
  simp only [Bool.false_eq_true, if_false, last, hgap, Nat.lt_irrefl, decide_false]
  split <;> rfl

/-- An interval outside the ratio limits loses sync with cause TOOTH_WINDOW (R157). -/
theorem toothSynced_outside (hvalid : 1 ≤ k.valid) (h : c.toothOk k (t - k.lastEdge.getD t) = false) :
    k.toothSynced c t false = k.lose t 1 := by
  unfold Tracker.toothSynced
  rw [nextTooth_gapless hgap hrev]
  simp [hrev, hgap, hvalid, h]

/-- An interval inside the limits makes an estimate and moves on to the next tooth (R157, R169). -/
theorem toothSynced_inside {i : Nat} {g : Int} (href : c.refEn = false) (hnext : c.nextTooth false k = (i, g, false))
    (hok : c.toothOk k (t - k.lastEdge.getD t) = true)
    (hover : overspeed (c.angleOf g i - c.angleOf k.rev k.tooth) (t - k.lastEdge.getD t) = false) :
    let p := t - k.lastEdge.getD t
    let m := rndDiv ((c.angleOf g i - c.angleOf k.rev k.tooth) * 2 ^ tbF) (max 1 p : Nat)
    let u := k.toothSynced c t false
    u.now = k.now ∧ u.lastEdge = some t ∧ u.p = p ∧ u.tooth = i ∧ u.rev = g
      ∧ u.w = if k.first then m else k.w + rndShift (m - k.w) c.sShift := by
  intro p m u
  have moved : u =
      let k2 := { ({ k with tooth := i, rev := g } : Tracker).estimate c (c.angleOf g i - c.angleOf k.rev k.tooth) p with
        p := p, span := 1, valid := 1 }
      k2.refer c t (c.gapNext k2) := by
    unfold u Tracker.toothSynced
    rw [hnext]
    simp [hrev, hgap, hok, hover, Tracker.checkRef, href, p]
  obtain ⟨hw, hnow, htooth, hturn⟩ := estimate_fields c (c.angleOf g i - c.angleOf k.rev k.tooth) p { k with tooth := i, rev := g }
  rw [moved]
  exact ⟨hnow, rfl, rfl, htooth, hturn, hw⟩

end Gapless

end Sys2Proof.Machine
end

section
/-! The trackers (R151, R152, R155 to R157, R161, R169, R175, R176, R178, R188): tooth and quadrature edges, and timeouts. -/
namespace Sys2Proof.Machine

theorem toothEdges : Says.ToothEdges := by
  unfold Says.ToothEdges
  intro s p n cycle level _ hn ht hl _ c k period wraps span plain synced
  refine ⟨fun h both => exec_tbEdge_unfit s p level cycle both h, edgeFits_early s p level cycle, ?pair, ?single⟩
  case pair =>
    intro h hq heven hs hp hr hnow
    obtain ⟨t, u, hex, hcfg, hu, ht'⟩ := exec_tbEdge_both s p level cycle ht hl heven h hq
    have afterA : u.tracker n = k.quadBoth cycle := by
      rw [hu n hn, edged_quadBoth s p level cycle n hs hr (.inl hp.symm), if_pos hp.symm]
    have afterB : t.tracker n = u.tracker n := by
      rw [ht' n hn, edged_quadBoth u (p + 1) _ cycle n (by rw [hcfg, hs]) (by rw [hcfg, hr]) (by rw [hcfg, hp]; exact .inr rfl), hcfg,
        if_neg (by rw [hp]; exact Nat.succ_ne_self p)]
    have lost : t.tracker n = (k.heard cycle).lose cycle 4 := by rw [afterB, afterA, quadBoth_synced cycle k hnow]
    exact ⟨t, hex, by rw [lost]; exact ⟨rfl, rfl, rfl, rfl, rfl⟩⟩
  case single =>
    intro h
    obtain ⟨t, hex, htime, hpins, each⟩ := exec_tbEdge_single s p level cycle ht hl h
    have tooth (hpl : plain) : t.tracker n = k.toothEdge c cycle false := by
      obtain ⟨hs, hp, ha, hd, hr⟩ := hpl
      rw [each n hn, edged_tooth s p level false cycle n hs hp ha hd hr]
    refine ⟨t, hex, htime, hpins, fun hs => (each n hn).trans (edged_off s p level false cycle n hs), ?starts, ?outside, ?inside⟩
    case starts =>
      intro hpl hnow hrev
      exact (tooth hpl).trans (toothEdge_unsynced c cycle false k hnow hrev)
    case outside =>
      intro ⟨hpl, hnow, hrev, hgap, hvalid⟩ hok
      rw [tooth hpl, toothEdge_synced c cycle false k hnow, toothSynced_outside (k := k.heard cycle) hgap hrev hvalid hok]
      exact ⟨rfl, rfl, rfl, rfl⟩
    case inside =>
      intro ⟨hpl, hnow, hrev, hgap, hvalid⟩ hok hover m
      have ⟨_, _, _, _, href⟩ := hpl
      rw [tooth hpl, toothEdge_synced c cycle false k hnow]
      obtain ⟨hstate, rest⟩ := toothSynced_inside (k := k.heard cycle) hgap hrev href (nextTooth_gapless hgap hrev) hok hover
      exact ⟨hstate.trans hnow, rest⟩

/-! ### Timeouts -/

/-- TB_STALL notes a timeout that has run out. -/
theorem exec_tbStall_expired (s : State) (n : Nat) (hn : n < 4) (ht : s.tracksEdges = true)
    (h : (s.tracker n).expired (s.tbCfg n) (18 * s.time) = true) :
    exec (.tbStall n) s = .next { s with tbs := s.tbs.set n { s.tracker n with quiet := true } } := by
  rw [exec_tbStall, execTbStall, if_pos (by simp [ht, hn]), Tracker.stall, if_pos h]
  exact done_same s _ rfl rfl

/-- Before its timeout has run out TB_STALL is nothing (log 24). -/
theorem exec_tbStall_early (s : State) (n : Nat) (hn : n < 4) (ht : s.tracksEdges = true)
    (h : (s.tracker n).expired (s.tbCfg n) (18 * s.time) = false) : exec (.tbStall n) s = .next s := by
  rw [exec_tbStall, execTbStall, if_pos (by simp [ht, hn]), Tracker.stall, if_neg (by simp [h]), setTracker_tracker]
  exact done_same s s rfl rfl

theorem expired_edges {c : TbCfg} {k : Tracker} {t : Nat} (hs : c.source ≠ 3) (hnow : k.now = 2 ∨ k.now = 3)
    (h : c.stallMs * 442368 ≤ t - k.lastInput) : k.expired c t = true := by
  unfold Tracker.expired
  dsimp only
  rw [if_neg hs]
  simpa [h] using hnow

theorem expired_host {c : TbCfg} {k : Tracker} {t : Nat} (hs : c.source = 3) (hnow : k.now = 3)
    (h : c.hostMs * 442368 ≤ t - k.lastInput) : k.expired c t = true := by
  unfold Tracker.expired
  dsimp only
  rw [if_pos hs]
  simp [h, hnow]

theorem not_expired {c : TbCfg} {k : Tracker} {t : Nat} (hs : c.source ≠ 3) (h : t - k.lastInput < c.stallMs * 442368) :
    k.expired c t = false := by
  unfold Tracker.expired
  dsimp only
  rw [if_neg hs]
  simp [Nat.not_le.2 h]

/-- Without an update of the host a boundary puts into force the state that the edges and the timeout leave (R175). -/
theorem boundary_state (c : TbCfg) (b : Nat) (k : Tracker) : (k.boundary c b none).1.state = (k.timeout c (73728 * b : Nat)).now := by
  unfold Tracker.boundary
  dsimp only
  split
  · unfold Tracker.syncedBlock
    rfl
  · rfl

theorem timeout_synced {c : TbCfg} {k : Tracker} {t : Nat} (hq : k.quiet = true) (hnow : k.now = 3) : (k.timeout c t).now = 4 := by
  unfold Tracker.timeout
  rw [if_pos (by simp [hq])]
  simp only [hnow]
  rfl

theorem timeout_syncing {c : TbCfg} {k : Tracker} {t : Nat} (hq : k.quiet = true) (hnow : k.now = 2) : (k.timeout c t).now = 1 := by
  unfold Tracker.timeout
  rw [if_pos (by simp [hq])]
  simp only [hnow]
  rfl

theorem timeout_none {c : TbCfg} {k : Tracker} {t : Nat} (hq : k.quiet = false) (h : k.expired c t = false) : k.timeout c t = k := by
  unfold Tracker.timeout
  rw [if_neg (by simp [hq, h])]

theorem trackerStalls : Says.TrackerStalls := by
  unfold Says.TrackerStalls
  intro s n hn ht _ c k gone notes
  refine ⟨fun hs h hnow => exec_tbStall_expired s n hn ht (expired_edges hs hnow h),
    fun hs h hnow => exec_tbStall_expired s n hn ht (expired_host hs hnow h),
    fun hs h => exec_tbStall_early s n hn ht (not_expired hs h), fun b => ⟨fun hq hnow => ?_, fun hq hnow => ?_, fun hq hs h => ?_⟩⟩
  · rw [boundary_state, timeout_synced hq hnow]
  · rw [boundary_state, timeout_syncing hq hnow]
  · rw [boundary_state, timeout_none hq (not_expired hs h)]

/-- Settles O49: edges reach each tracker alone, and a timeout waits for the boundary. -/
theorem trackers : Obligations.Trackers := ⟨toothEdges, trackerStalls⟩

end Sys2Proof.Machine
end

section
/-! Task commands that pass their checks (R189 to R192, R199, R422): RELEASE, KILL, PARAM, CONTROLLER, PROFILE and EVENT. -/
namespace Sys2Proof.Machine

/-- A free entry of any kind leaves the table below its 4,096 entries (R189). -/
theorem length_lt_of_entryFree {s : State} {prio : Nat} (h : s.entryFree prio = true) : s.hop.tasks.length < 4096 := by
  unfold State.entryFree at h
  rw [Bool.and_eq_true, decide_eq_true_eq] at h
  exact h.1

/-- A flow that is the session's own and a free entry: the common checks pass. -/
theorem postTask_of_free {s : State} {c : Cmd} {prio : Nat} (kind : TaskKind) (hb : s.flowBusy c.session c.flow = false)
    (he : s.entryFree prio = true) : s.postTask c kind prio = s.makeReady c kind prio [] := by
  unfold State.postTask
  rw [hb, he]
  rfl

/-- A value in its range belongs to a field that a PARAM may change (R422). -/
theorem paramSize_ne_none_of_paramOk {o v : Nat} (h : paramOk o v = true) : paramSize o ≠ none := by
  intro hn
  unfold paramOk at h
  rw [hn] at h
  exact Bool.false_ne_true h

/-! ### Each command, its due condition in range -/

section
variable {c : Cmd} (s : State) (hd : c.dueBad = false)
include hd

theorem cmdRelease_of_due : State.cmdRelease c s = s.postTask c .release (s.notePrio c) := by
  simp [State.cmdRelease, hd]

theorem cmdKill_of_due : State.cmdKill c s = s.postTask c .kill (s.notePrio c) := by
  simp [State.cmdKill, hd]

theorem cmdParam_of_due (hp : paramOk (bits (c.w 4) 0 9) (c.w 5) = true) :
    State.cmdParam c s = s.postTask c .param (s.notePrio c) := by
  simp [State.cmdParam, hd, hp, paramSize_ne_none_of_paramOk hp]

theorem cmdController_of_due : State.cmdController c s = s.postTask c .controller (s.namedPrio c) := by
  simp [State.cmdController, hd]

theorem cmdProfile_of_due : State.cmdProfile c s = s.postTask c .profile (s.namedPrio c) := by
  simp [State.cmdProfile, hd]

theorem cmdEvent_of_due : State.cmdEvent c s = s.postTask c .event (s.namedPrio c) := by
  simp [State.cmdEvent, hd]

end

/-! ### The statement -/

/-- A row whose command posts a task makes it ready where the flow and an entry are free. -/
theorem makesTask_of_postTask {s : State} {i : Instr} {op : Nat} {m : Msg} {kind : TaskKind} {prio : Nat} {work : Cmd → State → State}
    (he : exec i s = s.done (s.takeWith (cmdOf op m) work)) (hw : work (cmdOf op m) s = s.postTask (cmdOf op m) kind prio)
    (ht : TakenNow s op m) (hf : s.flowBusy m.session (cmdOf 0 m).flow = false ∧ s.entryFree prio = true) :
    MakesTask s i op m kind prio [] s :=
  makesTask_of s s i op m kind prio [] work ht he (hw.trans (postTask_of_free kind hf.1 hf.2)) (SameRings.refl s) rfl rfl rfl rfl
    (length_lt_of_entryFree hf.2)

/-- Settles O15: each command's checks pass, and its task takes a free entry at the priority R192 gives it. -/
theorem otherTasks : Obligations.OtherTasks := by
  unfold Obligations.OtherTasks
  intro s m c free ofNote hd
  refine ⟨?release, ?kill, ?param, ?controller, ?profile, ?event⟩
  case release => exact makesTask_of_postTask (exec_release m s) (cmdRelease_of_due s hd)
  case kill => exact makesTask_of_postTask (exec_kill m s) (cmdKill_of_due s hd)
  case param => exact fun ht hp => makesTask_of_postTask (exec_param m s) (cmdParam_of_due s hd hp) ht
  case controller => exact makesTask_of_postTask (exec_controller m s) (cmdController_of_due s hd)
  case profile => exact makesTask_of_postTask (exec_profile m s) (cmdProfile_of_due s hd)
  case event => exact makesTask_of_postTask (exec_event m s) (cmdEvent_of_due s hd)

end Sys2Proof.Machine
end

section
/-! CANCEL (R205, R424), outcome by outcome. -/
namespace Sys2Proof.Machine

/-- Letting primed streams go one by one lets go of all that are named, and of their reads. -/
theorem unprimeStreams_eq (s : State) (ids : List Nat) :
    ids.foldl State.unprimeStream s =
      { s with
        store.streams := s.store.streams.filter fun st => !(st.primed && ids.contains st.id)
        store.reads := s.store.reads.filter fun x => !ids.contains x.stream } := by
  induction ids generalizing s with
  | nil => simp
  | cons id ids ih =>
    rw [List.foldl_cons, ih]
    simp only [State.unprimeStream, List.filter_filter, List.contains_cons, Bool.and_or_distrib_left, Bool.not_or, Bool.and_comm, bne]

/-- A task's entry is found again after its rings have been let go: the entry becomes FREE, left by a cancel (R200, R424). -/
theorem freeTask_unprime {s : State} {i : Nat} {t : Task} (h : sfind s.hop.tasks i = some t) :
    (s.unprime t).freeTask i false =
      { s with
        hop.tasks := serase s.hop.tasks i
        hop.left := sinsert s.hop.left i (false, t.session)
        store.streams := s.store.streams.filter fun st => !(st.primed && t.primed.contains st.id)
        store.reads := s.store.reads.filter fun x => !t.primed.contains x.stream } := by
  unfold State.unprime
  rw [unprimeStreams_eq]
  unfold State.freeTask
  dsimp only
  rw [h]

/-- A task with no primed ring leaves the store as it was. -/
theorem freeTask_unprime_of_nil {s : State} {i : Nat} {t : Task} (h : sfind s.hop.tasks i = some t) (hp : t.primed = []) :
    (s.unprime t).freeTask i false =
      { s with
        hop.tasks := serase s.hop.tasks i
        hop.left := sinsert s.hop.left i (false, t.session) } := by
  rw [freeTask_unprime h, hp]
  simp

/-! ### The command -/

section
variable {s : State} {c : Cmd}

theorem cmdCancel_stale (hg : s.genOf (bits (c.w 0) 0 12) ≠ bits (c.w 0) 12 4) :
    State.cmdCancel c s = s.answer c stStaleHandle 0 := by
  unfold State.cmdCancel
  rw [if_pos hg]

variable (hg : s.genOf (bits (c.w 0) 0 12) = bits (c.w 0) 12 4)
include hg

theorem cmdCancel_task_foreign {t : Task} (h : sfind s.hop.tasks (bits (c.w 0) 0 12) = some t) (h0 : c.session ≠ 0)
    (ho : t.session ≠ c.session) : State.cmdCancel c s = s.answer c stNotOwner 0 := by
  simp [State.cmdCancel, hg, h, h0, ho]

theorem cmdCancel_task_own {t : Task} (h : sfind s.hop.tasks (bits (c.w 0) 0 12) = some t)
    (ho : c.session = 0 ∨ t.session = c.session) :
    State.cmdCancel c s = ((s.unprime t).freeTask (bits (c.w 0) 0 12) false).answer c stOk 0 := by
  have hn : ¬ (c.session ≠ 0 ∧ t.session ≠ c.session) := by tauto
  simp only [State.cmdCancel, hg, h, if_neg hn, ne_eq, not_true_eq_false, if_false]

theorem cmdCancel_left_foreign {l : Bool × Nat} (h : sfind s.hop.tasks (bits (c.w 0) 0 12) = none)
    (hl : sfind s.hop.left (bits (c.w 0) 0 12) = some l) (h0 : c.session ≠ 0) (ho : l.2 ≠ c.session) :
    State.cmdCancel c s = s.answer c stNotOwner 0 := by
  simp [State.cmdCancel, hg, h, hl, h0, ho]

theorem cmdCancel_left_own {l : Bool × Nat} (h : sfind s.hop.tasks (bits (c.w 0) 0 12) = none)
    (hl : sfind s.hop.left (bits (c.w 0) 0 12) = some l) (ho : c.session = 0 ∨ l.2 = c.session) :
    State.cmdCancel c s = s.answer c (if l.1 then stAlreadyApplied else stOk) 0 := by
  have hn : ¬ (c.session ≠ 0 ∧ l.2 ≠ c.session) := by tauto
  simp only [State.cmdCancel, hg, h, hl, if_neg hn, ne_eq, not_true_eq_false, if_false]

end

/-! ### The statement -/

/-- A CANCEL taken now answers one status on top of what its work leaves. -/
theorem answers_cancel {s u : State} {m : Msg} {st : Nat} (ht : TakenNow s 0x17 m)
    (hw : State.cmdCancel (cmdOf 0x17 m) s = u.answer (cmdOf 0x17 m) st 0) (hr : SameRings s u) :
    Answers s (.cancel m) 0x17 m [statusWord st 0] u :=
  answers_row s u (.cancel m) 0x17 m _ State.cmdCancel ht (exec_cancel m s) hw hr (by simp)

/-- Settles O16: one outcome each for a stale handle, a task that waits and one that has left, by owner. -/
theorem cancelTask : Obligations.CancelTask := by
  unfold Obligations.CancelTask
  intro s m ht i answers
  have same := SameRings.refl s
  refine ⟨?stale, fun hg => ⟨?taskForeign, ?unprimed, ?primed, ?leftForeign, ?leftOwn⟩⟩
  case stale => exact fun hg => answers_cancel ht (cmdCancel_stale hg) same
  case taskForeign => exact fun t h h0 ho => answers_cancel ht (cmdCancel_task_foreign hg h h0 ho) same
  case unprimed =>
    intro t h ho hp
    refine answers_cancel ht ((cmdCancel_task_own hg h ho).trans ?_) same
    exact congrArg (fun u : State => u.answer _ stOk 0) (freeTask_unprime_of_nil h hp)
  case primed =>
    intro t h ho _
    refine answers_cancel ht ((cmdCancel_task_own hg h ho).trans ?_) same
    exact congrArg (fun u : State => u.answer _ stOk 0) (freeTask_unprime h)
  case leftForeign => exact fun l h hl h0 ho => answers_cancel ht (cmdCancel_left_foreign hg h hl h0 ho) same
  case leftOwn => exact fun l h hl ho => answers_cancel ht (cmdCancel_left_own hg h hl ho) same

end Sys2Proof.Machine
end

section
/-! Bits and fields of a register word: what a bit set and a field replaced read back as (R16). -/
namespace Sys2Proof.Machine

theorem bit_eq_testBit (x i : Nat) : bit x i = x.testBit i := by
  rw [bit, Nat.testBit_eq_decide_div_mod_eq, beq_eq_decide]

theorem bit_toNat (w : Word) (i : Nat) : bit w.toNat i = w.getLsbD i := bit_eq_testBit _ _

theorem bits_testBit (x lo n i : Nat) : (bits x lo n).testBit i = (decide (i < n) && x.testBit (lo + i)) := by
  rw [bits, Nat.testBit_mod_two_pow, Nat.testBit_div_two_pow, Nat.add_comm]

theorem setBit_getLsbD (w : Word) (i j : Nat) (hi : i < 32) : (setBit w i).getLsbD j = (w.getLsbD j || decide (j = i)) := by
  rw [setBit, BitVec.getLsbD_or]
  congr 1
  by_cases h : j = i
  · subst h
    simp [hi]
  · simp [h, BitVec.getLsbD_one]
    omega

/-- Bits [lo + n - 1 : lo] come from the new value, the others stay. -/
theorem setField_getLsbD (w : Word) (lo n x j : Nat) (hj : j < 32) :
    (setField w lo n x).getLsbD j = if lo ≤ j ∧ j < lo + n then x.testBit (j - lo) else w.getLsbD j := by
  have within : (lo ≤ j ∧ j < lo + n) ↔ (lo ≤ j ∧ j - lo < n) := by omega
  simp only [setField, w32, BitVec.getLsbD_or, BitVec.getLsbD_and, BitVec.getLsbD_not, BitVec.getLsbD_ofNat, hj, decide_true,
    Bool.true_and, Nat.testBit_mul_two_pow, Nat.testBit_two_pow_sub_one, Nat.testBit_mod_two_pow, within]
  by_cases h1 : lo ≤ j <;> by_cases h2 : j - lo < n <;> simp [h1, h2]

/-- A field just replaced reads back. -/
theorem bits_setField (w : Word) (lo n x : Nat) (h : lo + n ≤ 32) : bits (setField w lo n x).toNat lo n = x % 2 ^ n := by
  refine Nat.eq_of_testBit_eq fun i => ?_
  rw [bits_testBit, Nat.testBit_mod_two_pow]
  by_cases hi : i < n
  · rw [BitVec.testBit_toNat, setField_getLsbD w lo n x _ (by omega), if_pos (by omega), Nat.add_sub_cancel_left]
  · simp [hi]

end Sys2Proof.Machine
end

section
/-! The device mixer (R229 to R231, R525): the bus block of a block period, its clips, and the block as the bus is read. -/
namespace Sys2Proof.Machine

/-! ### Rows of sixteen samples -/

/-- Sample j of row a in rows that stand one behind the other. -/
theorem nthI_rows (m : Nat) (f : Nat → Nat → Int) {a j : Nat} (ha : a < m) (hj : j < 16) :
    nthI ((List.range m).flatMap fun a => (List.range 16).map (f a)) (16 * a + j) = f a j := by
  have length (m : Nat) : ((List.range m).flatMap fun a => (List.range 16).map (f a)).length = 16 * m := by
    simp [List.length_flatMap, Nat.mul_comm]
  unfold nthI
  induction m with
  | zero => omega
  | succ m ih =>
    rw [List.range_succ (n := m), List.flatMap_append, List.flatMap_singleton]
    by_cases h : a < m
    · rw [List.getD_append _ _ _ _ (by rw [length]; omega), ih h]
    · obtain rfl : a = m := by omega
      rw [List.getD_append_right _ _ _ _ (by rw [length]; omega), length, Nat.add_sub_cancel_left]
      simp [List.getD_eq_getElem?_getD, hj]

theorem sat31_eq_satI (v : Int) : sat31 v = satI (-(2 ^ 31)) (2 ^ 31 - 1) v := by norm_num [sat31]

/-- A value saturates where it lies outside signed 1.31 (R12). -/
theorem sat31_ne_iff (v : Int) : sat31 v ≠ v ↔ v < -(2 ^ 31) ∨ 2 ^ 31 - 1 < v := by
  unfold sat31 satI
  split
  · omega
  · split <;> omega

/-! ### What a block's samples depend on -/

/-- The results, the gains and the gain registers of the bus are those of `s`. -/
structure BusKept (s t : State) : Prop where
  mash  : t.mash = s.mash
  gains : ∀ ch < 32, t.reg bWORT (4 * ch) = s.reg bWORT (4 * ch)

theorem BusKept.busRaw {s t : State} (h : BusKept s t) (n j : Nat) {ch : Nat} (hch : ch < 32) : t.busRaw n ch j = s.busRaw n ch j := by
  have reg : t.regN bWORT (4 * ch) = s.regN bWORT (4 * ch) := congrArg BitVec.toNat (h.gains ch hch)
  simp only [State.busRaw, State.busSum, State.gainRamp, State.gainAt, h.mash, reg]

theorem BusKept.clipped {s t : State} (h : BusKept s t) (n : Nat) {ch : Nat} (hch : ch < 32) : t.clipped n ch = s.clipped n ch := by
  simp only [State.clipped, h.busRaw n _ hch]

theorem BusKept.busBlock {s t : State} (h : BusKept s t) (n : Nat) (old : List Int) : t.busBlock n old = s.busBlock n old := by
  refine List.flatMap_congr fun ch hch => ?_
  simp only [h.busRaw n _ (List.mem_range.1 hch)]

theorem clipped_ne_zero_iff (s : State) (n ch : Nat) :
    s.clipped n ch ≠ 0 ↔ ∃ j < 16, s.busRaw n ch j < -(2 ^ 31) ∨ 2 ^ 31 - 1 < s.busRaw n ch j := by
  simp only [← sat31_ne_iff, State.clipped, ne_eq, List.length_eq_zero_iff, List.filter_eq_nil_iff, List.mem_range, bne_iff_ne,
    not_forall, not_not, exists_prop]

theorem busChannel_iff {ch : Nat} (h : ch < 32) : busChannel ch = true ↔ ¬ (20 ≤ ch ∧ ch < 24) := by
  simp only [busChannel, Bool.or_eq_true, decide_eq_true_eq]
  omega

/-! ### Counting clips (R231) -/

/-- A channel's clips of block n enter WORT_CLIP and WORT_CLIPCNT, as `State.countClips` counts them. -/
def State.clipChannel (s : State) (n ch : Nat) : State :=
  let k := s.clipped n ch
  if k = 0 then s else (s.setReg bWORT 0x80 (setBit (s.reg bWORT 0x80) ch)).countReg bWORT 0x84 0 32 k

theorem countClips_eq_foldl (s : State) (n : Nat) :
    s.countClips n = ((List.range 32).filter busChannel).foldl (fun s ch => s.clipChannel n ch) s := rfl

theorem clipChannel_unclipped {s : State} {n ch : Nat} (h : s.clipped n ch = 0) : s.clipChannel n ch = s := if_pos h

theorem clipChannel_busKept (s : State) (n ch : Nat) : BusKept s (s.clipChannel n ch) := by
  unfold State.clipChannel
  dsimp only
  split
  · exact ⟨rfl, fun _ _ => rfl⟩
  · refine ⟨rfl, fun c hc => ?_⟩
    exact (State.reg_setReg_ne _ _ _ _ _ _ (by unfold regKey; omega)).trans
      (State.reg_setReg_ne s _ _ _ _ _ (by unfold regKey; omega))

/-- Only a channel that clips sets its bit. -/
theorem clipChannel_bit (s : State) (n c ch : Nat) (hc : c < 32) :
    bit ((s.clipChannel n c).regN bWORT 0x80) ch = true ↔ bit (s.regN bWORT 0x80) ch = true ∨ ch = c ∧ s.clipped n ch ≠ 0 := by
  rw [and_congr_right (b := s.clipped n ch ≠ 0) (c := s.clipped n c ≠ 0) fun h => by rw [h]]
  by_cases h : s.clipped n c = 0
  · simp [clipChannel_unclipped h, h]
  · have reg : (s.clipChannel n c).reg bWORT 0x80 = setBit (s.reg bWORT 0x80) c := by
      rw [State.clipChannel, if_neg h]
      exact (State.reg_setReg_ne _ _ _ _ _ _ (by decide)).trans (State.reg_setReg ..)
    simp only [State.regN, reg, bit_toNat, setBit_getLsbD _ _ _ hc, Bool.or_eq_true, decide_eq_true_eq, ne_eq, h, not_false_eq_true,
      and_true]

theorem clipChannels_bit (s : State) (n ch : Nat) (l : List Nat) (hl : ∀ c ∈ l, c < 32) :
    bit ((l.foldl (fun s c => s.clipChannel n c) s).regN bWORT 0x80) ch = true
      ↔ bit (s.regN bWORT 0x80) ch = true ∨ ch ∈ l ∧ s.clipped n ch ≠ 0 := by
  induction l generalizing s with
  | nil => simp
  | cons c l ih =>
    obtain ⟨hc, hl⟩ := List.forall_mem_cons.1 hl
    have kept : ch ∈ l ∧ (s.clipChannel n c).clipped n ch ≠ 0 ↔ ch ∈ l ∧ s.clipped n ch ≠ 0 :=
      and_congr_right fun h => by rw [(clipChannel_busKept s n c).clipped n (hl ch h)]
    rw [List.foldl_cons, ih _ hl, clipChannel_bit s n c ch hc, kept, or_assoc, ← or_and_right, List.mem_cons]

/-- WORT_CLIP gains the channels with a bus output that clip. -/
theorem countClips_bit (s : State) (n : Nat) {ch : Nat} (hch : ch < 32) :
    bit ((s.countClips n).regN bWORT 0x80) ch = true
      ↔ bit (s.regN bWORT 0x80) ch = true ∨ ¬ (20 ≤ ch ∧ ch < 24)
        ∧ ∃ j < 16, s.busRaw n ch j < -(2 ^ 31) ∨ 2 ^ 31 - 1 < s.busRaw n ch j := by
  rw [countClips_eq_foldl, clipChannels_bit s n ch _ fun c hc => List.mem_range.1 (List.mem_filter.1 hc).1, clipped_ne_zero_iff,
    List.mem_filter, List.mem_range, busChannel_iff hch]
  simp only [hch, true_and]

theorem countClips_unclipped (s : State) (n : Nat) (h : ∀ ch < 32, s.clipped n ch = 0) : s.countClips n = s :=
  foldl_keeps _ s _ fun ch hch => clipChannel_unclipped (h ch (List.mem_range.1 (List.mem_filter.1 hch).1))

theorem countClips_busKept (s : State) (n : Nat) : BusKept s (s.countClips n) := by
  obtain ⟨e, hr⟩ := countClips_eq s n
  exact ⟨(congrArg State.mash e : _), fun ch hch => hr _ _ (by unfold regKey; omega) (by unfold regKey; omega)⟩

/-! ### The block that is formed (R229, R230) -/

/-- A block not formed yet, with no capture running: its clips count, and it joins the bus. -/
theorem formBlock_new {s : State} {n : Nat} (hn : ¬ ∃ w ∈ s.mash.wort, w.block = n) (hc : s.fw.capture = none) :
    s.formBlock n = { s with
      regs := (s.countClips n).regs
      mash.wort := s.mash.wort ++ [WortBlock.mk n (s.busBlock n []) s.pilotChannel] } := by
  have e := (countClips_eq s n).1
  have kept := (countClips_busKept s n).busBlock n []
  have hcap : (s.countClips n).captureBlock n = s.countClips n := by
    rw [State.captureBlock, e]
    dsimp only
    rw [hc]
  rw [State.formBlock, if_neg (by simpa using hn)]
  dsimp only
  rw [hcap, kept]
  generalize s.countClips n = c at e
  rw [e]
  rfl

/-- A sample of the bus output: gained, rounded and saturated; channels 20 to 23 have none (R231). -/
theorem busBlock_sample (s : State) (n : Nat) {ch j : Nat} (hch : ch < 32) (hj : j < 16) :
    nthI (s.busBlock n []) (16 * ch + j) = if 20 ≤ ch ∧ ch < 24 then 0 else satI (-(2 ^ 31)) (2 ^ 31 - 1) (s.busRaw n ch j) := by
  rw [State.busBlock, nthI_rows 32 _ hch hj, ← sat31_eq_satI]
  by_cases h : 20 ≤ ch ∧ ch < 24
  · rw [if_pos h, if_neg (mt (busChannel_iff hch).1 (not_not.2 h))]
    rfl
  · rw [if_neg h, if_pos ((busChannel_iff hch).2 h)]

theorem busBlock_length (s : State) (n : Nat) (old : List Int) : (s.busBlock n old).length = 512 := by
  simp [State.busBlock, List.length_flatMap]

/-- The exact sum over clusters and twins (R229). -/
theorem busSum_eq_sum (s : State) (n i : Nat) :
    s.busSum n i = ((s.mash.sums.filter fun x => x.block == n).map fun x => nthI x.vals i).sum := by
  rw [State.busSum, List.sum_eq_foldl, List.foldl_map]

/-! ### The bus as it is read (R525) -/

/-- A sample of the one block of its number, the last one formed: a pilot of the channel is added as it is read. -/
theorem wortAt_formed {s t : State} {n : Nat} {vals : List Int} {pilot : Option Nat} (hn : ¬ ∃ w ∈ s.mash.wort, w.block = n)
    (ht : t.mash.wort = s.mash.wort ++ [WortBlock.mk n vals pilot]) (ch : Nat) {j : Nat} (hj : j < 16) :
    t.wortAt (16 * n + j) ch = if pilot = some ch
      then satI (-(2 ^ 31)) (2 ^ 31 - 1) (nthI vals (16 * ch + j) + pilotAt (16 * n + j)) else nthI vals (16 * ch + j) := by
  have block : (16 * n + j) / 16 = n := by omega
  have sample : ch * 16 + (16 * n + j) % 16 = 16 * ch + j := by omega
  have older : ∀ w ∈ s.mash.wort, ¬ (w.block == n) = true := fun w hw h => hn ⟨w, hw, beq_iff_eq.1 h⟩
  have bus : t.busAt (16 * n + j) ch = nthI vals (16 * ch + j) := by
    rw [State.busAt, block, sample, ht, List.find?_append, List.find?_eq_none.2 older]
    simp
  have carries : (t.mash.wort.any fun b => b.block == n && b.pilot == some ch) = decide (pilot = some ch) := by
    rw [ht, List.any_append, List.any_eq_false.2 fun w hw h => older w hw (Bool.and_eq_true_iff.1 h).1]
    simp [beq_eq_decide]
  rw [State.wortAt, block, carries, bus, sat31_eq_satI]
  simp only [decide_eq_true_eq]

/-! ### The row -/

theorem deviceMix_nothing {s : State} (f : MixFault)
    (h : s.lastBlock = 0 ∨ (∃ w ∈ s.mash.wort, w.block = s.lastBlock - 1) ∨ s.mixReady (s.lastBlock - 1) = false) :
    s.deviceMix f = s := by
  rw [State.deviceMix]
  refine if_pos ?_
  obtain h | ⟨w, hw, hb⟩ | h := h
  · simp [h]
  · have : (s.mash.wort.any fun w => w.block == s.lastBlock - 1) = true := List.any_eq_true.2 ⟨w, hw, beq_iff_eq.2 hb⟩
    simp [this]
  · simp [h]

theorem deviceMix_forms {s : State} (hr : s.isReady = true) (hh : s.kiln.halted = false) (h0 : s.lastBlock ≠ 0)
    (hn : ¬ ∃ w ∈ s.mash.wort, w.block = s.lastBlock - 1) (hm : s.mixReady (s.lastBlock - 1) = true) :
    s.deviceMix .none = s.formBlock (s.lastBlock - 1) := by
  have fresh : (s.mash.wort.any fun w => w.block == s.lastBlock - 1) = false := by simpa using hn
  rw [State.deviceMix, if_neg (by simp [hr, hh, h0, hm, fresh])]
  rfl

/-- Settles O31: the block is formed once, of the sums and gains as they stand, and its clips are noted. -/
theorem deviceMixer : Obligations.DeviceMixer := by
  unfold Obligations.DeviceMixer
  intro s hr hh hk n formed total raw ovf
  have raw_eq (ch j : Nat) : raw ch j = s.busRaw n ch j := by rw [State.busRaw, busSum_eq_sum]
  refine ⟨fun h => ?_, fun h0 hn hm hc => ?_⟩
  · rw [exec_deviceMix, execDeviceMix, deviceMix_nothing .none h]
    exact ends_quiet s s hk rfl rfl
  · let vals := s.busBlock n []
    obtain ⟨r, hregs⟩ : ∃ r, r = (s.countClips n).regs := ⟨_, rfl⟩
    let t : State := { s with
      regs := r
      mash.wort := s.mash.wort ++ [WortBlock.mk n vals s.pilotChannel] }
    have runs : exec (.deviceMix .none) s = .next t := by
      rw [exec_deviceMix, execDeviceMix, deviceMix_forms hr hh h0 hn hm, formBlock_new hn hc, ← hregs]
      exact ends_quiet s t hk rfl rfl
    have reg (b o : Nat) : t.reg b o = (s.countClips n).reg b o := by
      rw [(countClips_eq s n).1, ← hregs]
      rfl
    refine ⟨t, vals, runs, rfl, busBlock_length s n [], fun ch hch j hj => ⟨?sample, ?read⟩, fun ch hch => ?clip, fun b o h80 h84 ho => ?frame,
      fun hquiet => ?quiet⟩
    case sample => rw [raw_eq, busBlock_sample s n hch hj]
    case read => exact wortAt_formed hn rfl ch hj
    case clip =>
      simp only [State.regN, reg, ovf, raw_eq]
      exact countClips_bit s n hch
    case frame =>
      rw [reg]
      exact (countClips_eq s n).2 b o (by rw [Ne, regKey_inj ho (by decide)]; simpa using h80)
        (by rw [Ne, regKey_inj ho (by decide)]; simpa using h84)
    case quiet =>
      have still : s.countClips n = s := countClips_unclipped s n fun ch hch => by
        by_contra h
        obtain ⟨j, hj, h⟩ := (clipped_ne_zero_iff s n ch).1 h
        exact hquiet ch hch j hj (by simpa only [ovf, raw_eq] using h)
      rw [still] at hregs
      show ({ s with regs := r, mash.wort := _ } : State) = _
      rw [hregs]

end Sys2Proof.Machine
end

section
/-! The TDM lanes (R235 to R237, R243 to R245): what an output slot carries, and input frames and slips. -/
namespace Sys2Proof.Machine

/-! ### Slots (R235) -/

theorem slotWidth_bounds (ctrl : Nat) : 1 ≤ slotWidth ctrl ∧ slotWidth ctrl ≤ 32 := by
  unfold slotWidth
  split <;> decide

theorem satI_bounds {lo hi : Int} (h : lo ≤ hi) (v : Int) : lo ≤ satI lo hi v ∧ satI lo hi v ≤ hi := by
  unfold satI
  split
  · omega
  · split <;> omega

theorem rndShift_zero (v : Int) : rndShift v 0 = v := by
  simp [rndShift]

/-- The bits below a slot's width are 0. -/
theorem narrow_low (w : Nat) (v : Int) : narrow w v % 2 ^ (32 - w) = 0 := Int.mul_emod_left _ _

/-- What a slot carries is a signed 1.31 value. -/
theorem narrow_bounds {w : Nat} (h1 : 1 ≤ w) (h32 : w ≤ 32) (v : Int) : -(2 ^ 31) ≤ narrow w v ∧ narrow w v < 2 ^ 31 := by
  have whole : (2 : Int) ^ (w - 1) * 2 ^ (32 - w) = 2 ^ 31 := by
    rw [← pow_add]
    congr 1
    omega
  have unit : (0 : Int) < 2 ^ (32 - w) := by positivity
  have half : (1 : Int) ≤ 2 ^ (w - 1) := one_le_pow₀ (by decide)
  obtain ⟨lo, hi⟩ := satI_bounds (lo := -(2 ^ (w - 1))) (hi := 2 ^ (w - 1) - 1) (by omega) (rndShift v (32 - w))
  have low := mul_le_mul_of_nonneg_right lo unit.le
  have high := mul_le_mul_of_nonneg_right hi unit.le
  rw [neg_mul, whole] at low
  rw [sub_mul, whole, one_mul] at high
  exact ⟨low, by unfold narrow; dsimp only; omega⟩

/-- A slot of 32 bits carries a value as it is, saturated. -/
theorem narrow_full (v : Int) : narrow 32 v = satI (-(2 ^ 31)) (2 ^ 31 - 1) v := by
  simp [narrow, rndShift_zero]

/-! ### Output slots and frames (R236, R237) -/

/-- Slot k of frame f has nothing to carry: the safe state, its lane off, or beyond the lane's slots. -/
def State.slotSilent (s : State) (k : Nat) : Prop :=
  s.kiln.safe = true ∨ bit (s.regN bTDMO 0) (12 + k / 16) = false ∨ slotCount (s.regN bTDMO 0) ≤ k % 16

theorem outSlot_silent {s : State} {k : Nat} (f : Nat) (h : s.slotSilent k) : s.outSlot f k = 0 := by
  refine if_pos ?_
  rcases h with h | h | h <;> simp [h]

theorem outSlot_carries {s : State} {k : Nat} (f : Nat) (h : ¬ s.slotSilent k) :
    s.outSlot f k = narrow (slotWidth (s.regN bTDMO 0))
      (if bit (s.regN bTDMO 0) (16 + k / 16) then s.directSlot f (k / 16) (k % 16) else s.copperSlot f k) := by
  simp only [State.slotSilent, not_or] at h
  obtain ⟨hsafe, hlane, hslot⟩ := h
  exact if_neg (by simp [hsafe, hlane, hslot])

/-- Every slot keeps to its width. -/
theorem outSlot_width (s : State) (f k : Nat) :
    s.outSlot f k % 2 ^ (32 - slotWidth (s.regN bTDMO 0)) = 0 ∧ -(2 ^ 31) ≤ s.outSlot f k ∧ s.outSlot f k < 2 ^ 31 := by
  by_cases h : s.slotSilent k
  · rw [outSlot_silent f h]
    exact ⟨Int.zero_emod _, by decide, by decide⟩
  · obtain ⟨h1, h32⟩ := slotWidth_bounds (s.regN bTDMO 0)
    rw [outSlot_carries f h]
    exact ⟨narrow_low _ _, narrow_bounds h1 h32 _⟩

/-- A direct slot at 96 kHz: its Wort channel's sample, 48 frames and DEPTH back. -/
theorem directSlot_present {s : State} {f lane k : Nat} (hrate : bit (s.regN bTDMO 0) 1 = false)
    (hmap : bit (bits (s.regN bTDMO (0x10 + 0x10 * lane + k / 4 * 4)) (8 * (k % 4)) 8) 7 = true) (hf : 48 + s.depth ≤ f) :
    s.directSlot f lane k = s.wortAt (f - (48 + s.depth)) (bits (bits (s.regN bTDMO (0x10 + 0x10 * lane + k / 4 * 4)) (8 * (k % 4)) 8) 0 5) := by
  rw [State.directSlot, if_neg (by simp [hmap, hf]), if_neg (by simp [hrate])]

theorem exec_tdmoFrame_turn {s : State} {f : Nat} (h : s.outTurn = some f) :
    exec .tdmoFrame s = .next { s with
      time := max s.time (f * 256)
      tdm.sent := (List.range 64).map (s.outSlot f)
      tdm.outNext := f + if bit (s.regN bTDMO 0) 1 then 2 else 1 } := by
  rw [exec_tdmoFrame, execTdmoFrame, State.tdmoFrame, h]
  rfl

theorem tdmoFrames : Says.TdmoFrames := by
  unfold Says.TdmoFrames
  intro s f h ctrl
  have sent (k : Nat) (hk : k < 64) : nthI ((List.range 64).map (s.outSlot f)) k = s.outSlot f k := by
    simp [nthI, List.getD_eq_getElem?_getD, hk]
  refine ⟨_, exec_tdmoFrame_turn h, rfl, fun k hk hoff => ?silent, fun k hk => ?width,
    fun k hk hsafe hlane hslot hsrc hw hrate hmap hf => ?direct⟩
  case silent => rw [sent k hk, outSlot_silent f hoff]
  case width =>
    rw [sent k hk]
    exact outSlot_width s f k
  case direct =>
    have live : ¬ s.slotSilent k := by
      rintro (h | h | h)
      · exact absurd (hsafe.symm.trans h) (by decide)
      · exact absurd (hlane.symm.trans h) (by decide)
      · exact absurd hslot (Nat.not_lt.2 h)
    rw [sent k hk, outSlot_carries f live, if_pos hsrc, hw, narrow_full, directSlot_present hrate hmap hf]

/-! ### Input frames and slips (R243 to R245) -/

/-- A whole frame at a running input: presented where locked, else the first or the second one seen. -/
theorem exec_tdmiFrame_on {s : State} (slots : List Word) (hon : s.inputOn = true) :
    exec (.tdmiFrame slots) s = s.done (
      if s.tdm.locked = true then { s with
        tdm.inPrev := s.tdm.inLast
        tdm.inLast := captured (s.regN bTDMI 0) slots
        tdm.inFrame := s.tdm.inFrame + 1 }
      else if s.tdm.good = 0 then { s with tdm.good := 1 }
      else { s with
        tdm.good := 0
        tdm.locked := true
        tdm.inLast := captured (s.regN bTDMI 0) slots
        tdm.inFrame := 0
        tdm.inPhase := s.inputPhase }) := by
  rw [exec_tdmiFrame, execTdmiFrame, State.tdmiFrame, if_neg (by simp [hon])]

/-- A row whose work ends in one event, from a state with the event ring of `s`, posts it. -/
theorem posts_of {s u : State} {i : Instr} {code session : Nat} {ws : List Word} (h : exec i s = s.done (u.event code session ws))
    (hc : ClearToPost s ws.length) (hr : SameEvents s u) :
    ∃ t, exec i s = .next t ∧ Posts s t code session ws ∧ t.offRings = u.offRings := by
  have off := event_off u code session ws
  obtain ⟨hpart, hpending⟩ := offRings_part off
  have same := hr
  obtain ⟨_, _, _, _, _, _, _, pending, part⟩ := same
  exact ⟨_, h.trans (done_same s _ (hpending.trans pending) (hpart.trans part)),
    posts_same hr (event_posts u code session ws (clearToPost_same hr hc)).1, off⟩

/-- The input as a slip leaves it, before its count and its event: unlocked, the last complete frame stands (R244). -/
def State.slipped (s : State) : State :=
  { s with
    tdm.good := 0
    tdm.locked := false
    tdm.inPrev := if s.tdm.locked then s.tdm.inLast else s.tdm.inPrev }

/-- TDMI_STAT after a slip: its bit set, the count moved on. -/
def slipStat (w : Word) : Word := setField (setBit w 1) 16 16 (satAdd 16 (bits w.toNat 16 16) 1)

theorem slipStat_count (w : Word) : bits (slipStat w).toNat 16 16 = satAdd 16 (bits w.toNat 16 16) 1 := by
  have h : satAdd 16 (bits w.toNat 16 16) 1 < 2 ^ 16 := by
    unfold satAdd
    omega
  rw [slipStat, bits_setField _ _ _ _ (by decide), Nat.mod_eq_of_lt h]

theorem slipStat_bit (w : Word) : bit (slipStat w).toNat 1 = true := by
  rw [bit_toNat, slipStat, setField_getLsbD _ _ _ _ _ (by decide), if_neg (by decide), setBit_getLsbD _ _ _ (by decide)]
  simp

theorem exec_tdmiSlip_on {s : State} (hon : s.inputOn = true) :
    exec .tdmiSlip s = s.done ((s.slipped.setReg bTDMI 4 (slipStat (s.reg bTDMI 4))).event 0x85 0
      [w32 (satAdd 16 (bits (s.regN bTDMI 4) 16 16) 1)]) := by
  rw [exec_tdmiSlip, execTdmiSlip, State.tdmiSlip, if_neg (by simp [hon])]
  rfl

theorem tdmiFrames : Says.TdmiFrames := by
  unfold Says.TdmiFrames
  intro s slots hon ctrl ws next
  have frame := exec_tdmiFrame_on slots hon
  refine ⟨fun hl => ?locked, fun hl hg => ?first, fun hl hg => ?second, fun hc => ?_⟩
  case locked =>
    rw [frame, if_pos hl]
    rfl
  case first =>
    rw [frame, if_neg (by simp [hl]), if_pos hg]
    rfl
  case second =>
    rw [frame, if_neg (by simp [hl]), if_neg hg]
    rfl
  obtain ⟨t, runs, posts, off⟩ := posts_of (exec_tdmiSlip_on hon) hc (SameEvents.refl s)
  let u := s.slipped.setReg bTDMI 4 (slipStat (s.reg bTDMI 4))
  have regs : t.regs = u.regs := (congrArg State.regs off : _)
  have stat : t.reg bTDMI 4 = slipStat (s.reg bTDMI 4) :=
    calc t.reg bTDMI 4 = u.reg bTDMI 4 := (congrArg (fun x : State => x.reg bTDMI 4) off : _)
      _ = slipStat (s.reg bTDMI 4) := State.reg_setReg ..
  refine ⟨t, runs, posts, ?count, ?noted, ?rest⟩
  case count =>
    rw [State.regN, stat]
    exact slipStat_count _
  case noted =>
    rw [State.regN, stat]
    exact slipStat_bit _
  case rest =>
    rw [off, regs]
    rfl

/-- Settles O50: each slot of an output frame by what its lane carries, and an input frame by the lock. -/
theorem tdmLanes : Obligations.TdmLanes := ⟨tdmoFrames, tdmiFrames⟩

end Sys2Proof.Machine
end

section
/-! A message of class C1 or C2 that finds the capture set free (R328 to R333): counted, captured, logged, and nothing else. -/
namespace Sys2Proof.Machine

/-- What a message counts is no register of the configuration of its kind (R349). -/
theorem kindAction_noted (s : State) (m : BitVec 64) (master access flags k : Nat) (hk : k < 64) :
    (s.noted m master access flags).kindAction k = s.kindAction k := by
  have h : regKey bKILN (0x100 + 4 * k) ≠ regKey bKILN (0x200 + 4 * msgKind m) := by
    have := msgKind_lt m
    unfold regKey
    omega
  have e : (s.noted m master access flags).reg bKILN (0x100 + 4 * k) = s.reg bKILN (0x100 + 4 * k) := State.reg_setReg_ne s _ _ _ _ _ h
  unfold State.kindAction State.regN
  rw [e]

theorem countMsg_eq (s : State) (m : BitVec 64) :
    s.countMsg m = { s with
      regs := (s.countReg bKILN (0x200 + 4 * msgKind m) (if msgClass m = 0 then 0 else 16) 16 1).regs
      pwr.life := s.pwr.life.modify (3 + msgClass m) fun x => min (x + 1) (2 ^ 32 - 1) } := by
  unfold State.countMsg
  dsimp only
  split <;> rfl

/-- A kind without an action starts none (R332). -/
theorem startAction_none (s : State) (m : BitVec 64) (record : Nat) (h : s.kindAction (msgKind m) = 0) : s.startAction m record = s := by
  unfold State.startAction
  exact if_pos (.inl h)

theorem takeSafeActions_none (s : State) (h : s.kiln.ready = []) : s.takeSafeActions = s := by
  unfold State.takeSafeActions
  rw [h, List.find?_nil]

/-- A C1 or C2 message that passes the windows and finds the set free is captured (R328). -/
theorem takeMsg_captured (s : State) (m : BitVec 64) (master access : Nat) (hm : s.masked m = false) (hc : s.consequential m = false)
    (h0 : msgClass m ≠ 0) (h3 : msgClass m ≠ 3) (hroom : s.kiln.log.length < 1024) (hf : FreeSet s m) :
    s.takeMsg m master access = s.captured m master access := by
  obtain ⟨hfree, hready, haction⟩ := hf
  have hcaptured : ((s.countMsg m).capture m s.time master access false).logRecord m s.time master access 1 = s.captured m master access := by
    have hlog : (s.countMsg m).kiln.log.length < 1024 := by rwa [countMsg_kiln]
    rw [logRecord_room ((s.countMsg m).capture m s.time master access false) _ _ _ _ _ hlog, countMsg_eq]
    rfl
  have hnone : (s.captured m master access).kindAction (msgKind m) = 0 :=
    (kindAction_noted s m master access 1 _ (msgKind_lt m)).trans haction
  unfold State.takeMsg
  rw [if_neg (by simp [hm]), if_neg (by simp [hc]), if_neg h0, if_neg h3]
  have htime : (s.countMsg m).time = s.time := by rw [countMsg_eq]
  have htime' : (State.capture (s.countMsg m) m s.time master access false).time = s.time := htime
  simp only [hfree, Bool.false_eq_true, if_false]
  rw [htime, htime', hcaptured, startAction_none _ _ _ hnone]
  exact takeSafeActions_none _ hready

theorem State.captured_pending (s : State) (m : BitVec 64) (a b : Nat) : (s.captured m a b).pending = s.pending := rfl
theorem State.captured_part (s : State) (m : BitVec 64) (a b : Nat) : (s.captured m a b).part = s.part := rfl

theorem Heard.isReady {s : State} {m : BitVec 64} (h : Heard s m) : s.isReady = true := h.1

/-- A C1 or C2 message that is heard, raised alone into a free set, is captured and starts nothing (R328, R332, R336). -/
theorem hear_report_captured (s : State) (m : BitVec 64) (master access : Nat) (h : Heard s m) (hf : FreeSet s m) (h0 : msgClass m ≠ 0)
    (h3 : msgClass m ≠ 3) : (s.report m master access).hear = s.captured m master access := by
  obtain ⟨hready, hquiet, hkind, hlevel, hmask, hcons, hroom⟩ := h
  rw [hear_report s m master access hready hquiet hkind hlevel, takeMsg_captured s m master access hmask hcons h0 h3 hroom hf]
  unfold State.c0Rate
  exact if_pos (by simp [h0])

end Sys2Proof.Machine
end

section
/-! Frames that enter a ring (R85, R269), and the reads that bring them where the pages are clean (R277, R280). -/
namespace Sys2Proof.Machine

theorem mem_insertNat (f : Nat) (l : List Nat) : f ∈ insertNat f l := by
  induction l with
  | nil => exact List.mem_singleton_self f
  | cons g l ih =>
    unfold insertNat
    split
    · exact List.mem_cons_self
    · split
      · subst_vars
        exact List.mem_cons_self
      · exact List.mem_cons_of_mem _ ih

theorem streamAt_own {s : State} {q : Nat} {st : Stream} (h : s.streamAt q = some st) : s.streamAt st.id = some st := by
  have hid : st.id = q := by simpa using List.find?_some h
  rw [hid]
  exact h

/-! ### The ring -/

/-- The ring memory once frames have entered a stream's ring. -/
def ringsWith (rings : Sparse Byte) (st : Stream) (fs : List (Nat × List Byte)) : Sparse Byte :=
  fs.foldl (fun m f => sputs (fun _ => (0 : Byte)) m (st.slot f.1) f.2) rings

/-- The frames a ring holds once others have entered: each displaces what its slot held. -/
def framesWith (st : Stream) (fs : List (Nat × List Byte)) : List Nat :=
  fs.foldl (fun (acc : List Nat) f => insertNat f.1 (acc.filter fun g => g % st.cap != f.1 % st.cap)) st.frames

/-- The streams with new frames under one identity. -/
def holding (l : List Stream) (id : Nat) (frames : List Nat) : List Stream :=
  l.map fun (x : Stream) => if x.id = id then { x with frames := frames } else x

theorem putFrames_none {s : State} {id : Nat} (fs : List (Nat × List Byte)) (h : s.streamAt id = none) : s.putFrames id fs = s := by
  unfold State.putFrames
  rw [h]

theorem putFrames_eq {s : State} {id : Nat} {st : Stream} (fs : List (Nat × List Byte)) (h : s.streamAt id = some st) :
    s.putFrames id fs =
      { s with store.rings := ringsWith s.store.rings st fs, store.streams := holding s.store.streams id (framesWith st fs) } := by
  unfold State.putFrames
  rw [h]
  rfl

theorem holding_holding (l : List Stream) (id : Nat) (frames : List Nat) : holding (holding l id frames) id frames = holding l id frames := by
  unfold holding
  rw [List.map_map]
  refine List.map_congr_left fun x _ => ?_
  by_cases h : x.id = id <;> simp [h]

theorem find_holding (l : List Stream) (id : Nat) (frames : List Nat) :
    (holding l id frames).find? (fun x => x.id == id) = (l.find? fun x => x.id == id).map fun x => { x with frames := frames } := by
  induction l with
  | nil => rfl
  | cons x l ih =>
    unfold holding at ih ⊢
    by_cases h : x.id = id
    · simp [h]
    · simp [h, ih]

/-- Once frames have entered a stream's ring, no frames change nothing more. -/
theorem putFrames_nil (s : State) (id : Nat) (fs : List (Nat × List Byte)) : (s.putFrames id fs).putFrames id [] = s.putFrames id fs := by
  cases h : s.streamAt id with
  | none => rw [putFrames_none fs h, putFrames_none [] h]
  | some st =>
    have hst : (s.putFrames id fs).streamAt id = some { st with frames := framesWith st fs } := by
      rw [putFrames_eq fs h]
      exact (find_holding _ _ _).trans (congrArg _ h)
    rw [putFrames_eq [] hst, putFrames_eq fs h]
    exact congrArg (fun l => ({ s with store.rings := ringsWith s.store.rings st fs, store.streams := l } : State)) (holding_holding _ _ _)

/-! ### Reads of clean pages -/

section Reads
variable (s : State) (st : Stream) (fs : List Nat)

theorem readWhole_nil (rd : List PageFault) (reader base : Nat) : s.readWhole st rd reader base [] = s.putFrames st.id [] := rfl

/-- A general stream whose frames lie on clean pages of a copy that can be read is read from that copy (R280). -/
theorem readGeneral_clean (rd : List PageFault) (hp : s.portServes (portOf st.addr) = true)
    (hf : ∀ f ∈ fs, s.frameClean st st.addr f = true ∧ (st.mirror = noMirror ∨ s.frameClean st st.mirror f = true)) :
    s.readGeneral st rd fs = s.accept st st.addr fs := by
  have hclean : fs.filter (fun f => s.portServes (portOf st.addr) && s.frameClean st st.addr f) = fs :=
    List.filter_eq_self.2 fun f h => by simp [hp, (hf f h).1]
  have hplain : fs.filter (fun f => st.mirror == noMirror || s.frameClean st st.mirror f) = fs :=
    List.filter_eq_self.2 fun f h => by simpa using (hf f h).2
  have hwhole : fs.filter (fun f => !fs.contains f) = [] := List.filter_eq_nil_iff.2 fun f h => by simp [h]
  have hrest : fs.filter (fun f => !fs.contains f && s.frameClean st st.mirror f) = [] :=
    List.filter_eq_nil_iff.2 fun f h => by simp [h]
  unfold State.readGeneral
  simp only [hclean, hplain, hwhole, hrest, ite_self, readWhole_nil]
  unfold State.accept
  rw [putFrames_nil, putFrames_nil]

/-- Copies that agree over a frame agree over its bytes in any page. -/
theorem bytesIn_eq {f : Nat} (h : s.frameBytes st st.addr f = s.frameBytes st st.mirror f) (p : Nat) :
    s.bytesIn st st.addr p f = s.bytesIn st st.mirror p f := by
  unfold State.frameBytes State.flashBytes at h
  rw [List.map_inj_left] at h
  unfold State.bytesIn
  refine List.filterMap_congr fun i hi => ?_
  have hi := h i hi
  simp only [Nat.add_assoc] at hi ⊢
  rw [hi]

/-- A safety stream whose frames lie on clean pages of both copies, which agree, is read from the copy at ADDR (R277). -/
theorem readSafety_clean (out : ReadOutcome) (hp : s.portServes (portOf st.addr) = true) (hq : s.portServes (portOf st.mirror) = true)
    (hf : ∀ f ∈ fs, s.frameClean st st.addr f = true ∧ s.frameClean st st.mirror f = true) (hout : out.mismatch = [])
    (hsame : ∀ f ∈ fs, s.frameBytes st st.addr f = s.frameBytes st st.mirror f) :
    s.readSafety st out fs = s.accept st st.addr fs := by
  have hboth : fs.filter (fun f => s.frameClean st st.addr f && s.frameClean st st.mirror f) = fs :=
    List.filter_eq_self.2 fun f h => by simp [hf f h]
  have hA : fs.filter (fun f => s.frameClean st st.addr f && !s.frameClean st st.mirror f) = [] :=
    List.filter_eq_nil_iff.2 fun f h => by simp [hf f h]
  have hB : fs.filter (fun f => !s.frameClean st st.addr f && s.frameClean st st.mirror f) = [] :=
    List.filter_eq_nil_iff.2 fun f h => by simp [hf f h]
  have hagree : (framePagesOf st st.addr fs).filter (s.pageDiffers st out.mismatch fs) = [] :=
    List.filter_eq_nil_iff.2 fun p _ => by
      simp only [State.pageDiffers, hout, List.contains_nil, Bool.false_or, List.any_eq_true, bne_iff_ne, not_exists, not_and, not_not]
      exact fun f h => bytesIn_eq s st (hsame f h) p
  have hpair : s.readPair st out fs = s.accept st st.addr fs := by
    unfold State.readPair
    rw [hagree]
    rfl
  unfold State.readSafety
  rw [hp, hq]
  dsimp only
  rw [hboth, hA, hB, hpair]
  cases fs with
  | nil => exact putFrames_nil s st.id []
  | cons f fs =>
    rw [if_neg (by simp), readWhole_nil, readWhole_nil]
    unfold State.accept
    rw [putFrames_nil, putFrames_nil]

/-- Frames on clean pages, of a safety stream with a mirror in both copies alike, come from the copy at ADDR (R277, R280). -/
theorem takeFrames_clean (out : ReadOutcome) (hp : s.portServes (portOf st.addr) = true)
    (hf : ∀ f ∈ fs, s.frameClean st st.addr f = true ∧ (st.mirror = noMirror ∨ s.frameClean st st.mirror f = true))
    (hsafe : (st.safety = false ∨ st.mirror = noMirror)
      ∨ s.portServes (portOf st.mirror) = true ∧ out.mismatch = []
        ∧ ∀ f ∈ fs, s.frameBytes st st.addr f = s.frameBytes st st.mirror f) :
    s.takeFrames st out fs = s.accept st st.addr fs := by
  unfold State.takeFrames
  by_cases hgeneral : st.safety = false ∨ st.mirror = noMirror
  · rw [if_neg (by rcases hgeneral with h | h <;> simp [h])]
    exact readGeneral_clean s st fs out.faults hp hf
  · obtain ⟨hq, hout, hsame⟩ := hsafe.resolve_left hgeneral
    rw [not_or] at hgeneral
    obtain ⟨hsafety, hmirror⟩ := hgeneral
    rw [if_pos (by simpa [hmirror] using hsafety)]
    exact readSafety_clean s st fs out hp hq (fun f h => ⟨(hf f h).1, (hf f h).2.resolve_left hmirror⟩) hout hsame

end Reads

theorem flashBytes_getElem? (s : State) (a n k : Nat) : (s.flashBytes a n)[k]? = if k < n then some (s.flashByte (a + k)) else none := by
  unfold State.flashBytes
  by_cases h : k < n
  · rw [List.getElem?_map, List.getElem?_range h, if_pos h, Option.map_some]
  · rw [if_neg h, List.getElem?_eq_none (by simpa using h)]

/-- The slot of a frame that has entered reads as the frame's bytes (R85). -/
theorem ringsWith_slot (s : State) (st : Stream) (base f k : Nat) (hk : k < st.width) :
    sget (fun _ => (0 : Byte)) (ringsWith s.store.rings st [(f, s.frameBytes st base f)]) (st.slot f + k)
      = s.flashByte (base + 0x40 + f * st.width + k) := by
  show sget _ (sputs _ s.store.rings (st.slot f) (s.frameBytes st base f)) _ = _
  rw [sget_sputs, if_pos (Nat.le_add_right ..), Nat.add_sub_cancel_left, State.frameBytes, flashBytes_getElem?, if_pos hk, Option.getD_some]

/-- Ring memory outside the slot of the one frame that has entered stands. -/
theorem ringsWith_outside (s : State) (st : Stream) (base f a : Nat) (ha : a < st.slot f ∨ st.slot f + st.width ≤ a) :
    sget (fun _ => (0 : Byte)) (ringsWith s.store.rings st [(f, s.frameBytes st base f)]) a = sget (fun _ => (0 : Byte)) s.store.rings a := by
  show sget _ (sputs _ s.store.rings (st.slot f) (s.frameBytes st base f)) _ = _
  rw [sget_sputs, State.frameBytes, flashBytes_getElem?]
  split
  · rw [if_neg (by omega), Option.getD_none]
  · rfl

end Sys2Proof.Machine
end

section
/-! The ends of reads (R269, R272, R273, R327): one that completes, one past its deadline, one that waits, and a port that fails. -/
namespace Sys2Proof.Machine

section Completes
variable {s : State} {id : Nat} {out : ReadOutcome} {r : GristRead}

theorem not_readEnds (htime : r.tier = 3 ∨ s.time ≤ r.deadline) (hrun : s.kiln.halted = false) :
    ¬ (r.expired s.time || s.kiln.halted) = true := by
  rcases htime with h | h <;> simp [GristRead.expired, h, hrun]

variable (hr : s.readOf id = some r)
include hr

theorem gristReadComplete_dropped (h : (r.tier ≠ 3 ∧ r.deadline < s.time) ∨ s.kiln.halted = true) :
    s.gristReadComplete id out = s.dropRead id := by
  have hend : (r.expired s.time || s.kiln.halted) = true := by
    rcases h with ⟨htier, hlate⟩ | hhalted
    · simp [GristRead.expired, htier, hlate]
    · simp [hhalted]
  simp only [State.gristReadComplete, hr, hend, if_true]

variable (htime : r.tier = 3 ∨ s.time ≤ r.deadline) (hrun : s.kiln.halted = false)
include htime hrun

theorem gristReadComplete_waits (h : some id ∉ s.store.serving) : s.gristReadComplete id out = s := by
  have hidle : (!s.store.serving.contains (some id)) = true := by simpa using h
  simp only [State.gristReadComplete, hr, if_neg (not_readEnds htime hrun), hidle, if_true]

/-- A read taken up whose frames all find their slots free, one of its ports serving, brings them into its stream's ring. -/
theorem gristReadComplete_takes {st : Stream} (hst : s.streamAt r.stream = some st) (hup : some id ∈ s.store.serving)
    (hfree : ∀ f ∈ r.frames, r.refetch = true ∨ s.slotFree st f = true) (hp : s.portServes (portOf st.addr) = true)
    (hport : portOf st.addr ∈ r.ports) :
    s.gristReadComplete id out = ((s.dropRead id).takeFrames st out r.frames).serve := by
  have htaken : ¬ (!s.store.serving.contains (some id)) = true := by simpa using hup
  have hserves : ¬ (!r.ports.any s.portServes) = true := by
    simpa using ⟨_, hport, hp⟩
  have hall : r.frames.filter (fun f => r.refetch || s.slotFree st f) = r.frames :=
    List.filter_eq_self.2 fun f h => by simpa using hfree f h
  simp only [State.gristReadComplete, hr, if_neg (not_readEnds htime hrun), if_neg htaken, hst, if_neg hserves, hall, if_true]

end Completes

theorem gristReadComplete_none {s : State} {id : Nat} (out : ReadOutcome) (h : s.readOf id = none) : s.gristReadComplete id out = s := by
  simp only [State.gristReadComplete, h]

/-- A row whose work leaves the Kiln, the queue and the part as they were ends in its state. -/
theorem exec_gristReadComplete_next {s t : State} {id : Nat} {out : ReadOutcome} (h : s.gristReadComplete id out = t)
    (hq : t.kiln.raised = []) (h1 : t.pending = s.pending) (h2 : t.part = s.part) : exec (.gristReadComplete id out) s = .next t := by
  rw [exec_gristReadComplete, execGristReadComplete, h]
  exact ends_quiet s t hq h1 h2

theorem exec_readDeadline_some {s : State} {id : Nat} {r : GristRead} (hr : s.readOf id = some r) (htier : r.tier ≠ 3) :
    exec (.readDeadline id) s = s.done (if r.deadline ≤ s.time then s.dropRead id else s) := by
  simp [exec_readDeadline, execReadDeadline, hr, htier]

/-- The store once a port is out: the reads that it alone could answer are gone, and the ports take up what is left (R327). -/
def State.portFailed (s : State) (p : Nat) : State := State.serve { s with
  store.ports := modAt s.store.ports p fun x => { x with failed := true }
  store.reads := s.store.reads.filter (s.survives p)
  store.serving := s.store.serving.set p none }

theorem gristPort_serves {s : State} {p : Nat} (hready : s.isReady = true) (hp : s.portServes p = true) :
    s.gristPort p = (s.portFailed p).report (mkMsg 2 (3 + p) kGristPort 1 0 0) 4 1 := by
  unfold State.gristPort State.portFailed
  exact if_neg (by simp [hready, hp])

/-- Beside the port, its reads and what the ports take up, its message alone changes the part. -/
theorem portFailed_captured (s : State) (p : Nat) (m : BitVec 64) (master access : Nat) :
    (s.portFailed p).captured m master access = ({ s with
      store.ports := s.store.ports.modify p fun (x : PortState) => { x with failed := true }
      store.reads := s.store.reads.filter fun (r : GristRead) => !r.ports.contains p || r.ports.any fun q => q != p && s.portServes q
      store.serving := ((s.portFailed p).captured m master access).store.serving } : State).captured m master access := rfl

theorem exec_gristPort_next {s t : State} {p : Nat} (h : (s.gristPort p).hear = t) (h1 : t.pending = s.pending) (h2 : t.part = s.part) :
    exec (.gristPort p) s = .next t := by
  rw [exec_gristPort, execGristPort, State.ends, h]
  exact done_same s t h1 h2

/-- A port that serves and fails is out, and its message is captured (R327, R328). -/
theorem gristPort_captured {s : State} {p : Nat} (hp : s.portServes p = true) (hm : Heard s (mkMsg 2 (3 + p) kGristPort 1 0 0))
    (hf : FreeSet s (mkMsg 2 (3 + p) kGristPort 1 0 0)) :
    (s.gristPort p).hear = (s.portFailed p).captured (mkMsg 2 (3 + p) kGristPort 1 0 0) 4 1 := by
  have hclass : msgClass (mkMsg 2 (3 + p) kGristPort 1 0 0) = 1 := msgClass_mkMsg ..
  rw [gristPort_serves hm.isReady hp]
  exact hear_report_captured (s.portFailed p) _ 4 1 hm hf (by rw [hclass]; decide) (by rw [hclass]; decide)

/-! ### The statement -/

/-- Settles O22: a read that completes enters its ring through clean pages, one past its deadline or of a halted store is dropped. -/
theorem gristReads : Obligations.GristReads := by
  unfold Obligations.GristReads
  intro s id p out hq u goesTo drops m
  refine ⟨?completes, ?late, ?waits, ?absent, ?deadline, ?fails, ?idlePort⟩
  case completes =>
    intro r st hr hst htime hrun hup hfree hp hport hclean hsafe
    have hown : (s.dropRead id).streamAt st.id = some st := streamAt_own hst
    have hwork : s.gristReadComplete id out =
        ((s.dropRead id).putFrames st.id (r.frames.map fun f => (f, s.frameBytes st st.addr f))).serve := by
      rw [gristReadComplete_takes hr htime hrun hst hup hfree hp hport, takeFrames_clean (s.dropRead id) st r.frames out hp hclean hsafe]
      rfl
    rw [putFrames_eq _ hown] at hwork
    refine ⟨_, exec_gristReadComplete_next hwork hq rfl rfl, rfl, fun f hone => ?_⟩
    rw [hone]
    exact ⟨ringsWith_slot s st st.addr f, ringsWith_outside s st st.addr f,
      { st with frames := framesWith st [(f, s.frameBytes st st.addr f)] },
      List.mem_map.2 ⟨st, List.mem_of_find?_eq_some hst, if_pos rfl⟩, mem_insertNat f _, rfl⟩
  case late => exact fun r hr h => ⟨_, exec_gristReadComplete_next (gristReadComplete_dropped hr h) hq rfl rfl, rfl⟩
  case waits =>
    exact fun r hr htime hrun hidle => exec_gristReadComplete_next (gristReadComplete_waits hr htime hrun hidle) hq rfl rfl
  case absent =>
    intro hr
    refine ⟨exec_gristReadComplete_next (gristReadComplete_none out hr) hq rfl rfl, ?_⟩
    show exec (.readDeadline id) s = .next s
    rw [exec_readDeadline, execReadDeadline, hr]
    rfl
  case deadline =>
    intro r hr htier
    refine ⟨fun h => ⟨s.dropRead id, ?_, rfl⟩, fun h => ?_⟩
    · rw [exec_readDeadline_some hr htier, if_pos h]
      rfl
    · show exec (.readDeadline id) s = .next s
      rw [exec_readDeadline_some hr htier, if_neg (by omega)]
      rfl
  case fails =>
    exact fun hp hm hf => ⟨_, exec_gristPort_next (gristPort_captured hp hm hf) (State.captured_pending ..) (State.captured_part ..),
      portFailed_captured s p m 4 1⟩
  case idlePort =>
    intro hp
    refine exec_gristPort_next ?_ rfl rfl
    rw [State.gristPort, if_pos (by simp [hp]), hear_nil s hq]

end Sys2Proof.Machine
end

section
/-! Rows whose command is answered by a status alone, or is deferred, the state else as it was (R392, R413). -/
namespace Sys2Proof.Machine

/-- A row whose command is refused answers its status and changes nothing else. -/
theorem answers_refused {s : State} {i : Instr} {op : Nat} {m : Msg} {work : Cmd → State → State} {st d : Nat}
    (he : exec i s = s.done (s.takeWith (cmdOf op m) work)) (ht : TakenNow s op m)
    (hw : work (cmdOf op m) s = s.answer (cmdOf op m) st d) : Answers s i op m [statusWord st d] s :=
  answers_row s s i op m _ work ht he hw (SameRings.refl s) (by simp)

end Sys2Proof.Machine
end

section
/-! NOTE_ON (R271, R421): its checks in their order, and its task with the rings primed for it. -/
namespace Sys2Proof.Machine

/-! ### Priming changes the store alone (R271) -/

theorem queueRead_eq (s : State) (st : Stream) (tier deadline : Nat) (fs : List Nat) :
    ∃ d, s.queueRead st tier deadline fs = { s with store := d } := addRead_eq ..

theorem primeRings_eq (r : Recipe) (n prio : Nat) (l : List Nat) (s : State) : ∃ d, (s.primeRings r n prio l).1 = { s with store := d } := by
  induction l generalizing s with
  | nil => exact ⟨s.store, rfl⟩
  | cons i l ih =>
    unfold State.primeRings
    split
    · next st q _ _ =>
      obtain ⟨d, hd⟩ := queueRead_eq (s.addStream { st with id := s.store.nextStream, ring := q, voice := none, primed := true })
        { st with id := s.store.nextStream, ring := q, voice := none, primed := true } 3 ((n - 1) * 4096)
        (openWindow { st with id := s.store.nextStream, ring := q, voice := none, primed := true } 32)
      dsimp only
      rw [hd]
      exact ih _
    · exact ⟨s.store, rfl⟩

theorem prime_eq (s : State) (c : Cmd) (r : Recipe) (prio : Nat) : ∃ d, (s.prime c r prio).1 = { s with store := d } := by
  unfold State.prime
  split
  · dsimp only
    split
    · exact primeRings_eq ..
    · exact ⟨s.store, rfl⟩
  · exact ⟨s.store, rfl⟩

/-! ### The checks (R421) -/

theorem cmdNoteOn_due {c : Cmd} {s : State} (hd : c.dueBad = true) : State.cmdNoteOn c s = s.answer c stBadParam 1 := by
  simp [State.cmdNoteOn, hd]

theorem cmdNoteOn_bank {c : Cmd} {s : State} (hd : c.dueBad = false) (hb : s.fw.banks.getD (bits (c.w 4) 0 2) none = none) :
    State.cmdNoteOn c s = s.answer c stNotResident 0 := by
  simp only [State.cmdNoteOn, hd, hb, Bool.false_eq_true, if_false]

/-- A recipe of safety objects passes their check at every priority. -/
theorem not_unsafe_of {s : State} {r : Recipe} {prio : Nat} (h : 6 ≤ prio → s.objectsSafe r = true) :
    ¬ (6 ≤ prio ∧ (!s.objectsSafe r) = true) := by
  rintro ⟨hp, hunsafe⟩
  rw [h hp] at hunsafe
  exact absurd hunsafe (by decide)

section Checks
variable {c : Cmd} {s : State} {b : Bank} {r : Recipe} (hd : c.dueBad = false)
  (hb : s.fw.banks.getD (bits (c.w 4) 0 2) none = some b) (hr : b.recipes[bits (c.w 4) 8 8]? = some r)
include hd hb hr

theorem cmdNoteOn_tables (ht : s.tablesResident r = false) : State.cmdNoteOn c s = s.answer c stNotResident 0 := by
  simp only [State.cmdNoteOn, hd, hb, hr, ht, Bool.false_eq_true, Bool.not_false, if_false, if_true]

variable (ht : s.tablesResident r = true)
include ht

theorem cmdNoteOn_objects (hp : 6 ≤ min (c.prio?.getD r.priority) (s.ceiling c.session)) (ho : s.objectsSafe r = false) :
    State.cmdNoteOn c s = s.answer c stSafetyObject 0 := by
  have hunsafe : 6 ≤ min (c.prio?.getD r.priority) (s.ceiling c.session) ∧ (!s.objectsSafe r) = true := ⟨hp, by rw [ho]; rfl⟩
  simp only [State.cmdNoteOn, hd, hb, hr, ht, Bool.false_eq_true, Bool.not_true, if_false, if_pos hunsafe]

variable (ho : 6 ≤ min (c.prio?.getD r.priority) (s.ceiling c.session) → s.objectsSafe r = true)
include ho

theorem cmdNoteOn_flow (hf : s.flowBusy c.session c.flow = true) : State.cmdNoteOn c s = s.answer c stFlowBusy 0 := by
  simp only [State.cmdNoteOn, hd, hb, hr, ht, Bool.false_eq_true, Bool.not_true, if_false, if_neg (not_unsafe_of ho), hf, if_true]

variable (hf : s.flowBusy c.session c.flow = false)
include hf

theorem cmdNoteOn_full (he : s.entryFree (min (c.prio?.getD r.priority) (s.ceiling c.session)) = false) :
    State.cmdNoteOn c s = s.answer c stTaskFull 0 := by
  simp only [State.cmdNoteOn, hd, hb, hr, ht, Bool.false_eq_true, Bool.not_true, Bool.not_false, if_false, if_true,
    if_neg (not_unsafe_of ho), hf, he]

theorem cmdNoteOn_task (he : s.entryFree (min (c.prio?.getD r.priority) (s.ceiling c.session)) = true) :
    State.cmdNoteOn c s =
      (s.prime c r (min (c.prio?.getD r.priority) (s.ceiling c.session))).1.makeReady c .noteOn
        (min (c.prio?.getD r.priority) (s.ceiling c.session)) (s.prime c r (min (c.prio?.getD r.priority) (s.ceiling c.session))).2 := by
  simp only [State.cmdNoteOn, hd, hb, hr, ht, Bool.false_eq_true, Bool.not_true, if_false, if_neg (not_unsafe_of ho), hf, he]

end Checks

/-! ### The statement -/

theorem noteOnTask : Says.NoteOnTask := by
  unfold Says.NoteOnTask
  intro s m b r c prio p hm hd hb hr ht ho hf he
  obtain ⟨d, hprime⟩ := prime_eq s c r prio
  have hwork : State.cmdNoteOn (cmdOf 0x10 m) s = p.1.makeReady (cmdOf 0x10 m) .noteOn prio p.2 := cmdNoteOn_task hd hb hr ht ho hf he
  have hp : p.1 = { s with store := d } := hprime
  rw [hp] at hwork ⊢
  exact makesTask_of s _ (.noteOn m) 0x10 m .noteOn prio p.2 State.cmdNoteOn hm (exec_noteOn m s) hwork (SameRings.refl s) rfl rfl rfl rfl
    (length_lt_of_entryFree he)

theorem noteOnRefusals : Says.NoteOnRefusals := by
  unfold Says.NoteOnRefusals
  intro s m hm c refused
  have answers {st d : Nat} (hw : State.cmdNoteOn (cmdOf 0x10 m) s = s.answer (cmdOf 0x10 m) st d) : refused st d :=
    answers_refused (exec_noteOn m s) hm hw
  exact ⟨fun hd => answers (cmdNoteOn_due hd), fun hd hb => answers (cmdNoteOn_bank hd hb), fun b r hd hb hr =>
    ⟨fun ht => answers (cmdNoteOn_tables hd hb hr ht), fun ht hp ho => answers (cmdNoteOn_objects hd hb hr ht hp ho),
      fun ht ho hf => answers (cmdNoteOn_flow hd hb hr ht ho hf), fun ht ho hf he => answers (cmdNoteOn_full hd hb hr ht ho hf he)⟩⟩

/-- Settles O14: each check in turn, and behind the last one the task on top of the rings primed for it. -/
theorem noteOnCommand : Obligations.NoteOnCommand := ⟨noteOnTask, noteOnRefusals⟩

end Sys2Proof.Machine
end

section
/-! Content commands when taken (R284, R413, R428 to R431, R435): deferred where their first checks pass, refused by the state otherwise. -/
namespace Sys2Proof.Machine

/-- A row whose command is deferred from the state as it stands, the answer being ACCEPTED. -/
theorem accepts_row {s : State} {i : Instr} {op : Nat} {m : Msg} {work : Cmd → State → State}
    (he : exec i s = s.done (s.takeWith (cmdOf op m) work)) (ht : TakenNow s op m)
    (hw : work (cmdOf op m) s = s.deferWork (cmdOf op m)) : Answers s i op m [acceptedWord] (s.deferred (cmdOf op m)) :=
  answers_deferred s s i op m work ht he hw (SameRings.refl s)

section Checks
variable {c : Cmd} {s : State}

/-! ### Banks and wavetables (R428, R429, R431, R432) -/

theorem cmdBankLoad_free (h : s.slotNamed (bits (c.w 0) 0 2) = false) : State.cmdBankLoad c s = s.deferWork c := by
  rw [State.cmdBankLoad, h]
  rfl

theorem cmdBankLoad_named (h : s.slotNamed (bits (c.w 0) 0 2) = true) : State.cmdBankLoad c s = s.answer c stInUse 0 := if_pos h

theorem cmdBankUnload_named (h : s.slotNamed (bits (c.w 0) 0 2) = true) : State.cmdBankUnload c s = s.answer c stInUse 0 := if_pos h

theorem cmdWtLoad_absent (h : s.residentFrames (bits (c.w 0) 16 16) = none) : State.cmdWtLoad c s = s.deferWork c := by
  rw [State.cmdWtLoad, h]
  rfl

theorem cmdWtLoad_resident (h : s.residentFrames (bits (c.w 0) 16 16) ≠ none) : State.cmdWtLoad c s = s.answer c stInUse 0 :=
  if_pos (Option.isSome_iff_ne_none.2 h)

theorem cmdWtUnload_absent (h : s.residentFrames (bits (c.w 0) 16 16) = none) : State.cmdWtUnload c s = s.answer c stNotResident 0 := by
  simp only [State.cmdWtUnload, h, Option.isNone_none, if_true]

theorem cmdWtUnload_used (h : s.residentFrames (bits (c.w 0) 16 16) ≠ none)
    (hu : s.tableUsed (bits (c.w 0) 16 16) = true ∨ s.tableNamed (bits (c.w 0) 16 16) = true) :
    State.cmdWtUnload c s = s.answer c stInUse 0 := by
  have hused : (s.tableUsed (bits (c.w 0) 16 16) || s.tableNamed (bits (c.w 0) 16 16)) = true := by rwa [Bool.or_eq_true]
  have hresident : ¬ (s.residentFrames (bits (c.w 0) 16 16)).isNone = true := by rwa [Option.isNone_iff_eq_none]
  simp only [State.cmdWtUnload, if_neg hresident, if_pos hused]

/-! ### Updates of the store (R284, R435) -/

theorem cmdGristPrepare_idle (h : s.fw.update = 0) : State.cmdGristPrepare c s = s.deferWork c := if_neg (not_not_intro h)

theorem cmdGristPrepare_busy (h : s.fw.update ≠ 0) : State.cmdGristPrepare c s = s.answer c stBadState 0 := if_pos h

theorem cmdGristCommit_open (h : s.fw.update = 1) : State.cmdGristCommit c s = ({ s with fw.update := 2 } : State).deferWork c :=
  if_neg (not_not_intro h)

theorem cmdGristCommit_closed (h : s.fw.update ≠ 1) : State.cmdGristCommit c s = s.answer c stBadState 0 := if_pos h

theorem cmdGristAbort_committing (h : s.fw.update = 2 ∨ s.fw.update = 3) : State.cmdGristAbort c s = s.answer c stBadState 0 := if_pos h

theorem bulkCountOk_of {n : Nat} (h1 : 4 ≤ n) (h2 : n ≤ 16384) (h3 : n % 4 = 0) : bulkCountOk n = true := by
  simp [bulkCountOk, h1, h2, h3]

theorem cmdGristRead_counted (h : bulkCountOk (c.w 2) = true) : State.cmdGristRead c s = s.deferWork c := by
  rw [State.cmdGristRead, h]
  rfl

theorem cmdGristWrite_closed (h : s.fw.update ≠ 1) : State.cmdGristWrite c s = s.answer c stBadState 0 := if_pos h

/-- A GRIST_WRITE in an open update, of whole sectors and a right count, is judged by its pages (R284). -/
theorem cmdGristWrite_shaped (h : s.fw.update = 1) (ha : c.w 1 % 4096 = 0) (hn : bulkCountOk (c.w 2) = true) :
    State.cmdGristWrite c s =
      if ((pagesOf (c.w 1) (c.w 2)).any fun p => !s.inUpdateArea p || s.pageInUse p) = true then s.answer c stEraseRefused 0
      else s.deferWork c := by
  simp only [State.cmdGristWrite, h, ha, hn, ne_eq, not_true_eq_false, if_false, Bool.not_true, Bool.false_eq_true]

theorem cmdGristMeta_checks (h : s.fw.update = 1) (hb : bit (c.w 0) 0 = true) (hn : c.words.length - 2 ≤ 251)
    (ha : c.w 1 + (c.words.length - 2) ≤ 1048576) : State.cmdGristMeta c s = s.deferWork c := by
  simp only [State.cmdGristMeta, h, hb, ne_eq, not_true_eq_false, if_false, if_true, if_neg (Nat.not_lt.2 hn), if_neg (Nat.not_lt.2 ha)]

theorem cmdGristMeta_entry (h : s.fw.update = 1) (hb : bit (c.w 0) 0 = false) (hn : c.words.length = 10) (ha : c.w 1 ≤ 65535) :
    State.cmdGristMeta c s = s.deferWork c := by
  simp only [State.cmdGristMeta, h, hb, hn, ne_eq, not_true_eq_false, if_false, Bool.false_eq_true, if_neg (Nat.not_lt.2 ha)]

end Checks

/-! ### The statement -/

theorem contentAccepted : Says.ContentAccepted := by
  unfold Says.ContentAccepted
  intro s m w accepts
  refine ⟨?bankLoad, ?svtLoad, ?wtLoad, ?prepare, ?write, ?metaChecks, ?metaEntry, ?commit, ?read⟩
  case bankLoad => exact fun ht h => accepts_row (exec_bankLoad m s) ht (cmdBankLoad_free h)
  case svtLoad => exact fun ht => accepts_row (exec_svtLoad m s) ht rfl
  case wtLoad => exact fun ht h => accepts_row (exec_wtLoad m s) ht (cmdWtLoad_absent h)
  case prepare => exact fun ht h => accepts_row (exec_gristPrepare m s) ht (cmdGristPrepare_idle h)
  case write =>
    intro ht hu ha h1 h2 h3 hpages
    refine accepts_row (exec_gristWrite m s) ht ((cmdGristWrite_shaped (c := cmdOf 0x49 m) hu ha (bulkCountOk_of h1 h2 h3)).trans (if_neg ?_))
    rw [List.any_eq_true]
    rintro ⟨p, hp, hbad⟩
    obtain ⟨harea, hfree⟩ := hpages p hp
    simp [harea, hfree] at hbad
  case metaChecks => exact fun ht hu hb hn ha => accepts_row (exec_gristMeta m s) ht (cmdGristMeta_checks hu hb hn ha)
  case metaEntry => exact fun ht hu hb hn ha => accepts_row (exec_gristMeta m s) ht (cmdGristMeta_entry hu hb hn ha)
  case commit =>
    exact fun ht hu => answers_deferred s { s with fw.update := 2 } _ 0x4B m _ ht (exec_gristCommit m s) (cmdGristCommit_open hu)
      (SameRings.refl s)
  case read => exact fun ht h1 h2 h3 => accepts_row (exec_gristRead m s) ht (cmdGristRead_counted (bulkCountOk_of h1 h2 h3))

theorem contentRefused : Says.ContentRefused := by
  unfold Says.ContentRefused
  intro s m w refuses
  refine ⟨?bankLoad, ?wtLoad, ?prepare, ?writeClosed, ?writePage, ?commit, ?bankUnload, ?wtAbsent, ?wtUsed, ?abort⟩
  case bankLoad => exact fun ht h => answers_refused (exec_bankLoad m s) ht (cmdBankLoad_named h)
  case wtLoad => exact fun ht h => answers_refused (exec_wtLoad m s) ht (cmdWtLoad_resident h)
  case prepare => exact fun ht h => answers_refused (exec_gristPrepare m s) ht (cmdGristPrepare_busy h)
  case writeClosed => exact fun ht h => answers_refused (exec_gristWrite m s) ht (cmdGristWrite_closed h)
  case writePage =>
    intro p ht hu ha h1 h2 h3 hp hbad
    refine answers_refused (exec_gristWrite m s) ht ((cmdGristWrite_shaped (c := cmdOf 0x49 m) hu ha (bulkCountOk_of h1 h2 h3)).trans (if_pos ?_))
    exact List.any_eq_true.2 ⟨p, hp, by rcases hbad with h | h <;> simp [h]⟩
  case commit => exact fun ht h => answers_refused (exec_gristCommit m s) ht (cmdGristCommit_closed h)
  case bankUnload => exact fun ht h => answers_refused (exec_bankUnload m s) ht (cmdBankUnload_named h)
  case wtAbsent => exact fun ht h => answers_refused (exec_wtUnload m s) ht (cmdWtUnload_absent h)
  case wtUsed => exact fun ht h hu => answers_refused (exec_wtUnload m s) ht (cmdWtUnload_used h hu)
  case abort => exact fun ht h => answers_refused (exec_gristAbort m s) ht (cmdGristAbort_committing h)

/-- Settles O18: each command's checks, and ACCEPTED behind the last of them. -/
theorem contentAtTaking : Obligations.ContentAtTaking := ⟨contentAccepted, contentRefused⟩

end Sys2Proof.Machine
end

section
/-! The flash devices byte by byte (R253, R257, R258): what programming, erasing and copying leave at an address. -/
namespace Sys2Proof.Machine

/-! ### Bytes of words (R13) -/

theorem leBytes_getElem? (n x k : Nat) : (leBytes n x)[k]? = if k < n then some (BitVec.ofNat 8 (x / 256 ^ k)) else none := by
  induction n generalizing x k with
  | zero => rfl
  | succ n ih =>
    cases k with
    | zero => simp [leBytes]
    | succ k =>
      rw [leBytes, List.getElem?_cons_succ, ih, Nat.div_div_eq_div_mul, ← Nat.pow_succ']
      simp only [Nat.add_lt_add_iff_right]

theorem leBytes_length (n x : Nat) : (leBytes n x).length = n := by
  induction n generalizing x with
  | zero => rfl
  | succ n ih => rw [leBytes, List.length_cons, ih]

theorem wordBytes_cons (w : Word) (ws : List Word) : wordBytes (w :: ws) = leBytes 4 w.toNat ++ wordBytes ws := rfl

@[simp] theorem wordBytes_length (ws : List Word) : (wordBytes ws).length = 4 * ws.length := by
  induction ws with
  | nil => rfl
  | cons w ws ih =>
    rw [wordBytes_cons, List.length_append, leBytes_length, ih, List.length_cons]
    omega

/-- Byte i of some words is byte i mod 4 of word i / 4. -/
theorem wordBytes_getElem? (ws : List Word) (i : Nat) : (wordBytes ws)[i]? = ws[i / 4]?.map fun w => ByteOf w (i % 4) := by
  induction ws generalizing i with
  | nil => rfl
  | cons w ws ih =>
    rw [wordBytes_cons]
    by_cases h : i < 4
    · have hword : i / 4 = 0 := by omega
      rw [List.getElem?_append_left (by rwa [leBytes_length]), leBytes_getElem?, if_pos h, hword, Nat.mod_eq_of_lt h]
      rfl
    · have hword : i / 4 = (i - 4) / 4 + 1 := by omega
      have hbyte : (i - 4) % 4 = i % 4 := by omega
      rw [List.getElem?_append_right (by rw [leBytes_length]; omega), leBytes_length, ih, hword, List.getElem?_cons_succ, hbyte]

/-- The bytes of a bulk half are its words' (R390). -/
theorem bulkBytes_getElem? (s : State) (h n i : Nat) (hn : n % 4 = 0) (hi : i < n) :
    (s.bulkBytes h n)[i]? = some (ByteOf (s.mbx (8192 + 4096 * h + i / 4)) (i % 4)) := by
  have hword : i / 4 < n / 4 := by omega
  rw [State.bulkBytes, wordBytes_getElem?, State.bulkWords, List.getElem?_map, List.getElem?_range hword]
  rfl

theorem bulkBytes_length (s : State) (h n : Nat) (hn : n % 4 = 0) : (s.bulkBytes h n).length = n := by
  rw [State.bulkBytes, wordBytes_length, State.bulkWords, List.length_map, List.length_range]
  omega

/-! ### Programming and erasing (R253) -/

theorem flashByte_of_lt (s : State) {x : Nat} (hx : x < 2 ^ 32) : s.flashByte x = sget flashErased s.store.flash x := by
  rw [State.flashByte, Nat.mod_eq_of_lt hx]

theorem flashByte_congr {s t : State} (h : t.store.flash = s.store.flash) (x : Nat) : t.flashByte x = s.flashByte x := by
  rw [State.flashByte, State.flashByte, h]

/-- The state with other bytes in the flash devices. -/
def State.withFlash (s : State) (f : Sparse Byte) : State := { s with store.flash := f }

/-- `t` differs from `s` in the bytes of the flash devices alone. -/
def FlashOnly (s t : State) : Prop := t = s.withFlash t.store.flash

theorem FlashOnly.trans {s t u : State} (h : FlashOnly s t) (k : FlashOnly t u) : FlashOnly s u := by
  have hover : t.withFlash u.store.flash = (s.withFlash t.store.flash).withFlash u.store.flash :=
    congrArg (fun x : State => x.withFlash u.store.flash) h
  exact Eq.trans k hover

theorem FlashOnly.eq {s t : State} {f : Sparse Byte} (h : FlashOnly s t) (hf : t.store.flash = f) : t = s.withFlash f :=
  Eq.trans h (congrArg s.withFlash hf)

theorem flashWrite_only (s : State) (a : Nat) (bs : List Byte) : FlashOnly s (s.flashWrite a bs) := rfl

theorem flashErase_only (s : State) (a n : Nat) : FlashOnly s (s.flashErase a n) := rfl

theorem flashWrite_inside (s : State) {a i : Nat} {bs : List Byte} (hi : i < bs.length) (ha : a + i < 2 ^ 32) :
    (s.flashWrite a bs).flashByte (a + i) = bs.getD i 0 := by
  rw [flashByte_of_lt _ ha]
  show sget flashErased (sputs flashErased s.store.flash a bs) (a + i) = _
  rw [sget_sputs, if_pos (Nat.le_add_right a i), Nat.add_sub_cancel_left, List.getD_eq_getElem?_getD, List.getElem?_eq_getElem hi]
  rfl

theorem flashWrite_outside (s : State) {a x : Nat} {bs : List Byte} (hx : x < 2 ^ 32) (h : x < a ∨ a + bs.length ≤ x) :
    (s.flashWrite a bs).flashByte x = s.flashByte x := by
  rw [flashByte_of_lt _ hx, flashByte_of_lt _ hx]
  show sget flashErased (sputs flashErased s.store.flash a bs) x = _
  rw [sget_sputs]
  split
  · rw [List.getElem?_eq_none (by omega), Option.getD_none]
  · rfl

/-- Keeping the entries of some keys makes every other key read as unlisted. -/
theorem sget_filter {α : Type} (d : Nat → α) (m : Sparse α) (p : Nat → Bool) (k : Nat) :
    sget d (m.filter fun e => p e.1) k = if p k = true then sget d m k else d k := by
  induction m with
  | nil => simp [sget]
  | cons e m ih =>
    obtain ⟨a, v⟩ := e
    by_cases hk : k = a
    · subst hk
      by_cases hp : p k = true
      · simp [hp, sget]
      · simp only [List.filter_cons, hp, if_false, Bool.false_eq_true] at ih ⊢
        exact ih
    · by_cases hp : p a = true
      · simp only [List.filter_cons, hp, if_true, sget, if_neg hk, ih]
      · simp only [List.filter_cons, hp, if_false, Bool.false_eq_true, sget, if_neg hk, ih]

theorem flashErase_inside (s : State) {a n x : Nat} (hx : x < 2 ^ 32) (h : a ≤ x ∧ x < a + n) : (s.flashErase a n).flashByte x = 0xFF := by
  rw [flashByte_of_lt _ hx]
  exact (sget_filter flashErased s.store.flash (fun k => decide (k < a ∨ a + n ≤ k)) x).trans
    (if_neg (by rw [decide_eq_true_eq]; omega))

theorem flashErase_outside (s : State) {a n x : Nat} (hx : x < 2 ^ 32) (h : x < a ∨ a + n ≤ x) :
    (s.flashErase a n).flashByte x = s.flashByte x := by
  rw [flashByte_of_lt _ hx, flashByte_of_lt _ hx]
  exact (sget_filter flashErased s.store.flash (fun k => decide (k < a ∨ a + n ≤ k)) x).trans (if_pos (decide_eq_true h))

/-! ### Copying (R283) -/

/-- Entries moved from `a` to `b` over a listing. -/
def moveEntries (a b : Nat) (l m : Sparse Byte) : Sparse Byte := l.foldl (fun m e => sput flashErased m (b + (e.1 - a)) e.2) m

theorem sget_eq_default {m : Sparse Byte} {k : Nat} (d : Nat → Byte) (h : ∀ e ∈ m, e.1 ≠ k) : sget d m k = d k := by
  induction m with
  | nil => rfl
  | cons e m ih =>
    obtain ⟨a, v⟩ := e
    have hk : k ≠ a := fun x => h (a, v) List.mem_cons_self x.symm
    rw [sget, if_neg hk]
    exact ih fun e he => h e (List.mem_cons_of_mem _ he)

theorem le_of_srising {lo : Nat} {l : Sparse Byte} (h : srising lo l = true) : ∀ e ∈ l, lo ≤ e.1 := by
  induction l generalizing lo with
  | nil => exact fun e he => absurd he (by simp)
  | cons c l ih =>
    simp only [srising, Bool.and_eq_true, decide_eq_true_eq] at h
    intro e he
    rcases List.mem_cons.1 he with rfl | he
    · exact h.1
    · exact Nat.le_of_succ_le (Nat.le_trans (Nat.succ_le_succ h.1) (ih h.2 e he))

/-- Moved entries read as where they come from, over what was there. -/
theorem sget_moveEntries {a b lo y : Nat} {l : Sparse Byte} (m : Sparse Byte) (hl : srising lo l = true) (ha : ∀ e ∈ l, a ≤ e.1) :
    sget flashErased (moveEntries a b l m) (b + y) = sget (fun _ => sget flashErased m (b + y)) l (a + y) := by
  induction l generalizing m lo with
  | nil => rfl
  | cons e l ih =>
    obtain ⟨c, v⟩ := e
    simp only [srising, Bool.and_eq_true, decide_eq_true_eq] at hl
    have hc : a ≤ c := ha (c, v) List.mem_cons_self
    refine (ih (sput flashErased m (b + (c - a)) v) hl.2 fun e he => ha e (List.mem_cons_of_mem _ he)).trans ?_
    rw [sget]
    by_cases hy : a + y = c
    · have hkey : b + y = b + (c - a) := by omega
      rw [if_pos hy, hkey, sget_sput_same, hy]
      exact sget_eq_default _ fun e he => by
        have := le_of_srising hl.2 e he
        omega
    · rw [if_neg hy, sget_sput_ne _ _ _ _ _ (by omega)]

theorem moveEntries_outside {a b n x : Nat} {l : Sparse Byte} (m : Sparse Byte) (hl : ∀ e ∈ l, a ≤ e.1 ∧ e.1 < a + n)
    (hx : x < b ∨ b + n ≤ x) : sget flashErased (moveEntries a b l m) x = sget flashErased m x := by
  induction l generalizing m with
  | nil => rfl
  | cons e l ih =>
    obtain ⟨h1, h2⟩ := hl e List.mem_cons_self
    refine (ih (sput flashErased m (b + (e.1 - a)) e.2) fun x hx => hl x (List.mem_cons_of_mem _ hx)).trans ?_
    exact sget_sput_ne _ _ _ _ _ (by omega)

theorem moveEntries_swf {a b : Nat} {l : Sparse Byte} (m : Sparse Byte) (hm : swf flashErased m = true) :
    swf flashErased (moveEntries a b l m) = true := by
  induction l generalizing m with
  | nil => exact hm
  | cons e l ih => exact ih _ (swf_sput _ _ _ _ hm)

/-- The entries of [a, a + n). -/
def entriesIn (m : Sparse Byte) (a n : Nat) : Sparse Byte := m.filter fun e => decide (a ≤ e.1) && decide (e.1 < a + n)

theorem mem_entriesIn {m : Sparse Byte} {a n : Nat} {e : Nat × Byte} (h : e ∈ entriesIn m a n) : a ≤ e.1 ∧ e.1 < a + n := by
  simpa using (List.mem_filter.1 h).2

theorem flashCopy_flash (s : State) (a b n : Nat) :
    (s.flashCopy a b n).store.flash = moveEntries a b (entriesIn s.store.flash a n) (s.flashErase b n).store.flash := by
  unfold State.flashCopy moveEntries entriesIn
  dsimp only
  rw [List.foldl_map]

theorem flashCopy_only (s : State) (a b n : Nat) : FlashOnly s (s.flashCopy a b n) := rfl

/-- A copy keeps the canonical form. -/
theorem flashCopy_swf {s : State} (a b n : Nat) (hs : swf flashErased s.store.flash = true) :
    swf flashErased (s.flashCopy a b n).store.flash = true := by
  rw [flashCopy_flash]
  exact moveEntries_swf _ (swf_filter _ _ _ hs)

theorem flashCopy_inside {s : State} {a b n y : Nat} (hs : swf flashErased s.store.flash = true) (hy : y < n) (ha : a + n ≤ 2 ^ 32)
    (hb : b + n ≤ 2 ^ 32) : (s.flashCopy a b n).flashByte (b + y) = s.flashByte (a + y) := by
  have hrising : srising 0 (entriesIn s.store.flash a n) = true := by
    rw [swf, Bool.and_eq_true] at hs
    exact srising_filter 0 _ _ hs.1
  have herased : sget flashErased (s.flashErase b n).store.flash (b + y) = 0xFF := by
    rw [← flashByte_of_lt _ (by omega)]
    exact flashErase_inside s (by omega) (by omega)
  rw [flashByte_of_lt _ (by omega), flashByte_of_lt _ (by omega), flashCopy_flash,
    sget_moveEntries _ hrising fun e he => (mem_entriesIn he).1, herased]
  exact (sget_filter flashErased s.store.flash (fun k => decide (a ≤ k) && decide (k < a + n)) (a + y)).trans (if_pos (by simp [hy]))

theorem flashCopy_outside {s : State} {a b n x : Nat} (hx : x < 2 ^ 32) (h : x < b ∨ b + n ≤ x) :
    (s.flashCopy a b n).flashByte x = s.flashByte x := by
  rw [flashByte_of_lt _ hx, flashCopy_flash, moveEntries_outside _ (fun e he => mem_entriesIn he) h, ← flashByte_of_lt _ hx]
  exact flashErase_outside s hx h

end Sys2Proof.Machine
end

section
/-! A COMPLETION posted at once (R390, R396): besides the event, IRQ_STATUS keeps its bits and the bulk halves their words. -/
namespace Sys2Proof.Machine

/-! ### Bits of IRQ_STATUS stay set until the host clears them (R375) -/

theorem irq_keeps {s : State} {k : Nat} (j : Nat) (h : s.host.irqStatus.getLsbD k = true) : (s.irq j).host.irqStatus.getLsbD k = true := by
  show (setBit s.host.irqStatus j).getLsbD k = true
  rw [setBit, BitVec.getLsbD_or, h, Bool.true_or]

theorem putEvent_keeps {s : State} {k : Nat} (code session : Nat) (ws : List Word) (h : s.host.irqStatus.getLsbD k = true) :
    (s.putEvent code session ws).host.irqStatus.getLsbD k = true := by
  obtain ⟨mb, hm⟩ := ringWrite_host s 6144 2048 s.host.evtHead (header code session s.fw.evtSeq (ws.length + 2) :: (timeWords s.time ++ ws))
  unfold State.putEvent
  dsimp only
  rw [hm]
  exact irq_keeps 1 h

theorem checkEvtTail_keeps {s : State} {k : Nat} (h : s.host.irqStatus.getLsbD k = true) :
    s.checkEvtTail.host.irqStatus.getLsbD k = true := by
  unfold State.checkEvtTail
  split
  · exact h
  · exact putEvent_keeps _ _ _ h

theorem postOverflow_keeps {s : State} {k : Nat} (h : s.host.irqStatus.getLsbD k = true) :
    s.postOverflow.host.irqStatus.getLsbD k = true := by
  unfold State.postOverflow
  split
  · exact h
  · exact putEvent_keeps _ _ _ h

theorem event_keeps {s : State} {k : Nat} (code session : Nat) (ws : List Word) (h : s.host.irqStatus.getLsbD k = true) :
    (s.event code session ws).host.irqStatus.getLsbD k = true := by
  unfold State.event
  split
  · exact h
  · dsimp only
    split
    · exact postOverflow_keeps (checkEvtTail_keeps h)
    · exact putEvent_keeps _ _ _ (postOverflow_keeps (checkEvtTail_keeps h))

/-! ### The end of an outstanding command -/

/-- `t` is `v` behind the COMPLETION of the command `j` that was outstanding in `s` (R396, R413). -/
structure Completed (s v t : State) (j : Job) (st : Nat) (ws : List Word) : Prop where
  off   : t.offRings = ({ v with fw.jobs := v.fw.jobs.erase j } : State).offRings
  posts : Posts s t 0x81 j.session (completionWords j st ws)
  flash : t.store.flash = v.store.flash
  irq   : ∀ k, v.host.irqStatus.getLsbD k = true → t.host.irqStatus.getLsbD k = true
  bulk  : ∀ i, 8192 ≤ i → t.mbx i = v.mbx i

/-- A row that ends an outstanding command with a COMPLETION, its event ring untouched until then. -/
theorem Outstanding.completes {s v : State} {op n : Nat} {j : Job} {i : Instr} {st : Nat} {ws : List Word}
    (h : Outstanding s op n j) (hi : exec i s = s.done (v.complete j st ws)) (hn : ws.length = n) (hr : SameEvents s v) :
    ∃ t, exec i s = .next t ∧ Completed s v t j st ws := by
  obtain ⟨-, horigin, hclear, -⟩ := h
  subst hn
  let w : State := { v with fw.jobs := v.fw.jobs.erase j }
  have hcomplete : v.complete j st ws = w.event 0x81 j.session (completionWords j st ws) := by
    unfold State.complete
    rw [horigin]
    rfl
  have hsame : SameEvents s w := hr
  have hroom : ClearToPost w (completionWords j st ws).length := clearToPost_same hsame hclear
  have hoff := event_off w 0x81 j.session (completionWords j st ws)
  obtain ⟨hpart, hpending⟩ := offRings_part hoff
  obtain ⟨hposts, honly, -⟩ := event_posts w 0x81 j.session (completionWords j st ws) hroom
  obtain ⟨-, -, -, -, -, -, -, hqueue, hfactory⟩ := hsame
  rw [hcomplete] at hi
  refine ⟨_, hi.trans (done_same s _ (hpending.trans hqueue) (hpart.trans hfactory)), hoff, posts_same hr hposts,
    (congrArg (fun x : State => x.store.flash) hoff : _), fun k hk => event_keeps _ _ _ hk, fun i hi => honly i fun q _ => ?_⟩
  omega

/-- A completion of the ring raises no message, so a row that raised none ends as any other. -/
theorem ends_complete {s v : State} {j : Job} {st : Nat} {ws : List Word} (hj : j.origin = .ring) (hq : v.kiln.raised = []) :
    s.ends (v.complete j st ws) = s.done (v.complete j st ws) := by
  have hkiln : (v.complete j st ws).kiln = v.kiln := by
    unfold State.complete
    rw [hj]
    exact event_kiln _ _ _ _
  rw [State.ends, hear_nil _ (by rw [hkiln, hq])]

/-- The half's bit of IRQ_STATUS is set when it goes back to the host (R390). -/
theorem returnHalf_irq (s : State) {h : Nat} (hh : h < 2) : (s.returnHalf h).host.irqStatus.getLsbD (3 + h) = true :=
  irq_get _ _ (by omega)

theorem bits_one_lt (x lo : Nat) : bits x lo 1 < 2 := Nat.mod_lt _ (by decide)

end Sys2Proof.Machine
end

section
/-! The ends of GRIST_PREPARE, GRIST_WRITE, GRIST_META, GRIST_COMMIT and GRIST_READ (R258, R283, R284, R286, R390, R435). -/
namespace Sys2Proof.Machine

/-! ### Where the metadata and its mirror lie (R258) -/

/-- The mirror lies above the 16 MiB of M0's metadata and ends inside the address space. -/
theorem mirrorBase_bounds (m1 : Bool) : 0x01000000 ≤ mirrorBase m1 ∧ mirrorBase m1 + 0x01000000 ≤ 2 ^ 32 := by
  cases m1 <;> decide

theorem dirBase_bounds {k : Nat} (hk : k < 2) : 0x00400000 ≤ dirBase k ∧ dirBase k + 0x200000 ≤ 0x00800000 := by
  unfold dirBase
  omega

theorem checkBase_bounds {k : Nat} (hk : k < 2) : 0x00800000 ≤ checkBase k ∧ checkBase k + 0x400000 ≤ 0x01000000 := by
  unfold checkBase
  omega

/-- The two directory copies, and the two page-check copies, lie apart. -/
theorem copies_apart {k : Nat} (hk : k < 2) :
    (dirBase k + 0x200000 ≤ dirBase (1 - k) ∨ dirBase (1 - k) + 0x200000 ≤ dirBase k)
      ∧ (checkBase k + 0x400000 ≤ checkBase (1 - k) ∨ checkBase (1 - k) + 0x400000 ≤ checkBase k) := by
  unfold dirBase checkBase
  omega

/-! ### GRIST_PREPARE (R283 step 1) -/

/-- The inactive copies in their places, before their mirrors. -/
def State.copiedHome (s : State) (k : Nat) : State :=
  (s.flashCopy (dirBase k) (dirBase (1 - k)) 0x200000).flashCopy (checkBase k) (checkBase (1 - k)) 0x400000

/-- Both tables copied into the inactive copies, at home and in the mirror at `m`. -/
def State.copiedTables (s : State) (k m : Nat) : State :=
  ((s.copiedHome k).flashCopy (dirBase k) (m + dirBase (1 - k)) 0x200000).flashCopy (checkBase k) (m + checkBase (1 - k)) 0x400000

theorem copiedTables_only (s : State) (k m : Nat) : FlashOnly s (s.copiedTables k m) :=
  ((flashCopy_only _ _ _ _).trans (flashCopy_only _ _ _ _)).trans ((flashCopy_only _ _ _ _).trans (flashCopy_only _ _ _ _))

theorem gristPrepareDone_copies {s : State} {j : Job} {f : Sparse Byte} (hj : s.jobOf 0x48 = some j) (hm : s.metaSuspended = false)
    (hf : (s.copiedTables s.store.anchor.copy (mirrorBase (!s.m0Only))).store.flash = f) :
    s.gristPrepareDone = ({ s.withFlash f with fw.update := 1, fw.changed := [] } : State).complete j stOk [] := by
  rw [← (copiedTables_only _ _ _).eq hf]
  simp only [State.gristPrepareDone, hj, hm, Bool.false_eq_true, if_false]
  rfl

theorem copiedHome_outside {s : State} {k x : Nat} (hx : x < 2 ^ 32) (hd : x < dirBase (1 - k) ∨ dirBase (1 - k) + 0x200000 ≤ x)
    (hc : x < checkBase (1 - k) ∨ checkBase (1 - k) + 0x400000 ≤ x) : (s.copiedHome k).flashByte x = s.flashByte x :=
  (flashCopy_outside hx hc).trans (flashCopy_outside hx hd)

theorem copiedTables_home {s : State} {k m x : Nat} (hm : 0x01000000 ≤ m) (hx : x < 0x01000000) :
    (s.copiedTables k m).flashByte x = (s.copiedHome k).flashByte x :=
  (flashCopy_outside (by omega) (by omega)).trans (flashCopy_outside (by omega) (by omega))

section Tables
variable {s : State} {k m : Nat} (hs : swf flashErased s.store.flash = true) (hk : k < 2)
include hs hk

theorem copiedHome_dir {a : Nat} (ha : a < 0x200000) : (s.copiedHome k).flashByte (dirBase (1 - k) + a) = s.flashByte (dirBase k + a) := by
  have hd := dirBase_bounds hk
  have hd' := dirBase_bounds (k := 1 - k) (by omega)
  have hc' := checkBase_bounds (k := 1 - k) (by omega)
  exact (flashCopy_outside (by omega) (by omega)).trans (flashCopy_inside hs ha (by omega) (by omega))

theorem copiedHome_check {a : Nat} (ha : a < 0x400000) :
    (s.copiedHome k).flashByte (checkBase (1 - k) + a) = s.flashByte (checkBase k + a) := by
  have hc := checkBase_bounds hk
  have hc' := checkBase_bounds (k := 1 - k) (by omega)
  have hd' := dirBase_bounds (k := 1 - k) (by omega)
  exact (flashCopy_inside (flashCopy_swf _ _ _ hs) ha (by omega) (by omega)).trans (flashCopy_outside (by omega) (by omega))

variable (hm : 0x01000000 ≤ m ∧ m + 0x01000000 ≤ 2 ^ 32)
include hm

/-- The directory's inactive copy and its mirror hold the active directory. -/
theorem copiedTables_dir {a : Nat} (ha : a < 0x200000) :
    (s.copiedTables k m).flashByte (dirBase (1 - k) + a) = s.flashByte (dirBase k + a)
      ∧ (s.copiedTables k m).flashByte (m + dirBase (1 - k) + a) = s.flashByte (dirBase k + a) := by
  have hd := dirBase_bounds hk
  have hd' := dirBase_bounds (k := 1 - k) (by omega)
  have hc' := checkBase_bounds (k := 1 - k) (by omega)
  have hapart := (copies_apart hk).1
  have hhome : swf flashErased (s.copiedHome k).store.flash = true := flashCopy_swf _ _ _ (flashCopy_swf _ _ _ hs)
  constructor
  · exact (copiedTables_home hm.1 (by omega)).trans (copiedHome_dir hs hk ha)
  · calc (s.copiedTables k m).flashByte (m + dirBase (1 - k) + a)
        = ((s.copiedHome k).flashCopy (dirBase k) (m + dirBase (1 - k)) 0x200000).flashByte (m + dirBase (1 - k) + a) :=
          flashCopy_outside (by omega) (by omega)
      _ = (s.copiedHome k).flashByte (dirBase k + a) := flashCopy_inside hhome ha (by omega) (by omega)
      _ = s.flashByte (dirBase k + a) := copiedHome_outside (by omega) (by omega) (by omega)

/-- The page-check table's inactive copy and its mirror hold the active table. -/
theorem copiedTables_check {a : Nat} (ha : a < 0x400000) :
    (s.copiedTables k m).flashByte (checkBase (1 - k) + a) = s.flashByte (checkBase k + a)
      ∧ (s.copiedTables k m).flashByte (m + checkBase (1 - k) + a) = s.flashByte (checkBase k + a) := by
  have hc := checkBase_bounds hk
  have hc' := checkBase_bounds (k := 1 - k) (by omega)
  have hd' := dirBase_bounds (k := 1 - k) (by omega)
  have hapart := (copies_apart hk).2
  have hhome : swf flashErased (s.copiedHome k).store.flash = true := flashCopy_swf _ _ _ (flashCopy_swf _ _ _ hs)
  constructor
  · exact (copiedTables_home hm.1 (by omega)).trans (copiedHome_check hs hk ha)
  · calc (s.copiedTables k m).flashByte (m + checkBase (1 - k) + a)
        = ((s.copiedHome k).flashCopy (dirBase k) (m + dirBase (1 - k)) 0x200000).flashByte (checkBase k + a) :=
          flashCopy_inside (flashCopy_swf _ _ _ hhome) ha (by omega) (by omega)
      _ = (s.copiedHome k).flashByte (checkBase k + a) := flashCopy_outside (by omega) (by omega)
      _ = s.flashByte (checkBase k + a) := copiedHome_outside (by omega) (by omega) (by omega)

end Tables

/-! ### GRIST_WRITE and GRIST_META (R283 steps 2 and 3) -/

/-- Sectors from `a` on erased and programmed with the bytes of a slice (R253). -/
def State.sectorsWritten (s : State) (a : Nat) (bs : List Byte) : State :=
  (s.flashErase a ((bs.length + 4095) / 4096 * 4096)).flashWrite a bs

theorem sectorsWritten_only (s : State) (a : Nat) (bs : List Byte) : FlashOnly s (s.sectorsWritten a bs) :=
  (flashErase_only _ _ _).trans (flashWrite_only _ _ _)

theorem metaWrite_only (s : State) (a : Nat) (bs : List Byte) : FlashOnly s (s.metaWrite a bs) :=
  (flashWrite_only _ _ _).trans (flashWrite_only _ _ _)

section Sectors
variable {s : State} {a : Nat} {bs : List Byte}

theorem sectorsWritten_tail {i : Nat} (hi : bs.length ≤ i) (hsize : i < (bs.length + 4095) / 4096 * 4096) (ha : a + i < 2 ^ 32) :
    (s.sectorsWritten a bs).flashByte (a + i) = 0xFF :=
  (flashWrite_outside _ ha (.inr (by omega))).trans (flashErase_inside s ha (by omega))

theorem sectorsWritten_outside {x : Nat} (hx : x < 2 ^ 32) (h : x < a ∨ a + (bs.length + 4095) / 4096 * 4096 ≤ x) :
    (s.sectorsWritten a bs).flashByte x = s.flashByte x :=
  (flashWrite_outside _ hx (by omega)).trans (flashErase_outside s hx h)

/-! Bytes written into M0's metadata stand there and in the mirror, and every other byte of the flash stands (R258). -/

theorem metaWrite_inside {i : Nat} (ha : a + bs.length ≤ 0x01000000) (hi : i < bs.length) :
    (s.metaWrite a bs).flashByte (a + i) = bs.getD i 0
      ∧ (s.metaWrite a bs).flashByte (mirrorBase (!s.m0Only) + a + i) = bs.getD i 0 := by
  obtain ⟨hlow, hhigh⟩ := mirrorBase_bounds (!s.m0Only)
  exact ⟨(flashWrite_outside (a := mirrorBase (!s.m0Only) + a) (s.flashWrite a bs) (by omega) (by omega)).trans
    (flashWrite_inside s hi (by omega)), flashWrite_inside (a := mirrorBase (!s.m0Only) + a) (s.flashWrite a bs) hi (by omega)⟩

theorem metaWrite_outside {x : Nat} (hx : x < 2 ^ 32) (h : ∀ i < bs.length, x ≠ a + i ∧ x ≠ mirrorBase (!s.m0Only) + a + i) :
    (s.metaWrite a bs).flashByte x = s.flashByte x := by
  have outside (b : Nat) (hb : ∀ i < bs.length, x ≠ b + i) : x < b ∨ b + bs.length ≤ x := by
    by_contra hin
    exact hb (x - b) (by omega) (by omega)
  exact (flashWrite_outside (a := mirrorBase (!s.m0Only) + a) (s.flashWrite a bs) hx (outside _ fun i hi => (h i hi).2)).trans
    (flashWrite_outside s hx (outside _ fun i hi => (h i hi).1))

end Sectors

section Ends
variable {s : State} {j : Job}

variable {f : Sparse Byte}

theorem gristWriteDone_programs (hj : s.jobOf 0x49 = some j) (hs : s.eraseSuspended (portOf (j.w 1)) = false) (hn : j.w 2 % 4 = 0)
    (hp : ∀ p ∈ pagesOf (j.w 1) (j.w 2), s.pageInUse p = false)
    (hf : (s.sectorsWritten (j.w 1) (s.bulkBytes (bits (j.w 0) 0 1) (j.w 2))).store.flash = f) :
    s.gristWriteDone = ((s.withFlash f).returnHalf (bits (j.w 0) 0 1)).complete j stOk [] := by
  have hfree : ¬ (pagesOf (j.w 1) (j.w 2)).any s.pageInUse = true := by
    rw [List.any_eq_true]
    rintro ⟨p, hmem, huse⟩
    rw [hp p hmem] at huse
    exact absurd huse (by decide)
  rw [← (sectorsWritten_only _ _ _).eq hf, State.sectorsWritten, bulkBytes_length s _ _ hn]
  simp only [State.gristWriteDone, hj, hs, Bool.false_eq_true, if_false, if_neg hfree]

theorem gristMetaDone_checks (hj : s.jobOf 0x4A = some j) (hm : s.metaSuspended = false) (hb : bit (j.w 0) 0 = true)
    (hf : (s.metaWrite (checkBase (1 - s.store.anchor.copy) + 4 * j.w 1) (wordBytes (j.words.drop 2))).store.flash = f) :
    s.gristMetaDone = (s.withFlash f).complete j stOk [] := by
  rw [← (metaWrite_only _ _ _).eq hf]
  simp only [State.gristMetaDone, hj, hm, hb, Bool.false_eq_true, if_false, if_true]

theorem gristMetaDone_entry (hj : s.jobOf 0x4A = some j) (hm : s.metaSuspended = false) (hb : bit (j.w 0) 0 = false)
    (hf : (s.metaWrite (dirBase (1 - s.store.anchor.copy) + 32 * j.w 1) (wordBytes (j.words.drop 2))).store.flash = f) :
    s.gristMetaDone =
      ({ s.withFlash f with
        fw.changed := if s.fw.changed.contains (j.w 1) then s.fw.changed else insertNat (j.w 1) s.fw.changed } : State).complete j stOk [] := by
  rw [← (metaWrite_only _ _ _).eq hf]
  simp only [State.gristMetaDone, hj, hm, hb, Bool.false_eq_true, if_false]

/-! ### GRIST_COMMIT (R283 steps 4 and 5) -/

/-- The anchor of a commit: the other copy, the next generation, the entries grown to the last changed one (R259, R283). -/
def State.commitAnchor (s : State) : Anchor :=
  { s.store.anchor with
    copy := 1 - s.store.anchor.copy
    generation := (s.store.anchor.generation + 1) % 2 ^ 32
    entries := max s.store.anchor.entries (match s.fw.changed.getLast? with
      | some i => i + 1
      | none => 0)
    mirrorM1 := !s.m0Only }

theorem writeAnchor_only (s : State) (b : Anchor) : FlashOnly s (s.writeAnchor b) := by
  unfold State.writeAnchor
  exact ((flashErase_only _ _ _).trans (flashWrite_only _ _ _)).trans ((flashErase_only _ _ _).trans (flashWrite_only _ _ _))

/-- The state of a commit: its anchor is written, waits for its boundary and closes the update. -/
def State.committed (s : State) (b : Anchor) (f : Sparse Byte) : State :=
  { s.withFlash f with store.nextAnchor := some b, fw.update := 3 }

theorem committed_eq {s : State} {b : Anchor} {f : Sparse Byte} (hf : (s.writeAnchor b).store.flash = f) :
    ({ s.writeAnchor b with store.nextAnchor := some b, fw.update := 3 } : State) = s.committed b f := by
  rw [(writeAnchor_only s b).eq hf]
  rfl

theorem writeAnchor_nextBlock (s : State) (b : Anchor) : (s.writeAnchor b).nextBlock = s.nextBlock := by
  rw [(writeAnchor_only s b).eq rfl]
  rfl

variable {rd : List PageFault} (hj : s.jobOf 0x4B = some j)
  (halone : s.metaSuspended = false ∧ s.jobOf 0x49 = none ∧ s.jobOf 0x4A = none)
include hj halone

/-- A commit that waits for nothing is decided by the first changed entry that is not good. -/
theorem gristCommitDone_alone (hf : (s.writeAnchor s.commitAnchor).store.flash = f) :
    s.gristCommitDone rd = match s.fw.changed.find? fun i => !s.entryGood rd i with
      | some i => ({ s with fw.update := 1 } : State).complete j stCommitRefused [w32 i, 0]
      | none => (s.committed s.commitAnchor f).complete j stOk [w32 s.commitAnchor.generation, w32 s.nextBlock] := by
  obtain ⟨hmeta, hwrite, hmetaJob⟩ := halone
  have hwaits : ¬ (s.metaSuspended || [0x49, 0x4A].any fun op => (s.jobOf op).isSome) = true := by simp [hmeta, hwrite, hmetaJob]
  rw [← committed_eq hf, ← writeAnchor_nextBlock s s.commitAnchor]
  unfold State.gristCommitDone
  rw [hj]
  dsimp only
  rw [if_neg hwaits]
  rfl

theorem gristCommitDone_good (hgood : ∀ i ∈ s.fw.changed, s.entryGood rd i = true) (hf : (s.writeAnchor s.commitAnchor).store.flash = f) :
    s.gristCommitDone rd = (s.committed s.commitAnchor f).complete j stOk [w32 s.commitAnchor.generation, w32 s.nextBlock] := by
  have hnone : s.fw.changed.find? (fun i => !s.entryGood rd i) = none := List.find?_eq_none.2 fun i hi => by simp [hgood i hi]
  rw [gristCommitDone_alone hj halone hf, hnone]

theorem gristCommitDone_bad {i : Nat} {l r : List Nat} (hl : s.fw.changed = l ++ i :: r) (hgood : ∀ x ∈ l, s.entryGood rd x = true)
    (hbad : s.entryGood rd i = false) :
    s.gristCommitDone rd = ({ s with fw.update := 1 } : State).complete j stCommitRefused [w32 i, 0] := by
  have hfirst : s.fw.changed.find? (fun i => !s.entryGood rd i) = some i := by
    rw [hl, List.find?_append, List.find?_eq_none.2 fun x hx => by simp [hgood x hx]]
    simp [hbad]
  rw [gristCommitDone_alone hj halone rfl, hfirst]

end Ends

/-! ### GRIST_READ (R390, R435) -/

theorem gristReadDone_reads {s : State} {j : Job} {rd : List PageFault} {l : List Byte} (hj : s.jobOf 0x4E = some j)
    (hs : s.scratchFails = false) (hl : s.hostPages rd (pagesOf (j.w 1) (j.w 2)) = (some l, s)) :
    s.gristReadDone rd =
      ((s.bulkWrite (bits (j.w 0) 0 1) 0 (bytesWords (j.w 2 / 4) (l.drop (j.w 1 % 4096)))).returnHalf (bits (j.w 0) 0 1)).complete j stOk [] := by
  simp only [State.gristReadDone, hj, hs, hl, Bool.false_eq_true, if_false]

/-- A half reads back the words of the bytes written into it. -/
theorem bulkWrite_word (s : State) (h n i : Nat) (l : List Byte) (hi : i < n) :
    (s.bulkWrite h 0 (bytesWords n l)).mbx (8192 + 4096 * h + i) = w32 (u32 l (4 * i)) := by
  show sget _ (sputs _ s.host.mailbox (8192 + 4096 * h + 0) _) _ = _
  rw [sget_sputs, if_pos (by omega), Nat.add_zero, Nat.add_sub_cancel_left, bytesWords_getElem?, if_pos hi, Option.getD_some]

/-! ### The statement -/

theorem gristUpdate : Says.GristUpdate := by
  unfold Says.GristUpdate
  intro s j k m flashes hs hk
  have hm := mirrorBase_bounds (!s.m0Only)
  refine ⟨?prepare, ?write, ?checks, ?entry⟩
  case prepare =>
    intro ho hfree
    obtain ⟨f, hf⟩ : ∃ f, (s.copiedTables k m).store.flash = f := ⟨_, rfl⟩
    have hwork := (exec_gristPrepareDone s).trans (congrArg s.done (gristPrepareDone_copies ho.jobOf hfree hf))
    obtain ⟨t, hexec, hc⟩ := ho.completes hwork rfl (SameEvents.refl s)
    have hread : ∀ x, t.flashByte x = (s.copiedTables k m).flashByte x := flashByte_congr (hc.flash.trans hf.symm)
    refine ⟨t, hexec, by rw [hc.off, hc.flash]; rfl, hc.posts, fun a ha => ?_, fun a ha => ?_⟩
    · rw [hread, hread]
      exact copiedTables_dir hs hk hm ha
    · rw [hread, hread]
      exact copiedTables_check hs hk hm ha
  case write =>
    intro a n h ho hfree ha hn h4 hend hpages
    obtain ⟨f, hf⟩ : ∃ f, (s.sectorsWritten a (s.bulkBytes h n)).store.flash = f := ⟨_, rfl⟩
    have hwork := (exec_gristWriteDone s).trans (congrArg s.done (gristWriteDone_programs ho.jobOf hfree h4 hpages hf))
    obtain ⟨t, hexec, hc⟩ := ho.completes hwork rfl (SameEvents.refl s)
    have hread : ∀ x, t.flashByte x = (s.sectorsWritten a (s.bulkBytes h n)).flashByte x := flashByte_congr (hc.flash.trans hf.symm)
    have hlen : (s.bulkBytes h n).length = n := bulkBytes_length s h n h4
    have hirq := hc.irq (3 + h) (returnHalf_irq _ (bits_one_lt _ _))
    refine ⟨t, hexec, by rw [hc.off, hc.flash]; rfl, hc.posts, hirq, fun i hi => ?_, fun i hi hsize => ?_, fun x hx hout => ?_⟩
    · rw [hread]
      refine (flashWrite_inside _ (by rwa [hlen]) (by omega)).trans ?_
      rw [List.getD_eq_getElem?_getD, bulkBytes_getElem? s h n i h4 hi, Option.getD_some]
    · rw [hread]
      exact sectorsWritten_tail (by rwa [hlen]) (by rwa [hlen]) (by omega)
    · rw [hread]
      exact sectorsWritten_outside hx (by rwa [hlen])
  case checks =>
    intro bs ho hfree hb hlen
    obtain ⟨f, hf⟩ : ∃ f, (s.metaWrite (checkBase (1 - k) + 4 * j.w 1) bs).store.flash = f := ⟨_, rfl⟩
    have hwork := (exec_gristMetaDone s).trans (congrArg s.done (gristMetaDone_checks ho.jobOf hfree hb hf))
    obtain ⟨t, hexec, hc⟩ := ho.completes hwork rfl (SameEvents.refl s)
    have hread : ∀ x, t.flashByte x = _ := flashByte_congr (hc.flash.trans hf.symm)
    have hcheck := checkBase_bounds (k := 1 - k) (by omega)
    have hbs : bs.length = 4 * (j.words.length - 2) := by rw [wordBytes_length, List.length_drop]
    refine ⟨t, hexec, by rw [hc.off, hc.flash]; rfl, hc.posts, fun i hi => ?_, fun x hx hout => ?_⟩
    · rw [hread, hread]
      exact metaWrite_inside (by omega) hi
    · rw [hread]
      exact metaWrite_outside hx hout
  case entry =>
    intro bs ho hfree hb hlen hentry
    obtain ⟨f, hf⟩ : ∃ f, (s.metaWrite (dirBase (1 - k) + 32 * j.w 1) bs).store.flash = f := ⟨_, rfl⟩
    have hwork := (exec_gristMetaDone s).trans (congrArg s.done (gristMetaDone_entry ho.jobOf hfree hb hf))
    obtain ⟨t, hexec, hc⟩ := ho.completes hwork rfl (SameEvents.refl s)
    have hread : ∀ x, t.flashByte x = _ := flashByte_congr (hc.flash.trans hf.symm)
    have hdir := dirBase_bounds (k := 1 - k) (by omega)
    have hbs : bs.length = 32 := by rw [wordBytes_length, List.length_drop, hlen]
    refine ⟨t, hexec, by rw [hc.off, hc.flash]; rfl, hc.posts, fun i hi => ?_, fun x hx hout => ?_⟩
    · rw [hread, hread]
      exact metaWrite_inside (by omega) (by omega)
    · rw [hread]
      exact metaWrite_outside hx (by rwa [hbs])

theorem gristCommitAndRead : Says.GristCommitAndRead := by
  unfold Says.GristCommitAndRead
  intro s rd j a top b alone
  refine ⟨?good, ?bad, ?read⟩
  case good =>
    intro ho halone hgood
    obtain ⟨f, hf⟩ : ∃ f, (s.writeAnchor s.commitAnchor).store.flash = f := ⟨_, rfl⟩
    have hwork := (exec_gristCommitDone rd s).trans (congrArg s.ends (gristCommitDone_good ho.jobOf halone hgood hf))
    have hb : b = s.commitAnchor := rfl
    rw [hb, hf]
    exact ho.finishes hwork rfl rfl (SameEvents.refl s)
  case bad =>
    intro i l r ho halone hl hgood hbad
    exact ho.finishes ((exec_gristCommitDone rd s).trans (congrArg s.ends (gristCommitDone_bad ho.jobOf halone hl hgood hbad))) rfl rfl
      (SameEvents.refl s)
  case read =>
    intro l ho hs hl hn h
    have ⟨_, horigin, _, hquiet⟩ := ho
    have hwork := (exec_gristReadDone rd s).trans (congrArg s.ends (gristReadDone_reads ho.jobOf hs hl))
    obtain ⟨t, hexec, hc⟩ := ho.completes (hwork.trans (ends_complete horigin hquiet)) rfl (SameEvents.refl s)
    refine ⟨t, hexec, hc.off, hc.posts, hc.irq _ (returnHalf_irq _ (bits_one_lt _ _)), fun i hi => ?_⟩
    exact (hc.bulk _ (by omega)).trans (bulkWrite_word s h (j.w 2 / 4) i _ hi)

/-- Settles O21: each end is the completion of a state whose flash, or whose half, holds what the command brought. -/
theorem storeUpdates : Obligations.StoreUpdates := ⟨gristUpdate, gristCommitAndRead⟩

end Sys2Proof.Machine
end

section
/-! PLL_LOCK (R375, R411, R610, R630 to R632): the anchor, and the firmware slot whose image passes. -/
namespace Sys2Proof.Machine

/-- The state at PLL lock, before the boot ROM has looked for the anchor (R610). -/
def State.pllLocked (s : State) : State := { s with pwr.phase := .locked, lastBlock := s.time / 4096 }

section Boot
variable {s : State} {slotA slotB : Nat} (hphase : s.pwr.phase = .released) (href : s.pwr.refUsed ≠ none)
include hphase href

/-- A part out of reset with a reference in use locks and boots by the anchor it finds. -/
theorem pllLock_boots :
    s.pllLock slotA slotB = match s.pllLocked.findAnchor with
      | none => ({ s.pllLocked with pwr.phase := .bootFailed } : State).setHandoverStep 7 6
      | some a =>
        if (if a.fwSlot = 0 then slotA else slotB) = 0 then
          { s.pllLocked with store.anchor := a, host.activeSlot := a.fwSlot, pwr.bootSlot := a.fwSlot, pwr.bootFault := 0 }
        else if (if 1 - a.fwSlot = 0 then slotA else slotB) = 0 then
          ({ s.pllLocked with
            store.anchor := a
            host.activeSlot := 1 - a.fwSlot
            pwr.bootSlot := 1 - a.fwSlot
            pwr.bootFault := if a.fwSlot = 0 then slotA else slotB } : State).setHandoverStep 7 (if a.fwSlot = 0 then slotA else slotB)
        else ({ s.pllLocked with store.anchor := a, pwr.phase := .bootFailed } : State).setHandoverStep 7
          (if 1 - a.fwSlot = 0 then slotA else slotB) := by
  have hstarts : ¬ (s.pwr.phase != .released || s.pwr.refUsed.isNone) = true := by
    rw [Bool.or_eq_true, Option.isNone_iff_eq_none]
    simp [hphase, href]
  unfold State.pllLock
  rw [if_neg hstarts]
  rfl

theorem pllLock_unanchored (h : s.pllLocked.findAnchor = none) :
    s.pllLock slotA slotB = ({ s.pllLocked with pwr.phase := .bootFailed } : State).setHandoverStep 7 6 := by
  rw [pllLock_boots hphase href, h]

variable {a : Anchor} (ha : s.pllLocked.findAnchor = some a)
include ha

theorem pllLock_first (h : (if a.fwSlot = 0 then slotA else slotB) = 0) :
    s.pllLock slotA slotB =
      { s.pllLocked with store.anchor := a, host.activeSlot := a.fwSlot, pwr.bootSlot := a.fwSlot, pwr.bootFault := 0 } := by
  rw [pllLock_boots hphase href, ha]
  exact if_pos h

theorem pllLock_fallback (h : (if a.fwSlot = 0 then slotA else slotB) ≠ 0) (ho : (if 1 - a.fwSlot = 0 then slotA else slotB) = 0) :
    s.pllLock slotA slotB =
      ({ s.pllLocked with
        store.anchor := a
        host.activeSlot := 1 - a.fwSlot
        pwr.bootSlot := 1 - a.fwSlot
        pwr.bootFault := if a.fwSlot = 0 then slotA else slotB } : State).setHandoverStep 7 (if a.fwSlot = 0 then slotA else slotB) := by
  rw [pllLock_boots hphase href, ha]
  exact (if_neg h).trans (if_pos ho)

end Boot

theorem exec_pllLock_next {s t : State} {slotA slotB : Nat} (h : s.pllLock slotA slotB = t) (h1 : t.pending = s.pending)
    (h2 : t.part = s.part) : exec (.pllLock slotA slotB) s = .next t := by
  rw [exec_pllLock, execPllLock, h]
  exact done_same s t h1 h2

theorem pllLockBoots : Says.PllLockBoots := by
  unfold Says.PllLockBoots
  intro s slotA slotB hphase href u verdict
  refine ⟨fun a ha h => ?_, fun a ha h ho => ?_, fun h => ?_⟩
  · exact exec_pllLock_next (pllLock_first hphase href ha h) rfl rfl
  · exact exec_pllLock_next (pllLock_fallback hphase href ha h ho) rfl rfl
  · exact exec_pllLock_next (pllLock_unanchored hphase href h) rfl rfl

end Sys2Proof.Machine
end

section
/-! READY (R252, R254, R634): the ports as their set-up leaves them, and the state from which commands are taken. -/
namespace Sys2Proof.Machine

/-- A field of a register stands where another one is replaced. -/
theorem bits_setField_apart (w : Word) {lo n lo' n' : Nat} (x : Nat) (h : lo' + n' ≤ lo ∨ lo + n ≤ lo') (hw : lo' + n' ≤ 32) :
    bits (setField w lo n x).toNat lo' n' = bits w.toNat lo' n' := by
  refine Nat.eq_of_testBit_eq fun i => ?_
  rw [bits_testBit, bits_testBit]
  by_cases hi : i < n'
  · rw [BitVec.testBit_toNat, BitVec.testBit_toNat, setField_getLsbD w lo n x _ (by omega), if_neg (by omega)]
  · simp [hi]

/-! ### Mx_CFG (R254) -/

/-- Mx_CFG as the set-up of a port leaves it: DUMMY, SIZE_LOG2 and PRESENT. -/
def portCfg (w : Word) (f : PortSetup) : Word := setField (setField (setField w 8 5 f.dummy) 16 5 f.sizeLog2) 24 1 1

theorem portCfg_dummy (w : Word) {f : PortSetup} (h : f.dummy ≤ 30) : bits (portCfg w f).toNat 8 5 = f.dummy := by
  rw [portCfg, bits_setField_apart _ _ (by decide) (by decide), bits_setField_apart _ _ (by decide) (by decide),
    bits_setField _ _ _ _ (by decide)]
  omega

theorem portCfg_size (w : Word) {f : PortSetup} (h : f.sizeLog2 ≤ 31) : bits (portCfg w f).toNat 16 5 = f.sizeLog2 := by
  rw [portCfg, bits_setField_apart _ _ (by decide) (by decide), bits_setField _ _ _ _ (by decide)]
  omega

/-- A device that meets R252 has a read latency and a size that their fields hold. -/
theorem portFits_bounds {f : PortSetup} {least : Nat} (h : portFits f least = true) : f.dummy ≤ 30 ∧ f.sizeLog2 ≤ 31 := by
  simp only [portFits, Bool.and_eq_true, decide_eq_true_eq] at h
  omega

theorem portFits_eq (f : PortSetup) (least : Nat) :
    portFits f least = (f.meets && decide (8 ≤ f.dummy ∧ f.dummy ≤ 30 ∧ least ≤ f.sizeLog2 ∧ f.sizeLog2 ≤ 31)) := by
  simp only [portFits, Bool.decide_and, Bool.and_assoc]

/-! ### The set-up of the ports -/

theorem setupPort_eq (s : State) (p : Nat) (f : PortSetup) (there : Bool) :
    s.setupPort p f there = { s with store.ports := s.store.ports.set p ⟨there, false⟩, regs := (s.setupPort p f there).regs } := by
  cases there <;> rfl

theorem setupPort_absent (s : State) (p : Nat) (f : PortSetup) (b o : Nat) : (s.setupPort p f false).reg b o = s.reg b o := rfl

theorem setupPort_cfg (s : State) (p : Nat) (f : PortSetup) :
    (s.setupPort p f true).reg bGRIST (0x10 + 4 * p) = portCfg (s.reg bGRIST (0x10 + 4 * p)) f := State.reg_setReg ..

/-- The set-up of a port changes no register but its Mx_CFG. -/
theorem setupPort_reg (s : State) (p : Nat) (f : PortSetup) (there : Bool) {b o : Nat} (hp : p < 2) (ho : o < 0x10000)
    (h : (b, o) ≠ (bGRIST, 0x10 + 4 * p)) : (s.setupPort p f there).reg b o = s.reg b o := by
  cases there with
  | false => rfl
  | true =>
    refine State.reg_setReg_ne ({ s with store.ports := s.store.ports.set p ⟨true, false⟩ } : State) _ _ _ _ _ ?_
    rw [Ne, regKey_inj ho (by omega)]
    rwa [Ne, Prod.mk.injEq] at h

/-- Both ports set up, M0 first. -/
def State.portsSet (s : State) (m0 m1 : PortSetup) (first second : Bool) : State := (s.setupPort 0 m0 first).setupPort 1 m1 second

/-- The state with the ports found as they are, and the registers as their set-up leaves them. -/
def State.withPorts (s : State) (first second : Bool) (r : Sparse Word) : State :=
  { s with store.ports := [⟨first, false⟩, ⟨second, false⟩], regs := r }

theorem portsSet_eq {s : State} (m0 m1 : PortSetup) (first second : Bool) (h : s.store.ports.length = 2) :
    s.portsSet m0 m1 first second = s.withPorts first second (s.portsSet m0 m1 first second).regs := by
  have hports : (s.store.ports.set 0 ⟨first, false⟩).set 1 ⟨second, false⟩ = [⟨first, false⟩, ⟨second, false⟩] := by
    obtain ⟨a, b, hab⟩ := List.length_eq_two.1 h
    rw [hab]
    rfl
  rw [State.withPorts, ← hports]
  cases first <;> cases second <;> rfl

section Registers
variable (s : State) (m0 m1 : PortSetup) (first second : Bool)

theorem portsSet_m0 : (s.portsSet m0 m1 first second).reg bGRIST 0x10 = (s.setupPort 0 m0 first).reg bGRIST 0x10 :=
  setupPort_reg _ 1 m1 second (by decide) (by decide) (by decide)

theorem portsSet_m1 : (s.portsSet m0 m1 first second).reg bGRIST 0x14 = (s.setupPort 1 m1 second).reg bGRIST 0x14 := by
  have hm0 : (s.setupPort 0 m0 first).reg bGRIST 0x14 = s.reg bGRIST 0x14 := setupPort_reg s 0 m0 first (by decide) (by decide) (by decide)
  cases second with
  | false => exact hm0
  | true =>
    refine (setupPort_cfg (s.setupPort 0 m0 first) 1 m1).trans (Eq.trans ?_ (setupPort_cfg s 1 m1).symm)
    exact congrArg (fun w => portCfg w m1) hm0

/-- A port in use has the latency and the size of its device in Mx_CFG (R254). -/
theorem portsSet_m0_fits (h : m0.dummy ≤ 30 ∧ m0.sizeLog2 ≤ 31) :
    bits ((s.portsSet m0 m1 true second).reg bGRIST 0x10).toNat 8 5 = m0.dummy
      ∧ bits ((s.portsSet m0 m1 true second).reg bGRIST 0x10).toNat 16 5 = m0.sizeLog2 := by
  rw [(portsSet_m0 s m0 m1 true second).trans (setupPort_cfg s 0 m0)]
  exact ⟨portCfg_dummy _ h.1, portCfg_size _ h.2⟩

theorem portsSet_m1_fits (h : m1.dummy ≤ 30 ∧ m1.sizeLog2 ≤ 31) :
    bits ((s.portsSet m0 m1 first true).reg bGRIST 0x14).toNat 8 5 = m1.dummy
      ∧ bits ((s.portsSet m0 m1 first true).reg bGRIST 0x14).toNat 16 5 = m1.sizeLog2 := by
  rw [(portsSet_m1 s m0 m1 first true).trans (setupPort_cfg s 1 m1)]
  exact ⟨portCfg_dummy _ h.1, portCfg_size _ h.2⟩

theorem portsSet_reg {b o : Nat} (h0 : (b, o) ≠ (bGRIST, 0x10)) (h1 : (b, o) ≠ (bGRIST, 0x14)) (ho : o < 0x10000) :
    (s.portsSet m0 m1 first second).reg b o = s.reg b o :=
  (setupPort_reg _ 1 m1 second (by decide) ho h1).trans (setupPort_reg s 0 m0 first (by decide) ho h0)

end Registers

/-! ### The step to READY -/

/-- The state at READY, with the ports and the registers as their set-up leaves them (R634). -/
def State.readyWith (s : State) (first second : Bool) (r : Sparse Word) : State :=
  { s with
    pwr.phase := .ready
    pwr.woken := false
    pwr.por := false
    pwr.dieWatch := true
    pwr.aliveNext := some (s.time + max 1 (bits s.host.aliveCfg.toNat 8 8) * 24576)
    pwr.wakeCause := none
    fw.running := true
    fw.sessions := s.fw.sessions.set 0 ⟨true, false, 7, 0⟩
    kiln.hbLast := s.time
    lastBlock := s.time / 4096
    host.irqStatus := setBit s.host.irqStatus 6
    store.ports := [⟨first, false⟩, ⟨second, false⟩]
    mash.gains := [(s.time / 4096, (List.range 32).map fun ch => s.regN bWORT (4 * ch))]
    regs := r }

theorem restoreLatch_none {s : State} (h : s.pwr.latch = none) : s.restoreLatch = s := by
  unfold State.restoreLatch
  rw [h]

/-- M1 is in use where the part has it and its device fits, M0 where its own does. -/
def secondFits (s : State) (m1 : PortSetup) : Bool := portFits m1 25 && s.part.variant != .qk1024n
def firstFits (s : State) (m0 m1 : PortSetup) : Bool := portFits m0 (if secondFits s m1 then 25 else 26)

/-- What READY sets before the ports are set up. -/
def State.started (s : State) : State :=
  { s with
    pwr.phase := .ready
    pwr.woken := false
    pwr.por := false
    pwr.dieWatch := true
    pwr.aliveNext := some (s.time + max 1 (bits s.host.aliveCfg.toNat 8 8) * 24576)
    fw.running := true
    fw.sessions := s.fw.sessions.set 0 ⟨true, false, 7, 0⟩
    kiln.hbLast := s.time
    lastBlock := s.time / 4096 }

theorem started_portsSet (s : State) (m0 m1 : PortSetup) (first second : Bool) :
    (s.started.portsSet m0 m1 first second).regs = (s.portsSet m0 m1 first second).regs := by
  cases first <;> cases second <;> rfl

/-- What READY does once the ports are set up: the mixer's first gains, its interrupt, a wake's record, a latched fault (R348, R620). -/
def State.readyEnd (s : State) : State :=
  let s := ({ s with mash.gains := [(s.time / 4096, (List.range 32).map fun ch => s.regN bWORT (4 * ch))] } : State).irq 6
  let s := match s.pwr.wakeCause with
    | some (c, k, t) =>
      let m := mkMsg 2 (5 + bSPARGE) kSenseEvent 0 (c + 8 * k + 16) 0
      (s.countMsg m).logRecord m t 11 0 0
    | none => s
  ({ s with pwr.wakeCause := none } : State).restoreLatch

theorem becomeReady_starts {s : State} (m0 m1 : PortSetup) (hphase : s.pwr.phase = .locked) (hdebug : s.pwr.debugHalt = false) :
    s.becomeReady m0 m1 = (s.started.portsSet m0 m1 (firstFits s m0 m1) (secondFits s m1)).readyEnd := by
  have hgoes : ¬ (s.pwr.phase != .locked || s.pwr.debugHalt) = true := by simp [hphase, hdebug]
  unfold State.becomeReady
  rw [if_neg hgoes]
  rfl

theorem readyEnd_plain {s : State} (hwake : s.pwr.wakeCause = none) (hlatch : s.pwr.latch = none) :
    s.readyEnd = { s with
      mash.gains := [(s.time / 4096, (List.range 32).map fun ch => s.regN bWORT (4 * ch))]
      host.irqStatus := setBit s.host.irqStatus 6
      pwr.wakeCause := none } := by
  unfold State.readyEnd State.irq
  dsimp only
  rw [hwake]
  exact restoreLatch_none hlatch

/-- A part locked, not halted and without a latched fault or a wake's cause gets ready (R634). -/
theorem becomeReady_eq {s : State} {m0 m1 : PortSetup} (hphase : s.pwr.phase = .locked) (hdebug : s.pwr.debugHalt = false)
    (hwake : s.pwr.wakeCause = none) (hlatch : s.pwr.latch = none) (hports : s.store.ports.length = 2) :
    s.becomeReady m0 m1 = s.readyWith (firstFits s m0 m1) (secondFits s m1)
      (s.portsSet m0 m1 (firstFits s m0 m1) (secondFits s m1)).regs := by
  rw [becomeReady_starts m0 m1 hphase hdebug]
  generalize firstFits s m0 m1 = first
  generalize secondFits s m1 = second
  have hgains : (List.range 32).map (fun ch => (s.started.portsSet m0 m1 first second).regN bWORT (4 * ch))
      = (List.range 32).map fun ch => s.regN bWORT (4 * ch) := by
    refine List.map_congr_left fun ch hch => congrArg BitVec.toNat ?_
    have := List.mem_range.1 hch
    exact portsSet_reg s.started m0 m1 _ _ (by simp [bWORT, bGRIST]) (by simp [bWORT, bGRIST]) (by omega)
  have hset := portsSet_eq (s := s.started) m0 m1 first second hports
  rw [started_portsSet] at hset
  rw [hset] at hgains ⊢
  rw [readyEnd_plain (s := s.started.withPorts _ _ _) hwake hlatch, hgains]
  rfl

/-- The registers of the state at READY are those the set-up leaves. -/
theorem readyWith_reg (s : State) (m0 m1 : PortSetup) (first second f g : Bool) (b o : Nat) :
    (s.readyWith f g (s.portsSet m0 m1 first second).regs).reg b o = (s.portsSet m0 m1 first second).reg b o := by
  cases first <;> cases second <;> rfl

/-! ### The statement -/

theorem readyState : Says.ReadyState := by
  unfold Says.ReadyState
  intro s m0 m1 hphase hdebug hwake hlatch hports hquiet fits second first
  have hsecond : second = secondFits s m1 := congrArg (· && s.part.variant != .qk1024n) (portFits_eq m1 25).symm
  have hfirst : first = firstFits s m0 m1 := by
    unfold firstFits
    rw [← hsecond]
    exact (portFits_eq m0 _).symm
  have hwork := becomeReady_eq (m0 := m0) (m1 := m1) hphase hdebug hwake hlatch hports
  rw [← hfirst, ← hsecond] at hwork
  have hexec : exec (.ready m0 m1) s = .next (s.readyWith first second (s.portsSet m0 m1 first second).regs) := by
    rw [exec_ready, execReady, hwork]
    exact ends_quiet s _ hquiet rfl rfl
  clear_value first second
  have hreg := readyWith_reg s m0 m1 first second first second
  refine ⟨_, hexec, rfl, fun h => ?_, fun h => ?_, fun h => ?_, fun h => ?_, fun b o h0 h1 ho => ?_⟩
  · have hfits := portFits_bounds (hfirst.symm.trans h)
    rw [State.regN, hreg bGRIST 0x10, h]
    exact portsSet_m0_fits s m0 m1 second hfits
  · rw [hreg bGRIST 0x10, portsSet_m0, h]
    rfl
  · have hfits := hsecond.symm.trans h
    rw [secondFits, Bool.and_eq_true] at hfits
    rw [State.regN, hreg bGRIST 0x14, h]
    exact portsSet_m1_fits s m0 m1 first (portFits_bounds hfits.1)
  · rw [hreg bGRIST 0x14, portsSet_m1, h]
    rfl
  · exact (hreg b o).trans (portsSet_reg s m0 m1 first second h0 h1 ho)

/-- Settles O59: the boot ROM's choice by the verdicts on both images, and the ports that READY finds fit. -/
theorem startToReady : Obligations.StartToReady := ⟨pllLockBoots, readyState⟩

end Sys2Proof.Machine
end

section
/-! FIRMWARE_RESUME with a HELLO behind HANDOVER's response: the agreement comes with it (R387, R402), so more changes than R411 names. -/
namespace Sys2Proof.Machine

/-- A paused handover whose response is not formed yet, and behind it a HELLO's formed one that carries an agreement. -/
def helloBehindHandover : State :=
  { State.reset with
    pwr.phase := .ready
    fw.helloDone := true
    fw.paused := true
    fw.replies := [⟨0x72, 0, 0, .ring, none, none⟩, ⟨0x01, 0, 0, .ring, some [okWord], some 1⟩] }

theorem helloBehindHandover_paused :
    helloBehindHandover.isReady = true ∧ helloBehindHandover.fw.paused = true ∧ helloBehindHandover.fw.restart = false
      ∧ helloBehindHandover.fw.agreed = 0 := by
  decide +kernel

/-- HANDOVER's response lets the HELLO's out, and the agreement takes effect. -/
theorem helloBehindHandover_agrees : helloBehindHandover.firmwareResume.fw.agreed = 1 := by
  decide +kernel

/-- FIRMWARE_RESUME goes to the state that its work gives, but for the draws and the part. -/
theorem firmwareResume_fw {s t : State} (h : exec .firmwareResume s = .next t) : t.fw = s.firmwareResume.fw := by
  rw [exec_firmwareResume, execFirmwareResume, State.done] at h
  injection h with h
  rw [← h]

/-- Refutes O28: a HELLO's response waits behind HANDOVER's (R387), so FIRMWARE_RESUME posts both, and the agreement that HELLO carries
takes effect (R402); HandoverEnds, which asks nothing of the waiting responses, leaves the agreement as it was. The old firmware
takes no command after HANDOVER (R411), so the statement lacks a premise on the responses that wait, not the model a step. -/
theorem not_firmwareProgress : ¬ Obligations.FirmwareProgress := by
  rintro ⟨-, hends⟩
  obtain ⟨hready, hpaused, hrestart, hbefore⟩ := helloBehindHandover_paused
  obtain ⟨t, hexec, -, -, hoff⟩ := (hends helloBehindHandover hready).1 hpaused hrestart
  have hkept : t.offRings.fw.agreed = helloBehindHandover.fw.agreed := (congrArg (fun u : State => u.fw.agreed) hoff :)
  have hagreed : t.offRings.fw.agreed = 1 := (congrArg Firmware.agreed (firmwareResume_fw hexec)).trans helloBehindHandover_agrees
  rw [hagreed, hbefore] at hkept
  exact absurd hkept (by decide)

end Sys2Proof.Machine
end

section
/-! A heard message at the Kiln (R328 to R333, R336, R345): what the capture set, the actions and the latch make of it. -/
namespace Sys2Proof.Machine

/-! ### How a message is raised -/

/-- A row whose messages the Kiln has taken ends in the state that this leaves. -/
theorem ends_of_hear {s t u : State} (h : t.hear = u) (hq : u.pending = s.pending) (hp : u.part = s.part) : s.ends t = .next u := by
  unfold State.ends
  rw [h]
  exact done_same s u hq hp

/-- From READY on, a message of a kind and a level that exist waits for the end of its core cycle (R319). -/
theorem report_waits (s : State) (m : BitVec 64) (master access : Nat) (hready : s.isReady = true)
    (hkind : kindReserved (msgKind m) = false) (hlevel : msgLevel m ≤ 5) :
    s.report m master access = { s with kiln.raised := s.kiln.raised ++ [⟨m, master, access⟩] } := by
  unfold State.report
  rw [if_neg (by simp [hkind]; omega), if_neg (by simp [hready])]

theorem Heard.report_eq {s : State} {m : BitVec 64} (h : Heard s m) (master access : Nat) :
    s.report m master access = { s with kiln.raised := s.kiln.raised ++ [⟨m, master, access⟩] } := by
  obtain ⟨hready, -, hkind, hlevel, -, -, -⟩ := h
  exact report_waits s m master access hready hkind hlevel

/-- A message of a reserved kind is none (R322). -/
theorem report_reserved (s : State) (m : BitVec 64) (master access : Nat) (h : kindReserved (msgKind m) = true) :
    s.report m master access = s := by
  unfold State.report
  rw [if_pos (by simp [h])]

/-- Before READY the analog die's own C3 messages reach the latch, and no others (R345). -/
theorem report_notReady (s : State) (m : BitVec 64) (master access : Nat) (hready : s.isReady = false)
    (hkind : kindReserved (msgKind m) = false) (hlevel : msgLevel m ≤ 5) :
    s.report m master access = if msgClass m = 3 ∧ msgLevel m = 2 ∧ msgIndex m = 1 then s.setLatch m else s := by
  unfold State.report
  rw [if_neg (by simp [hkind]; omega), if_pos (by simp [hready])]

theorem setLatch_free {s : State} (m : BitVec 64) (h : s.pwr.latch = none) :
    s.setLatch m = { s with pwr.latch := some (m, s.time % 2 ^ 32) } := by
  unfold State.setLatch State.latched
  rw [h]
  rfl

/-- The latch keeps the first message (R345). -/
theorem setLatch_held {s : State} (m : BitVec 64) (h : s.pwr.latch ≠ none) : s.setLatch m = s := by
  unfold State.setLatch State.latched
  rw [if_pos (Option.isSome_iff_ne_none.mpr h)]

/-! ### What a message leaves of the configuration of its kind -/

/-- What a message counts is no register of the configuration of a kind (R349). -/
theorem regN_kind_noted (s : State) (m : BitVec 64) (master access flags : Nat) {k : Nat} (hk : k < 64) :
    (s.noted m master access flags).regN bKILN (0x100 + 4 * k) = s.regN bKILN (0x100 + 4 * k) := by
  have h : regKey bKILN (0x100 + 4 * k) ≠ regKey bKILN (0x200 + 4 * msgKind m) := by
    have := msgKind_lt m
    unfold regKey
    omega
  exact congrArg BitVec.toNat (State.reg_setReg_ne s _ _ _ _ _ h)

/-! ### The capture set and the action -/

/-- A heard message of class C1 or C2 that finds the capture set held is merged into it (R329). -/
def State.merged (s : State) (m : BitVec 64) (master access : Nat) : State :=
  { s.noted m master access 2 with
    kiln.cap.merged := min (s.kiln.cap.merged + 1) 255
    kiln.cap.cls := max s.kiln.cap.cls (msgClass m) }

/-- The capture set takes a message, or merges it where it is held (R328, R329). -/
def State.entered (s : State) (m : BitVec 64) (master access : Nat) : State :=
  if s.kiln.cap.valid then s.merged m master access else s.captured m master access

theorem entered_free {s : State} (m : BitVec 64) (master access : Nat) (h : s.kiln.cap.valid = false) :
    s.entered m master access = s.captured m master access := if_neg (by simp [h])

theorem entered_held {s : State} (m : BitVec 64) (master access : Nat) (h : s.kiln.cap.valid = true) :
    s.entered m master access = s.merged m master access := if_pos h

@[simp] theorem entered_pending (s : State) (m : BitVec 64) (a b : Nat) : (s.entered m a b).pending = s.pending := by
  unfold State.entered
  split <;> rfl

@[simp] theorem entered_part (s : State) (m : BitVec 64) (a b : Nat) : (s.entered m a b).part = s.part := by
  unfold State.entered
  split <;> rfl

@[simp] theorem entered_time (s : State) (m : BitVec 64) (a b : Nat) : (s.entered m a b).time = s.time := by
  unfold State.entered
  split <;> rfl

@[simp] theorem entered_safe (s : State) (m : BitVec 64) (a b : Nat) : (s.entered m a b).kiln.safe = s.kiln.safe := by
  unfold State.entered
  split <;> rfl

@[simp] theorem entered_acts (s : State) (m : BitVec 64) (a b : Nat) : (s.entered m a b).kiln.acts = s.kiln.acts := by
  unfold State.entered
  split <;> rfl

@[simp] theorem entered_ready (s : State) (m : BitVec 64) (a b : Nat) : (s.entered m a b).kiln.ready = s.kiln.ready := by
  unfold State.entered
  split <;> rfl

theorem entered_regN_kind (s : State) (m : BitVec 64) (a b : Nat) {k : Nat} (hk : k < 64) :
    (s.entered m a b).regN bKILN (0x100 + 4 * k) = s.regN bKILN (0x100 + 4 * k) := by
  unfold State.entered
  split
  · exact regN_kind_noted s m a b 2 hk
  · exact regN_kind_noted s m a b 1 hk

@[simp] theorem entered_kindAction (s : State) (m : BitVec 64) (a b : Nat) :
    (s.entered m a b).kindAction (msgKind m) = s.kindAction (msgKind m) := by
  unfold State.kindAction
  rw [entered_regN_kind s m a b (msgKind_lt m)]

@[simp] theorem entered_kindTimer (s : State) (m : BitVec 64) (a b : Nat) :
    (s.entered m a b).kindTimer (msgKind m) = s.kindTimer (msgKind m) := by
  unfold State.kindTimer
  rw [entered_regN_kind s m a b (msgKind_lt m)]

/-- Counted and logged, a message has entered the set (R328 to R330). -/
theorem entered_of_steps (s : State) (m : BitVec 64) (master access : Nat) (hroom : s.kiln.log.length < 1024) :
    (if s.kiln.cap.valid then (s.countMsg m).merge m else (s.countMsg m).capture m s.time master access false).logRecord m s.time
      master access (if s.kiln.cap.valid then 2 else 1) = s.entered m master access := by
  have hlog : (s.countMsg m).kiln.log.length < 1024 := by rwa [countMsg_kiln]
  by_cases hheld : s.kiln.cap.valid = true
  · rw [if_pos hheld, if_pos hheld, entered_held m master access hheld, logRecord_room ((s.countMsg m).merge m) _ _ _ _ _ hlog, countMsg_eq]
    rfl
  · rw [if_neg hheld, if_neg hheld, entered_free m master access (by simpa using hheld),
      logRecord_room ((s.countMsg m).capture m s.time master access false) _ _ _ _ _ hlog, countMsg_eq]
    rfl

/-- The action configured for the kind of a message that has entered the set waits for its timer (R333). -/
theorem startAction_waits (s : State) (m : BitVec 64) (master access : Nat) (haction : s.kindAction (msgKind m) ≠ 0)
    (hsafe : s.kiln.safe = false) (hroom : s.kiln.acts.length < 8) (hready : s.kiln.ready = []) :
    (s.entered m master access).startAction m s.kiln.seq = { s.entered m master access with
      kiln.acts := s.kiln.acts ++ [⟨m, s.kiln.seq, s.kindAction (msgKind m), s.time + s.kindTimer (msgKind m) * 24576⟩] } := by
  unfold State.startAction
  simp only [entered_kindAction, entered_kindTimer, entered_safe, entered_acts, entered_ready, entered_time]
  rw [if_neg (by simp [haction, hsafe]), if_neg (by simp [hready]; omega)]

/-- Only a transient message that is neither masked nor consequential counts for the rate of its kind (R336). -/
theorem c0Rate_uncounted {s : State} {m : BitVec 64} (master access : Nat)
    (h : msgClass m ≠ 0 ∨ s.masked m = true ∨ s.consequential m = true) : s.c0Rate m master access = s := by
  unfold State.c0Rate
  dsimp only
  exact if_pos (by rcases h with h | h | h <;> simp [h])

/-- A heard message that is not transient adds nothing to a C0 rate (R336). -/
theorem hear_report_lasting (s : State) (m : BitVec 64) (master access : Nat) (h : Heard s m) (h0 : msgClass m ≠ 0) :
    (s.report m master access).hear = s.takeMsg m master access := by
  obtain ⟨hready, hquiet, hkind, hlevel, -, -, -⟩ := h
  rw [hear_report s m master access hready hquiet hkind hlevel]
  exact c0Rate_uncounted master access (.inl h0)

/-- A row that changes what `u` says and then raises a transient message without a limit ends with the message noted (R330, R336). -/
theorem ends_report_noted {s u : State} {m : BitVec 64} (master access : Nat) (h : Heard u m) (h0 : msgClass m = 0)
    (hlimit : u.kindLimit (msgKind m) = 0) (hq : u.pending = s.pending) (hp : u.part = s.part) :
    s.ends (u.report m master access) = .next (u.noted m master access 0) :=
  ends_of_hear (hear_report_c0 u m master access h h0 hlimit) hq hp

/-- A row that changes what `u` says and then raises a message of class C1 or C2 into a free set ends with the message captured (R328). -/
theorem ends_report_captured {s u : State} {m : BitVec 64} (master access : Nat) (h : Heard u m) (hclass : msgClass m = 1 ∨ msgClass m = 2)
    (hfree : FreeSet u m) (hq : u.pending = s.pending) (hp : u.part = s.part) :
    s.ends (u.report m master access) = .next (u.captured m master access) :=
  ends_of_hear (hear_report_captured u m master access h hfree (by omega) (by omega)) hq hp

/-- A heard message of class C1 or C2 enters the set, and its action starts (R328, R329, R333). -/
theorem hear_report_entered (s : State) (m : BitVec 64) (master access : Nat) (h : Heard s m) (h0 : msgClass m ≠ 0) (h3 : msgClass m ≠ 3) :
    (s.report m master access).hear = ((s.entered m master access).startAction m s.kiln.seq).takeSafeActions := by
  rw [hear_report_lasting s m master access h h0]
  obtain ⟨-, -, -, -, hmask, hcons, hroom⟩ := h
  have htime : (s.countMsg m).time = s.time := by rw [countMsg_eq]
  rw [← entered_of_steps s m master access hroom]
  unfold State.takeMsg
  rw [if_neg (by simp [hmask]), if_neg (by simp [hcons]), if_neg h0, if_neg h3]
  dsimp only
  rw [htime]
  split
  · rw [show ((s.countMsg m).merge m).time = s.time from htime]
  · rw [show ((s.countMsg m).capture m s.time master access false).time = s.time from htime]

/-- Without an action of its kind, a heard message of class C1 or C2 enters the set and nothing else happens. -/
theorem hear_report_idle (s : State) (m : BitVec 64) (master access : Nat) (h : Heard s m) (h0 : msgClass m ≠ 0) (h3 : msgClass m ≠ 3)
    (hready : s.kiln.ready = []) (haction : s.kindAction (msgKind m) = 0) :
    (s.report m master access).hear = s.entered m master access := by
  rw [hear_report_entered s m master access h h0 h3, startAction_none _ _ _ (by rw [entered_kindAction, haction]),
    takeSafeActions_none _ (by rw [entered_ready, hready])]

/-- With an action of its kind, and room for it, the action waits for its timer (R333). -/
theorem hear_report_acting (s : State) (m : BitVec 64) (master access : Nat) (h : Heard s m) (h0 : msgClass m ≠ 0) (h3 : msgClass m ≠ 3)
    (haction : s.kindAction (msgKind m) ≠ 0) (hsafe : s.kiln.safe = false) (hroom : s.kiln.acts.length < 8) (hready : s.kiln.ready = []) :
    (s.report m master access).hear = { s.entered m master access with
      kiln.acts := s.kiln.acts ++ [⟨m, s.kiln.seq, s.kindAction (msgKind m), s.time + s.kindTimer (msgKind m) * 24576⟩] } := by
  rw [hear_report_entered s m master access h h0 h3, startAction_waits s m master access haction hsafe hroom hready]
  exact takeSafeActions_none _ ((entered_ready s m master access).trans hready)

/-- A message of class C3 captured and latched, and the safe state with it (R345, R347). -/
def State.graved (s : State) (m : BitVec 64) (master access : Nat) : State :=
  ({ s.captured m master access with pwr.latch := some (m, s.time % 2 ^ 32) } : State).safeNow

theorem State.graved_pending (s : State) (m : BitVec 64) (a b : Nat) : (s.graved m a b).pending = s.pending := rfl
theorem State.graved_part (s : State) (m : BitVec 64) (a b : Nat) : (s.graved m a b).part = s.part := rfl

/-- A heard message of class C3 that finds set and latch free: captured, latched, and the safe state is entered (R345, R347). -/
theorem hear_report_grave (s : State) (m : BitVec 64) (master access : Nat) (h : Heard s m) (h3 : msgClass m = 3)
    (hsafe : s.kiln.safe = false) (hdiag : s.fw.diag = none) (hfree : s.kiln.cap.valid = false) (hlatch : s.pwr.latch = none) :
    (s.report m master access).hear = s.graved m master access := by
  rw [hear_report_lasting s m master access h (by omega)]
  obtain ⟨-, -, -, -, hmask, hcons, hroom⟩ := h
  have htime : (s.countMsg m).time = s.time := by rw [countMsg_eq]
  have hentered := entered_of_steps s m master access hroom
  rw [entered_free m master access hfree] at hentered
  simp only [hfree, Bool.false_eq_true, if_false] at hentered
  unfold State.takeMsg State.takeC3
  rw [if_neg (by simp [hmask]), if_neg (by simp [hcons]), if_neg (by omega), if_pos h3]
  simp only [hfree, Bool.false_eq_true, if_false]
  rw [htime, show ((s.countMsg m).capture m s.time master access false).time = s.time from htime, hentered,
    setLatch_free (s := s.captured m master access) m hlatch]
  unfold State.enterSafe State.endDiag
  rw [if_neg (by simp [State.captured, State.noted, hsafe])]
  dsimp only [State.captured, State.noted]
  rw [hdiag]
  rfl

/-- A heard transient message within the limit of its kind, or of a kind whose rate has been told, counts in its window (R336). -/
theorem hear_report_counted (s : State) (m : BitVec 64) (master access : Nat) (h : Heard s m) (h0 : msgClass m = 0)
    (hlimit : s.kindLimit (msgKind m) ≠ 0)
    (hquiet : sget (fun _ => 0) s.kiln.c0Win (msgKind m) + 1 ≤ s.kindLimit (msgKind m) ∨ msgKind m ∈ s.kiln.c0Told) :
    (s.report m master access).hear = { s.noted m master access 0 with
      kiln.c0Win := sput (fun _ => 0) s.kiln.c0Win (msgKind m) (sget (fun _ => 0) s.kiln.c0Win (msgKind m) + 1) } := by
  obtain ⟨hready, hraised, hkind, hlevel, hmask, hcons, hroom⟩ := h
  have hmask' : (s.noted m master access 0).masked m = false := hmask
  have hcons' : (s.noted m master access 0).consequential m = false := hcons
  have hlimit' := kindLimit_noted s m master access 0 _ (msgKind_lt m)
  rw [hear_report s m master access hready hraised hkind hlevel, takeMsg_c0 s m master access hmask hcons h0 hroom]
  unfold State.c0Rate
  dsimp only
  rw [if_neg (by simp [h0, hlimit', hlimit, hmask', hcons'])]
  exact if_pos (hquiet.imp_left fun h => h.trans_eq hlimit'.symm)

end Sys2Proof.Machine
end

section
/-! KILN_MESSAGE (R18, R312 to R347): messages by class and by the unit that they contain, and messages that are not heard. -/
namespace Sys2Proof.Machine

/-! ### Containment -/

/-- A message whose kind contains no unit: the Kiln alone acts on it. -/
def ContainsNothing (m : BitVec 64) : Prop :=
  msgKind m ∉ [kVpeCheck, kClusterMixer, kMemUncorrectable, kSwitchHalf, kRegionQuarantine, kDieLink, kCpuCheck, kCopyCompare, kCopperCore]

theorem copyMsg_of_kind {m : BitVec 64} (h7 : msgKind m ≠ kCopyCompare) (h8 : msgKind m ≠ kCopperCore) : copyMsg m = false := by
  unfold copyMsg
  simp [h7, h8]

theorem asRaised_of_not_copy (s : State) {m : BitVec 64} (h : copyMsg m = false) : s.asRaised m = m := by
  unfold State.asRaised
  exact if_pos (by simp [h])

theorem contain_nothing (s : State) {m : BitVec 64} (h : ContainsNothing m) : s.contain m = s ∧ s.asRaised m = m := by
  simp only [ContainsNothing, List.mem_cons, List.not_mem_nil, or_false, not_or] at h
  obtain ⟨hvpe, hmixer, hmem, hswitch, hregion, hlink, hcpu, hcopy, hcopper⟩ := h
  have hcopies := copyMsg_of_kind hcopy hcopper
  refine ⟨?_, asRaised_of_not_copy s hcopies⟩
  unfold State.contain
  simp only [hvpe, hmixer, hmem, hswitch, hregion, hlink, hcpu, hcopies, false_and, or_self, if_false, Bool.false_eq_true]

/-- A lane of the die link out of use. -/
def State.laneOut (s : State) (lane : Nat) : State := { s with pwr.lanes := s.pwr.lanes.set lane false }

theorem Heard.report_laneOut {s : State} {m : BitVec 64} (h : Heard s m) (master access lane : Nat) :
    (s.report m master access).laneOut lane = (s.laneOut lane).report m master access := by
  have hout : Heard (s.laneOut lane) m := h
  rw [h.report_eq, hout.report_eq]
  rfl

/-- The first copy that is disabled. -/
theorem disable_first {s : State} (i : Nat) (h : s.mash.disabled = []) : s.disable i = { s with mash.disabled := [i] } := by
  unfold State.disable
  rw [h]
  rfl

theorem Heard.report_disable {s : State} {m : BitVec 64} (h : Heard s m) (master access i : Nat) :
    (s.report m master access).disable i = (s.disable i).report m master access := by
  have hout : Heard (s.disable i) m := by
    unfold State.disable
    split <;> exact h
  rw [h.report_eq, hout.report_eq]
  unfold State.disable
  dsimp only
  split <;> rfl

/-- A fault of the die link takes its lane out of use (R312). -/
theorem contain_dieLink (s : State) {m : BitVec 64} (hkind : msgKind m = kDieLink) (hlevel : msgLevel m = 2) (hclass : msgClass m = 1) :
    s.contain m = s.laneOut (msgDetail m % 2) := by
  unfold State.contain State.laneOut
  simp [hkind, hlevel, hclass, kDieLink, kClusterMixer, kVpeCheck, kMemUncorrectable, kSwitchHalf, kRegionQuarantine]

/-- A message of a unit built as two copies is contained as one (R312, R313). -/
theorem contain_copyCompare (s : State) {m : BitVec 64} (hkind : msgKind m = kCopyCompare) (hcopy : copyMsg m = true) :
    s.contain m = s.containCopy m := by
  unfold State.contain
  simp [hkind, hcopy, kCopyCompare, kDieLink, kClusterMixer, kVpeCheck, kMemUncorrectable, kSwitchHalf, kRegionQuarantine, kCpuCheck]

theorem copyMsg_copyCompare {m : BitVec 64} (hkind : msgKind m = kCopyCompare) (hlevel : msgLevel m = 5) (hindex : 12 ≤ msgIndex m ∧ msgIndex m < 32) :
    copyMsg m = true := by
  unfold copyMsg
  simp [hkind, hlevel, hindex]

/-! ### The row -/

/-- KILN_MESSAGE from READY on, outside a reset of its block: the Kiln's work, and the containment of its unit (R319). -/
theorem kilnMessage_ready {s : State} {m : BitVec 64} (master access : Nat) (hready : s.isReady = true) (hmask : s.masked m = false) :
    exec (.kilnMessage m master access false) s = s.ends ((s.report (s.asRaised m) master access).contain (s.asRaised m)) := by
  rw [exec_kilnMessage]
  unfold execKilnMessage State.kilnMessage
  rw [if_neg (by simp [hready, hmask]), if_neg (by simp)]

theorem kilnMessage_plain {s : State} {m : BitVec 64} (master access : Nat) (hready : s.isReady = true) (hmask : s.masked m = false)
    (hplain : ContainsNothing m) : exec (.kilnMessage m master access false) s = s.ends (s.report m master access) := by
  rw [kilnMessage_ready master access hready hmask, (contain_nothing s hplain).2, (contain_nothing _ hplain).1]

theorem Heard.exec_kilnMessage {s : State} {m : BitVec 64} (h : Heard s m) (master access : Nat) :
    exec (.kilnMessage m master access false) s = s.ends ((s.report (s.asRaised m) master access).contain (s.asRaised m)) := by
  obtain ⟨hready, -, -, -, hmask, -, -⟩ := h
  exact kilnMessage_ready master access hready hmask

theorem Heard.exec_kilnMessage_plain {s : State} {m : BitVec 64} (h : Heard s m) (hplain : ContainsNothing m) (master access : Nat) :
    exec (.kilnMessage m master access false) s = s.ends (s.report m master access) := by
  obtain ⟨hready, -, -, -, hmask, -, -⟩ := h
  exact kilnMessage_plain master access hready hmask hplain

/-- KILN_MESSAGE before READY, or of a block under reset, is the bare report (R340, R345). -/
theorem exec_kilnMessage_unheard (s : State) (m : BitVec 64) (master access : Nat) (h : s.isReady = false ∨ s.masked m = true) :
    exec (.kilnMessage m master access false) s = s.ends (s.report m master access) := by
  rw [exec_kilnMessage]
  unfold execKilnMessage State.kilnMessage
  rw [if_pos (by rcases h with h | h <;> simp [h])]

/-! ### Messages by class (R328 to R336, R345) -/

theorem kilnMessage_free (s : State) (m : BitVec 64) (master access : Nat) (h : Heard s m) (hplain : ContainsNothing m)
    (hclass : msgClass m = 1 ∨ msgClass m = 2) (hfree : FreeSet s m) :
    exec (.kilnMessage m master access false) s = .next (s.captured m master access) := by
  rw [h.exec_kilnMessage_plain hplain]
  exact ends_report_captured master access h hclass hfree rfl rfl

theorem kilnMessage_merged (s : State) (m : BitVec 64) (master access : Nat) (h : Heard s m) (hplain : ContainsNothing m)
    (hclass : msgClass m = 1 ∨ msgClass m = 2) (hheld : s.kiln.cap.valid = true) (hready : s.kiln.ready = [])
    (haction : s.kindAction (msgKind m) = 0) :
    exec (.kilnMessage m master access false) s = .next (s.merged m master access) := by
  rw [h.exec_kilnMessage_plain hplain]
  refine ends_of_hear ?_ rfl rfl
  rw [hear_report_idle s m master access h (by omega) (by omega) hready haction, entered_held m master access hheld]

theorem kilnMessage_acting (s : State) (m : BitVec 64) (master access : Nat) (h : Heard s m) (hplain : ContainsNothing m)
    (hclass : msgClass m = 1 ∨ msgClass m = 2) (haction : s.kindAction (msgKind m) ≠ 0) (hsafe : s.kiln.safe = false)
    (hroom : s.kiln.acts.length < 8 ∧ s.kiln.ready = []) :
    exec (.kilnMessage m master access false) s = .next { s.entered m master access with
      kiln.acts := s.kiln.acts ++ [⟨m, s.kiln.seq, s.kindAction (msgKind m), s.time + s.kindTimer (msgKind m) * 24576⟩] } := by
  obtain ⟨hacts, hready⟩ := hroom
  rw [h.exec_kilnMessage_plain hplain]
  exact ends_of_hear (hear_report_acting s m master access h (by omega) (by omega) haction hsafe hacts hready)
    (entered_pending s m master access) (entered_part s m master access)

/-! ### Units that a message contains (R18, R312, R316) -/

theorem kilnMessage_dieLink (s : State) (m : BitVec 64) (master access : Nat) (h : Heard s m) (hkind : msgKind m = kDieLink)
    (hlevel : msgLevel m = 2) (hclass : msgClass m = 1) (hfree : FreeSet s m) :
    exec (.kilnMessage m master access false) s = .next ((s.laneOut (msgDetail m % 2)).captured m master access) := by
  have hcopy : copyMsg m = false := copyMsg_of_kind (by rw [hkind]; decide) (by rw [hkind]; decide)
  rw [h.exec_kilnMessage, asRaised_of_not_copy s hcopy, contain_dieLink _ hkind hlevel hclass, h.report_laneOut]
  exact ends_report_captured (u := s.laneOut _) master access h (.inl hclass) hfree rfl rfl

/-- A mismatch that names its copy, of a unit whose other copy still serves, disables that copy (R312). -/
theorem kilnMessage_copyDisabled (s : State) (m : BitVec 64) (master access : Nat) (h : Heard s m) (hkind : msgKind m = kCopyCompare)
    (hlevel : msgLevel m = 5) (hfrom : 14 ≤ msgIndex m) (hto : msgIndex m < 28) (hnamed : msgDetail m % 2 = 1) (hclass : msgClass m = 1)
    (hnone : s.mash.disabled = []) (hfree : FreeSet s m) :
    exec (.kilnMessage m master access false) s = .next ((s.disable (msgIndex m)).captured m master access) := by
  have hcopy : copyMsg m = true := copyMsg_copyCompare hkind hlevel (by omega)
  have hraised : s.asRaised m = m := by
    unfold State.asRaised
    simp [hcopy, hnone, hclass]
  have hcontain : (s.report m master access).containCopy m = (s.report m master access).disable (msgIndex m) := by
    unfold State.containCopy
    rw [if_pos hnamed, if_neg (by omega)]
  have hout : Heard (s.disable (msgIndex m)) m := by rwa [disable_first _ hnone]
  have hset : FreeSet (s.disable (msgIndex m)) m := by rwa [disable_first _ hnone]
  rw [h.exec_kilnMessage, hraised, contain_copyCompare _ hkind hcopy, hcontain, h.report_disable]
  refine ends_report_captured master access hout (.inl hclass) hset ?_ ?_ <;> rw [disable_first _ hnone]

/-- The message that a fault in the last copy of a unit becomes (R316, R318). -/
def State.lastCopy (s : State) (m : BitVec 64) : BitVec 64 := mkMsg 5 (msgIndex m) kLastCopy 3 (msgKind m) (blockOf s.time)

theorem lastCopy_containsNothing (s : State) (m : BitVec 64) : ContainsNothing (s.lastCopy m) := by
  unfold ContainsNothing State.lastCopy
  rw [msgKind_mkMsg]
  decide

theorem lastCopy_class (s : State) (m : BitVec 64) : msgClass (s.lastCopy m) = 3 := by
  unfold State.lastCopy
  rw [msgClass_mkMsg]

theorem asRaised_lastCopy (s : State) (m : BitVec 64) (hcopy : copyMsg m = true)
    (hlast : s.mash.disabled.contains (otherCopy (msgIndex m)) = true) : s.asRaised m = s.lastCopy m := by
  unfold State.asRaised State.lastCopy
  dsimp only
  rw [if_neg (by simp [hcopy]), if_pos hlast]

theorem kilnMessage_lastCopy (s : State) (m : BitVec 64) (master access : Nat) (h : Heard s m) (hkind : msgKind m = kCopyCompare)
    (hlevel : msgLevel m = 5) (hindex : 12 ≤ msgIndex m ∧ msgIndex m < 32)
    (hlast : s.mash.disabled.contains (otherCopy (msgIndex m)) = true) (hsafe : s.kiln.safe = false) (hdiag : s.fw.diag = none)
    (hfree : s.kiln.cap.valid = false) (hlatch : s.pwr.latch = none) (hheard : Heard s (s.lastCopy m)) :
    exec (.kilnMessage m master access false) s = .next (s.graved (s.lastCopy m) master access) := by
  rw [h.exec_kilnMessage, asRaised_lastCopy s m (copyMsg_copyCompare hkind hlevel hindex) hlast,
    (contain_nothing _ (lastCopy_containsNothing s m)).1]
  exact ends_of_hear (hear_report_grave s _ master access hheard (lastCopy_class s m) hsafe hdiag hfree hlatch)
    (s.graved_pending ..) (s.graved_part ..)

theorem kilnMessages : Says.KilnMessages := by
  intro s m master access h
  refine ⟨fun hplain hclass => ⟨?_, ?_, ?_, ?_⟩, fun hplain h0 => ⟨fun hlimit => ?_, fun hlimit hquiet => ?_⟩,
    fun hplain h3 hsafe hdiag hfree hlatch => ?_, kilnMessage_dieLink s m master access h, ?_, ?_⟩
  · exact kilnMessage_free s m master access h hplain hclass
  · exact kilnMessage_merged s m master access h hplain hclass
  · intro hfree haction hsafe hroom
    rw [← entered_free m master access hfree]
    exact kilnMessage_acting s m master access h hplain hclass haction hsafe hroom
  · intro hheld haction hsafe hroom
    refine (kilnMessage_acting s m master access h hplain hclass haction hsafe hroom).trans ?_
    rw [entered_held m master access hheld]
    rfl
  · rw [h.exec_kilnMessage_plain hplain]
    exact ends_report_noted master access h h0 hlimit rfl rfl
  · rw [h.exec_kilnMessage_plain hplain]
    exact ends_of_hear (hear_report_counted s m master access h h0 hlimit hquiet) rfl rfl
  · rw [h.exec_kilnMessage_plain hplain]
    exact ends_of_hear (hear_report_grave s m master access h h3 hsafe hdiag hfree hlatch) (s.graved_pending ..) (s.graved_part ..)
  · intro hkind hlevel hfrom hto hnamed hclass hnone hfree
    rw [← disable_first _ hnone]
    exact kilnMessage_copyDisabled s m master access h hkind hlevel hfrom hto hnamed hclass hnone hfree
  · intro last hkind hlevel hfrom hto hlast hsafe hdiag hfree hlatch hheard
    exact kilnMessage_lastCopy s m master access h hkind hlevel ⟨hfrom, hto⟩ hlast hsafe hdiag hfree hlatch hheard

/-! ### Messages that are not heard (R319, R322, R340, R341, R345) -/

/-- A message of a block under reset, unless of class C3, changes nothing (R340). -/
theorem kilnMessage_masked (s : State) (m : BitVec 64) (master access : Nat) (hquiet : s.kiln.raised = []) (hmask : s.masked m = true)
    (h3 : msgClass m ≠ 3) : exec (.kilnMessage m master access false) s = .next s := by
  rw [exec_kilnMessage_unheard s m master access (.inr hmask)]
  refine ends_of_hear ?_ rfl rfl
  by_cases hexists : kindReserved (msgKind m) = false ∧ msgLevel m ≤ 5
  · obtain ⟨hkind, hlevel⟩ := hexists
    by_cases hready : s.isReady = true
    · have htaken : s.takeMsg m master access = s := if_pos hmask
      rw [hear_report s m master access hready hquiet hkind hlevel, htaken]
      exact c0Rate_uncounted master access (.inr (.inl hmask))
    · rw [report_notReady s m master access (by simpa using hready) hkind hlevel, if_neg (by simp [h3])]
      exact hear_nil s hquiet
  · have hnone : s.report m master access = s := by
      unfold State.report
      refine if_pos ?_
      simp only [Bool.or_eq_true, decide_eq_true_eq]
      rw [not_and_or, Bool.not_eq_false, Nat.not_le] at hexists
      exact hexists
    rw [hnone]
    exact hear_nil s hquiet

/-- A transient message for which its detector has no room is dropped and counted (R322). -/
theorem kilnMessage_full (s : State) (m : BitVec 64) (master access : Nat) (hquiet : s.kiln.raised = []) (hready : s.isReady = true)
    (hmask : s.masked m = false) (h0 : msgClass m = 0) :
    exec (.kilnMessage m master access true) s = .next (s.countReg bKILN 4 16 16 1) := by
  rw [exec_kilnMessage]
  unfold execKilnMessage State.kilnMessage
  rw [if_neg (by simp [hready, hmask]), if_pos (by simp [h0])]
  exact ends_quiet s (s.countReg bKILN 4 16 16 1) hquiet rfl rfl

/-- Inside a consequential window a message is counted and logged, and a held set counts it; nothing else (R341). -/
theorem takeMsg_consequential (s : State) (m : BitVec 64) (master access : Nat) (hmask : s.masked m = false)
    (hcons : s.consequential m = true) (hroom : s.kiln.log.length < 1024) :
    s.takeMsg m master access = { s.noted m master access 4 with
      kiln.cap.conseq := if s.kiln.cap.valid then min (s.kiln.cap.conseq + 1) 255 else s.kiln.cap.conseq } := by
  have hlog : (s.countMsg m).kiln.log.length < 1024 := by rwa [countMsg_kiln]
  unfold State.takeMsg
  rw [if_neg (by simp [hmask]), if_pos hcons, logRecord_room _ _ _ _ _ _ hlog, countMsg_eq]
  rfl

theorem kilnMessage_consequential (s : State) (m : BitVec 64) (master access : Nat) (hquiet : s.kiln.raised = [])
    (hready : s.isReady = true) (hkind : kindReserved (msgKind m) = false) (hlevel : msgLevel m ≤ 5) (hmask : s.masked m = false)
    (hcons : s.consequential m = true) (hroom : s.kiln.log.length < 1024) (hplain : ContainsNothing m) :
    exec (.kilnMessage m master access false) s = .next { s.noted m master access 4 with
      kiln.cap.conseq := if s.kiln.cap.valid then min (s.kiln.cap.conseq + 1) 255 else s.kiln.cap.conseq } := by
  rw [kilnMessage_plain master access hready hmask hplain]
  refine ends_of_hear ?_ rfl rfl
  rw [hear_report s m master access hready hquiet hkind hlevel, takeMsg_consequential s m master access hmask hcons hroom]
  exact c0Rate_uncounted master access (.inr (.inr hcons))

theorem kilnUnheard : Says.KilnUnheard := by
  intro s m master access hquiet
  refine ⟨kilnMessage_masked s m master access hquiet, kilnMessage_full s m master access hquiet, fun hkind hready => ?_,
    fun hready hkind hlevel => ?_, fun hready hkind hlevel hmask hcons hroom hplain =>
      kilnMessage_consequential s m master access hquiet hready hkind hlevel hmask hcons hroom hplain⟩
  · rw [exec_kilnMessage_unheard s m master access (.inl hready), report_reserved s m master access hkind]
    exact ends_quiet s s hquiet rfl rfl
  · rw [exec_kilnMessage_unheard s m master access (.inl hready), report_notReady s m master access hready hkind hlevel]
    refine ⟨fun hother => ?_, fun h3 hdie hanalog hfree => ?_, fun hheld => ?_⟩
    · rw [if_neg hother]
      exact ends_quiet s s hquiet rfl rfl
    · rw [if_pos ⟨h3, hdie, hanalog⟩, setLatch_free m hfree]
      exact ends_quiet s _ hquiet rfl rfl
    · rw [setLatch_held m hheld, ite_self]
      exact ends_quiet s s hquiet rfl rfl

/-- Settles O53: a heard message by its class and by the unit that it contains, and each way in which a message is not heard. -/
theorem kilnTakes : Obligations.KilnTakes := ⟨kilnMessages, kilnUnheard⟩

end Sys2Proof.Machine
end

section
/-! Atomic operations on shared scratch (R579, R580, R582, R583). -/
namespace Sys2Proof.Machine

/-! ### An operation on a bank that is on -/

/-- The operation is issued: the device time runs, and its address is a word's of shared scratch (R579). -/
def IssuesAtomic (s : State) (a : Nat) : Prop :=
  s.clocked = true ∧ s.pwr.phase ≠ .standby ∧ a % 4 = 0 ∧ a / 4 < 32768

theorem atomic_on {s : State} {a : Nat} (h : IssuesAtomic s a) (swap : Bool) (v : Word) (bad : Bool)
    (hon : s.bank (scratchBank (a / 4)) = .on) : s.atomic a swap v bad = s.runAtomic ⟨a / 4, swap, v, bad⟩ := by
  obtain ⟨hclocked, hphase, haligned, hword⟩ := h
  unfold State.atomic
  dsimp only
  rw [if_neg (by simp [hclocked, hphase, haligned]; omega), if_pos hon]

theorem atomic_waits {s : State} {a : Nat} (h : IssuesAtomic s a) (swap : Bool) (v : Word) (bad : Bool)
    (hoff : s.bank (scratchBank (a / 4)) ≠ .on) :
    s.atomic a swap v bad = { s.accessBank (scratchBank (a / 4)) with mem.stalled := s.mem.stalled ++ [⟨a / 4, swap, v, bad⟩] } := by
  obtain ⟨hclocked, hphase, haligned, hword⟩ := h
  unfold State.atomic
  dsimp only
  rw [if_neg (by simp [hclocked, hphase, haligned]; omega), if_neg hoff]

/-- The word an operation writes (R579). -/
def StalledOp.result (s : State) (o : StalledOp) : Word := if o.swap then o.value else s.scratchWord o.word + o.value

theorem runAtomic_reads {s : State} {o : StalledOp} (hgood : o.bad = false) (hread : s.mem.badScratch.contains o.word = false) :
    s.runAtomic o = { s with
      mem.scratch := sput (fun _ => 0) s.mem.scratch o.word (o.result s)
      mem.lastOld := s.scratchWord o.word } := by
  unfold State.runAtomic
  exact if_neg (by simp only [hgood, hread]; decide)

theorem runAtomic_fails {s : State} {o : StalledOp} (hbad : o.bad = true ∨ s.mem.badScratch.contains o.word = true) :
    s.runAtomic o = s.report (mkMsg 2 0 kMemUncorrectable 1 (13 * 256 + o.word / 8192) o.word) 3 1 := by
  unfold State.runAtomic
  exact if_pos (by rw [Bool.or_eq_true]; exact hbad)

/-- An operation whose read is correct answers the old word and writes its result, and no other word (R579, R580). -/
theorem runAtomic_lands {s : State} {o : StalledOp} (hquiet : s.kiln.raised = []) (hgood : o.bad = false)
    (hread : s.mem.badScratch.contains o.word = false) :
    ∃ t, s.ends (s.runAtomic o) = .next t ∧ t.scratchWord o.word = o.result s ∧ t.mem.lastOld = s.scratchWord o.word
      ∧ (∀ k, k ≠ o.word → t.scratchWord k = s.scratchWord k)
      ∧ t = { s with mem.scratch := t.mem.scratch, mem.lastOld := s.scratchWord o.word } := by
  rw [runAtomic_reads hgood hread]
  exact ⟨_, ends_quiet s _ hquiet rfl rfl, sget_sput_same .., rfl, fun k hk => sget_sput_ne _ _ _ _ _ hk, rfl⟩

/-- An operation whose read is uncorrectable writes nothing and is reported (R325, R580). -/
theorem runAtomic_reported {s : State} {o : StalledOp} (hbad : o.bad = true ∨ s.mem.badScratch.contains o.word = true)
    (hheard : Heard s (mkMsg 2 0 kMemUncorrectable 1 (13 * 256 + o.word / 8192) o.word))
    (hfree : FreeSet s (mkMsg 2 0 kMemUncorrectable 1 (13 * 256 + o.word / 8192) o.word)) :
    s.ends (s.runAtomic o) = .next (s.captured (mkMsg 2 0 kMemUncorrectable 1 (13 * 256 + o.word / 8192) o.word) 3 1) := by
  have hclass : msgClass (mkMsg 2 0 kMemUncorrectable 1 (13 * 256 + o.word / 8192) o.word) = 1 := msgClass_mkMsg ..
  rw [runAtomic_fails hbad]
  exact ends_report_captured 3 1 hheard (.inl hclass) hfree rfl rfl

/-! ### An operation on a bank that is not on -/

/-- An access calls the bank on and counts, and changes nothing else (R582, R583). -/
theorem accessBank_eq (s : State) (b : Nat) :
    ∃ regs, s.accessBank b = { s with regs := regs, mem.banks := s.mem.banks.set b (calledOn (s.bank b)) } := by
  have hwake : ∀ p, s.bank b = p → s.wakeBank b = { s with mem.banks := s.mem.banks.set b (calledOn p) } := by
    rintro _ rfl
    exact wakeBank_eq s b
  have hsame : ∀ p, s.bank b = p → calledOn p = p → s = { s with mem.banks := s.mem.banks.set b (calledOn p) } := by
    intro p hp hcalled
    rw [hcalled, ← hp, State.bank, set_getD_self]
  unfold State.accessBank
  generalize hp : s.bank b = p
  cases p
  case retention => exact ⟨_, congrArg (fun t : State => t.countReg bMEMCTL 0x10 16 16 1) (hwake _ hp)⟩
  case off => exact ⟨_, congrArg (fun t : State => t.countReg bMEMCTL 0x10 16 16 1) (hwake _ hp)⟩
  all_goals exact ⟨s.regs, hsame _ hp rfl⟩

/-- A bank outside the list of banks reads as on. -/
theorem lt_length_of_bank_ne_on {s : State} {b : Nat} (h : s.bank b ≠ .on) : b < s.mem.banks.length := by
  refine Nat.lt_of_not_le fun hle => h ?_
  unfold State.bank
  rw [List.getD_eq_default _ _ hle]

theorem calledOn_ne (p : BankPower) : calledOn p ≠ .off ∧ calledOn p ≠ .retention := by
  cases p <;> decide

/-- The bank is called on, and the operation waits for it (R582, R583). -/
theorem atomic_stalls {s : State} {a : Nat} (h : IssuesAtomic s a) (hquiet : s.kiln.raised = []) (swap : Bool) (v : Word) (bad : Bool)
    (hoff : s.bank (scratchBank (a / 4)) ≠ .on) :
    ∃ t, s.ends (s.atomic a swap v bad) = .next t ∧ t.mem.scratch = s.mem.scratch ∧ t.mem.lastOld = s.mem.lastOld
      ∧ t.mem.stalled = s.mem.stalled ++ [⟨a / 4, swap, v, bad⟩]
      ∧ t.bank (scratchBank (a / 4)) ≠ .off ∧ t.bank (scratchBank (a / 4)) ≠ .retention := by
  obtain ⟨regs, hcalled⟩ := accessBank_eq s (scratchBank (a / 4))
  have hbank : ∀ p, (s.mem.banks.set (scratchBank (a / 4)) p).getD (scratchBank (a / 4)) .on = p := by
    intro p
    simp [List.getD_eq_getElem?_getD, List.getElem?_set_self (lt_length_of_bank_ne_on hoff)]
  rw [atomic_waits h swap v bad hoff, hcalled]
  refine ⟨_, ends_quiet s _ hquiet rfl rfl, rfl, rfl, rfl, ?_⟩
  show (s.mem.banks.set _ _).getD _ _ ≠ _ ∧ (s.mem.banks.set _ _).getD _ _ ≠ _
  rw [hbank]
  exact calledOn_ne _

theorem atomicOperations : Says.AtomicOperations := by
  intro s a v bad w b old m lands hclocked hphase haligned hword hquiet
  have hissues : IssuesAtomic s a := ⟨hclocked, hphase, haligned, hword⟩
  refine ⟨fun hon hgood hread => ?_, fun hon hbad hheard hfree => ?_, fun hoff => ?_⟩
  · simp only [lands, exec_atomicAdd, exec_atomicSwap, execAtomicAdd, execAtomicSwap, atomic_on hissues _ _ _ hon]
    exact ⟨runAtomic_lands (o := ⟨w, false, v, bad⟩) hquiet hgood hread, runAtomic_lands (o := ⟨w, true, v, bad⟩) hquiet hgood hread⟩
  · simp only [exec_atomicAdd, exec_atomicSwap, execAtomicAdd, execAtomicSwap, atomic_on hissues _ _ _ hon]
    exact ⟨runAtomic_reported (o := ⟨w, false, v, bad⟩) hbad hheard hfree, runAtomic_reported (o := ⟨w, true, v, bad⟩) hbad hheard hfree⟩
  · exact atomic_stalls hissues hquiet false v bad hoff

end Sys2Proof.Machine
end

section
/-! MEMORY_SCRUB (R22, R302, R325, R577): a good word, one corrected bit, and what an uncorrectable word leads to, memory by memory. -/
namespace Sys2Proof.Machine

/-! ### The messages of the scrubber (R325) -/

/-- The scrubber's message of a word, of a kind and class. -/
def scrubMsg (mem bank word kind cls : Nat) : BitVec 64 :=
  mkMsg (memPlace mem bank word).1 (memPlace mem bank word).2.1 kind cls (mem * 256 + bank) word

@[simp] theorem msgClass_scrubMsg (mem bank word kind cls : Nat) : msgClass (scrubMsg mem bank word kind cls) = cls % 4 := msgClass_mkMsg ..

/-- An uncorrectable word found, of the class of its memory. -/
def lostMsg (mem bank word : Nat) : BitVec 64 := scrubMsg mem bank word kMemUncorrectable (memPlace mem bank word).2.2

theorem msgClass_lostMsg (mem bank word : Nat) : msgClass (lostMsg mem bank word) = (memPlace mem bank word).2.2 % 4 := msgClass_mkMsg ..

/-! ### What is known of the words of the doubly written memories -/

/-- A word known to be good in its own bank. -/
def State.pairCleared (s : State) (mem bank word : Nat) : State :=
  { s with mem.pairBad := s.mem.pairBad.filter (· != (mem, bank, word)) }

/-- A word known to be uncorrectable in its own bank. -/
def State.pairFound (s : State) (mem bank word : Nat) : State :=
  { s.pairCleared mem bank word with mem.pairBad := (s.pairCleared mem bank word).mem.pairBad ++ [(mem, bank, word)] }

/-! ### The row, by what the scrubber reads -/

theorem memoryScrub_unpowered {s : State} {mem bank : Nat} (word errors : Nat) (h : s.memPowered mem bank = false) :
    s.memoryScrub mem bank word errors = s := by
  unfold State.memoryScrub
  exact if_pos (by simp [h])

section
variable {s : State} {mem bank : Nat} (word : Nat) (hpower : s.memPowered mem bank = true)
include hpower

theorem memoryScrub_good : s.memoryScrub mem bank word 0 = s.pairCleared mem bank word := by
  unfold State.memoryScrub
  rw [if_neg (by simp [hpower])]
  rfl

theorem memoryScrub_corrected :
    s.memoryScrub mem bank word 1 = (s.pairCleared mem bank word).report (scrubMsg mem bank word kMemCorrected 0) 0 1 := by
  unfold State.memoryScrub
  rw [if_neg (by simp [hpower])]
  dsimp only
  rw [if_neg (by decide), if_pos rfl]
  rfl

theorem memoryScrub_paired {errors : Nat} (herrors : 2 ≤ errors) (hmem : mem = 6 ∨ mem = 8) :
    s.memoryScrub mem bank word errors =
      (s.pairFound mem bank word).report (scrubMsg mem bank word kMemUncorrectable (s.pairClass mem bank word)) 0 1 := by
  have hpaired : pairedMem mem = true := by rcases hmem with rfl | rfl <;> rfl
  unfold State.memoryScrub
  rw [if_neg (by simp [hpower])]
  dsimp only
  rw [if_neg (by omega), if_neg (by omega), if_neg (by omega), if_pos hpaired]
  rfl

theorem memoryScrub_lost {errors : Nat} (herrors : 2 ≤ errors) (hmem : mem ∉ [6, 8, 12]) :
    s.memoryScrub mem bank word errors = (s.report (lostMsg mem bank word) 0 1).scrubbed mem bank word := by
  simp only [List.mem_cons, List.not_mem_nil, or_false, not_or] at hmem
  obtain ⟨h6, h8, h12⟩ := hmem
  unfold State.memoryScrub
  rw [if_neg (by simp [hpower])]
  dsimp only
  rw [if_neg (by omega), if_neg (by omega), if_neg h12, if_neg (by simp [pairedMem, h6, h8])]
  rfl

end

/-! ### What an uncorrectable word leads to -/

/-- Where no region loses its power, the marks of an uncorrectable word lie in voices, memories and records. -/
theorem scrubbed_keeps {s : State} {mem : Nat} (bank word : Nat) (hregion : mem = 2 → s.part.variant.regionCount ≠ 1) :
    ∃ mash mem' log, log.length = s.kiln.log.length
      ∧ s.scrubbed mem bank word = { s with mash := mash, mem := mem', kiln.log := log } := by
  unfold State.scrubbed
  split
  case h_2 => exact ⟨s.mash, s.mem, s.kiln.log, rfl, if_neg (hregion rfl)⟩
  case h_4 => exact ⟨s.mash, s.mem, _, List.length_modify .., rfl⟩
  all_goals exact ⟨_, _, s.kiln.log, rfl, rfl⟩

theorem scrubbed_pending {s : State} {mem : Nat} (bank word : Nat) (hregion : mem = 2 → s.part.variant.regionCount ≠ 1) :
    (s.scrubbed mem bank word).pending = s.pending ∧ (s.scrubbed mem bank word).part = s.part := by
  obtain ⟨mash, mem', log, -, hmarks⟩ := scrubbed_keeps bank word hregion
  rw [hmarks]
  exact ⟨rfl, rfl⟩

theorem Heard.scrubbed {s : State} {mem : Nat} {m : BitVec 64} (h : Heard s m) (bank word : Nat)
    (hregion : mem = 2 → s.part.variant.regionCount ≠ 1) : Heard (s.scrubbed mem bank word) m := by
  obtain ⟨mash, mem', log, hlength, hmarks⟩ := scrubbed_keeps bank word hregion
  obtain ⟨hready, hquiet, hkind, hlevel, hmask, hcons, hroom⟩ := h
  rw [hmarks]
  exact ⟨hready, hquiet, hkind, hlevel, hmask, hcons, hlength.trans_lt hroom⟩

/-- The marks of an uncorrectable word and its message come in either order. -/
theorem Heard.report_scrubbed {s : State} {mem : Nat} {m : BitVec 64} (h : Heard s m) (bank word a b : Nat)
    (hregion : mem = 2 → s.part.variant.regionCount ≠ 1) :
    (s.report m a b).scrubbed mem bank word = (s.scrubbed mem bank word).report m a b := by
  rw [h.report_eq, (h.scrubbed bank word hregion).report_eq]
  unfold State.scrubbed
  split
  case h_2 => simp only [if_neg (hregion rfl)]
  all_goals rfl

theorem scrubbed_other {mem : Nat} (s : State) (bank word : Nat) (hmem : mem ∉ [1, 2, 13, 15]) : s.scrubbed mem bank word = s := by
  unfold State.scrubbed
  split
  case h_5 => rfl
  all_goals exact absurd (by decide) hmem

theorem scrubbed_wavetable (s : State) (bank word : Nat) (h : s.part.variant.regionCount ≠ 1) : s.scrubbed 2 bank word = s := if_neg h

/-- The checkpoint entry that holds the word is without cover (R302). -/
theorem scrubbed_checkpoint (s : State) (bank : Nat) {word : Nat} (h : word / 96 < 1024) :
    s.scrubbed 1 bank word = { s with mash.voices := s.mash.voices.map fun (e : Nat × Voice) =>
      if e.1 = 1024 * bank + word / 96 then (e.1, { e.2 with ckptBad := true }) else e } := by
  simp only [State.scrubbed, h, and_true]

theorem scrubbed_scratch (s : State) (bank word : Nat) :
    s.scrubbed 13 bank word = { s with mem.badScratch := s.mem.badScratch.filter (· != word) ++ [word] } := rfl

theorem scrubbed_record (s : State) (bank word : Nat) :
    s.scrubbed 15 bank word = { s with kiln.log := s.kiln.log.modify (word / 4) fun r => { r with bad := true } } := rfl

/-- An uncorrectable word is transient but in the wavetables, the firmware's memory, shared scratch and the rings (R325). -/
theorem memPlace_class (mem bank word : Nat) : (memPlace mem bank word).2.2 = if mem ∈ [2, 12, 13, 14] then 1 else 0 := by
  unfold memPlace
  split
  case h_12 => exact (if_neg (by simp only [List.mem_cons, List.not_mem_nil, or_false]; tauto)).symm
  all_goals rfl

/-! ### The ends of the row -/

/-- An uncorrectable word whose message is transient: the message is noted on top of the word's marks. -/
theorem exec_memoryScrub_noted {s : State} {mem bank errors : Nat} (word : Nat) (hpower : s.memPowered mem bank = true) (herrors : 2 ≤ errors)
    (hmem : mem ∉ [2, 6, 8, 12, 13, 14]) (hheard : Heard s (lostMsg mem bank word)) (hlimit : s.kindLimit (msgKind (lostMsg mem bank word)) = 0) :
    exec (.memoryScrub mem bank word errors) s = .next ((s.scrubbed mem bank word).noted (lostMsg mem bank word) 0 1 0) := by
  simp only [List.mem_cons, List.not_mem_nil, or_false, not_or] at hmem
  obtain ⟨h2, h6, h8, h12, h13, h14⟩ := hmem
  have hregion : mem = 2 → s.part.variant.regionCount ≠ 1 := fun h => absurd h h2
  have hclass : msgClass (lostMsg mem bank word) = 0 := by
    rw [msgClass_lostMsg, memPlace_class, if_neg (by simp [h2, h12, h13, h14])]
  obtain ⟨mash, mem', log, -, hmarks⟩ := scrubbed_keeps bank word hregion
  obtain ⟨hpending, hpart⟩ := scrubbed_pending bank word hregion
  have hkept : (s.scrubbed mem bank word).kindLimit (msgKind (lostMsg mem bank word)) = 0 := by
    rw [hmarks]
    exact hlimit
  rw [exec_memoryScrub, execMemoryScrub, memoryScrub_lost word hpower herrors (by simp [h6, h8, h12]), hheard.report_scrubbed _ _ _ _ hregion]
  exact ends_report_noted 0 1 (hheard.scrubbed bank word hregion) hclass hkept hpending hpart

/-- An uncorrectable word whose message is lasting: a free set takes it on top of the word's marks. -/
theorem exec_memoryScrub_captured {s : State} {mem bank errors : Nat} (word : Nat) (hpower : s.memPowered mem bank = true)
    (herrors : 2 ≤ errors) (hmem : mem ∈ [2, 13, 14]) (hregion : mem = 2 → s.part.variant.regionCount ≠ 1)
    (hheard : Heard s (lostMsg mem bank word)) (hfree : FreeSet s (lostMsg mem bank word)) :
    exec (.memoryScrub mem bank word errors) s = .next ((s.scrubbed mem bank word).captured (lostMsg mem bank word) 0 1) := by
  simp only [List.mem_cons, List.not_mem_nil, or_false] at hmem
  have hclass : msgClass (lostMsg mem bank word) = 1 := by
    rw [msgClass_lostMsg, memPlace_class, if_pos (by simp only [List.mem_cons, List.not_mem_nil]; omega)]
  obtain ⟨mash, mem', log, -, hmarks⟩ := scrubbed_keeps bank word hregion
  obtain ⟨hpending, hpart⟩ := scrubbed_pending bank word hregion
  have hset : FreeSet (s.scrubbed mem bank word) (lostMsg mem bank word) := by
    rw [hmarks]
    exact hfree
  rw [exec_memoryScrub, execMemoryScrub, memoryScrub_lost word hpower herrors (by simp only [List.mem_cons, List.not_mem_nil, or_false]; omega),
    hheard.report_scrubbed _ _ _ _ hregion]
  exact ends_report_captured 0 1 (hheard.scrubbed bank word hregion) (.inl hclass) hset hpending hpart

/-- The message of an uncorrectable word of a doubly written memory: transient while the other bank serves, else grave (R325). -/
def State.pairMsg (s : State) (mem bank word : Nat) : BitVec 64 := scrubMsg mem bank word kMemUncorrectable (s.pairClass mem bank word)

theorem msgClass_pairMsg (s : State) (mem bank word : Nat) :
    msgClass (s.pairMsg mem bank word) = if s.mem.pairBad.contains (mem, otherBank bank, word) = true then 2 else 0 := by
  unfold State.pairMsg State.pairClass
  rw [msgClass_scrubMsg]
  split <;> rfl

/-- An uncorrectable word of a doubly written memory whose other copy serves: the finding is kept, its message noted. -/
theorem exec_memoryScrub_served {s : State} {mem bank errors : Nat} (word : Nat) (hpower : s.memPowered mem bank = true)
    (herrors : 2 ≤ errors) (hmem : mem = 6 ∨ mem = 8) (hother : s.mem.pairBad.contains (mem, otherBank bank, word) = false)
    (hheard : Heard s (s.pairMsg mem bank word)) (hlimit : s.kindLimit (msgKind (s.pairMsg mem bank word)) = 0) :
    exec (.memoryScrub mem bank word errors) s = .next ((s.pairFound mem bank word).noted (s.pairMsg mem bank word) 0 1 0) := by
  have hclass : msgClass (s.pairMsg mem bank word) = 0 := by rw [msgClass_pairMsg, if_neg (ne_true_of_eq_false hother)]
  rw [exec_memoryScrub, execMemoryScrub, memoryScrub_paired word hpower herrors hmem]
  exact ends_report_noted (u := s.pairFound mem bank word) 0 1 hheard hclass hlimit rfl rfl

/-- One whose other copy fails too: the finding is kept, its message captured. -/
theorem exec_memoryScrub_failed {s : State} {mem bank errors : Nat} (word : Nat) (hpower : s.memPowered mem bank = true)
    (herrors : 2 ≤ errors) (hmem : mem = 6 ∨ mem = 8) (hother : s.mem.pairBad.contains (mem, otherBank bank, word) = true)
    (hheard : Heard s (s.pairMsg mem bank word)) (hfree : FreeSet s (s.pairMsg mem bank word)) :
    exec (.memoryScrub mem bank word errors) s = .next ((s.pairFound mem bank word).captured (s.pairMsg mem bank word) 0 1) := by
  have hclass : msgClass (s.pairMsg mem bank word) = 2 := by rw [msgClass_pairMsg, if_pos hother]
  rw [exec_memoryScrub, execMemoryScrub, memoryScrub_paired word hpower herrors hmem]
  exact ends_report_captured (u := s.pairFound mem bank word) 0 1 hheard (.inr hclass) hfree rfl rfl

theorem memoryScrubs : Says.MemoryScrub := by
  intro s mem bank word errors
  refine ⟨fun hquiet hoff => ?_, fun hpower => ⟨fun herrors hquiet => ?_, fun herrors hheard => ?_, fun herrors hmem hheard => ?_,
    fun herrors hmem hheard hfree => ?_, fun herrors hmem hentry hheard => ?_, fun herrors hmem hheard hfree => ?_,
    fun herrors hmem hheard => ?_, fun herrors hmem => ⟨fun hother hheard => ?_, fun hother hheard hfree => ?_⟩⟩⟩
  · rw [exec_memoryScrub, execMemoryScrub, memoryScrub_unpowered word errors hoff]
    exact ends_quiet s s hquiet rfl rfl
  · rw [exec_memoryScrub, execMemoryScrub, herrors, memoryScrub_good word hpower]
    exact ends_quiet s _ hquiet rfl rfl
  · obtain ⟨hheard, hlimit⟩ := hheard
    rw [exec_memoryScrub, execMemoryScrub, herrors, memoryScrub_corrected word hpower]
    exact ends_report_noted (u := s.pairCleared mem bank word) 0 1 hheard (msgClass_scrubMsg ..) hlimit rfl rfl
  · obtain ⟨hheard, hlimit⟩ := hheard
    simp only [List.mem_cons, List.not_mem_nil, or_false, not_or] at hmem
    obtain ⟨h1, h2, h6, h8, h12, h13, h14, h15⟩ := hmem
    have hend := exec_memoryScrub_noted word hpower herrors (by simp [h2, h6, h8, h12, h13, h14]) hheard hlimit
    rwa [scrubbed_other s bank word (by simp [h1, h2, h13, h15])] at hend
  · have hend := exec_memoryScrub_captured word hpower herrors (by simp only [List.mem_cons, List.not_mem_nil, or_false]; omega)
      (fun h2 => (hmem.resolve_left (by omega)).2) hheard hfree
    rcases hmem with rfl | ⟨rfl, hregion⟩
    · rwa [scrubbed_other s bank word (by decide)] at hend
    · rwa [scrubbed_wavetable s bank word hregion] at hend
  · obtain ⟨hheard, hlimit⟩ := hheard
    subst hmem
    rw [exec_memoryScrub_noted word hpower herrors (by decide) hheard hlimit, scrubbed_checkpoint s bank hentry]
    rfl
  · subst hmem
    rw [exec_memoryScrub_captured word hpower herrors (by decide) (by simp) hheard hfree, scrubbed_scratch]
    rfl
  · obtain ⟨hheard, hlimit⟩ := hheard
    subst hmem
    rw [exec_memoryScrub_noted word hpower herrors (by decide) hheard hlimit, scrubbed_record]
    rfl
  · obtain ⟨hheard, hlimit⟩ := hheard
    exact exec_memoryScrub_served word hpower herrors hmem hother hheard hlimit
  · exact exec_memoryScrub_failed word hpower herrors hmem hother hheard hfree

end Sys2Proof.Machine
end

section
/-! Banks of system SRAM and shared scratch that become usable (R582, R583): out of retention, or out of off through their clear. -/
namespace Sys2Proof.Machine

/-! ### The words of a bank -/

/-- A word of the memory that bank `b` belongs to. -/
def State.bankMemWord (s : State) (b k : Nat) : Word := if b < 8 then sget (fun _ => 0) s.mem.sys k else s.scratchWord k

/-- The first word of a bank in its memory. -/
def bankFirst (b : Nat) : Nat := if b < 8 then b * 16384 else (b - 8) * 8192

theorem sget_filter_outside (m : Sparse Word) (base n k : Nat) :
    sget (fun _ => (0 : Word)) (m.filter fun e => decide (e.1 < base ∨ base + n ≤ e.1)) k
      = if k < base ∨ base + n ≤ k then sget (fun _ => 0) m k else 0 := by
  refine (sget_filter (fun _ => (0 : Word)) m (fun a => decide (a < base ∨ base + n ≤ a)) k).trans ?_
  simp only [decide_eq_true_eq]

/-- A bank whose content is lost reads as zero words, and the other words of its memory stay (R582). -/
theorem loseBank_words (s : State) (b k : Nat) :
    (s.loseBank b).bankMemWord b k = if k < bankFirst b ∨ bankFirst b + bankWords b ≤ k then s.bankMemWord b k else 0 := by
  unfold State.loseBank State.bankMemWord bankFirst bankWords State.scratchWord
  split <;> exact sget_filter_outside ..

/-- The loss of a bank's content changes the memories' words alone. -/
theorem loseBank_keeps (s : State) (b : Nat) :
    ∃ sys scratch bad, s.loseBank b = { s with mem.sys := sys, mem.scratch := scratch, mem.badScratch := bad } := by
  unfold State.loseBank
  dsimp only
  split <;> exact ⟨_, _, _, rfl⟩

theorem bank_setBank_same {s : State} {b : Nat} (p : BankPower) (h : b < s.mem.banks.length) : (s.setBank b p).bank b = p := by
  simp [State.setBank, State.bank, List.getD_eq_getElem?_getD, List.getElem?_set_self h]

theorem bank_setBank_ne (s : State) {b c : Nat} (p : BankPower) (h : c ≠ b) : (s.setBank b p).bank c = s.bank c := by
  simp [State.setBank, State.bank, List.getD_eq_getElem?_getD, List.getElem?_set_ne (Ne.symm h)]

/-! ### A bank cleared -/

/-- `t` is `s` with bank `b` in the state `p`, its words zero, and nothing else changed. -/
def ClearedBank (s : State) (b : Nat) (p : BankPower) (t : State) : Prop :=
  t.bank b = p ∧ (∀ c, c ≠ b → t.bank c = s.bank c)
    ∧ (∀ k, bankFirst b ≤ k → k < bankFirst b + bankWords b → t.bankMemWord b k = 0)
    ∧ (∀ k, (k < bankFirst b ∨ bankFirst b + bankWords b ≤ k) → t.bankMemWord b k = s.bankMemWord b k)
    ∧ t = { s with mem := t.mem }

theorem clearedBank_setBank_loseBank {s : State} {b : Nat} (p : BankPower) (h : b < s.mem.banks.length) :
    ClearedBank s b p ((s.setBank b p).loseBank b) := by
  have hword : ∀ k, (s.setBank b p).bankMemWord b k = s.bankMemWord b k := fun _ => rfl
  obtain ⟨sys, scratch, bad, hlost⟩ := loseBank_keeps (s.setBank b p) b
  have hbank : ∀ c, ((s.setBank b p).loseBank b).bank c = (s.setBank b p).bank c := by
    intro c
    rw [hlost]
    rfl
  refine ⟨?_, fun c hc => ?_, fun k hfrom hto => ?_, fun k hout => ?_, ?_⟩
  · rw [hbank, bank_setBank_same p h]
  · rw [hbank, bank_setBank_ne s p hc]
  · rw [loseBank_words, if_neg (by omega)]
  · rw [loseBank_words, if_pos hout, hword]
  · rw [hlost]
    rfl

theorem loseBank_setBank (s : State) (b : Nat) (p : BankPower) : (s.loseBank b).setBank b p = (s.setBank b p).loseBank b := by
  unfold State.loseBank
  dsimp only
  split <;> rfl

/-! ### Accesses that waited -/

/-- A bank for which no access waits: none proceeds. -/
theorem resumeBank_none {s : State} {b : Nat} (h : ∀ o ∈ s.mem.stalled, scratchBank o.word ≠ b) : s.resumeBank b = s := by
  have hmine : (s.mem.stalled.filter fun o => scratchBank o.word == b) = [] :=
    List.filter_eq_nil_iff.mpr fun o ho => by simpa using h o ho
  have hrest : (s.mem.stalled.filter fun o => scratchBank o.word != b) = s.mem.stalled :=
    List.filter_eq_self.mpr fun o ho => by simpa using h o ho
  unfold State.resumeBank
  dsimp only
  rw [hmine, hrest, List.foldl_nil]

/-! ### The rows -/

section
variable {s : State} {b : Nat} (hb : b < 12) (hclocked : s.clocked = true) (hquiet : s.kiln.raised = [])
include hb hclocked hquiet

theorem bankPowerUpEnd_exiting (hidle : ∀ o ∈ s.mem.stalled, scratchBank o.word ≠ b) (hbank : s.bank b = .exiting) :
    exec (.bankPowerUpEnd b) s = .next (s.setBank b .on) := by
  rw [exec_bankPowerUpEnd, execBankPowerUpEnd, if_neg (by simp [hclocked]; omega), hbank]
  dsimp only
  rw [resumeBank_none (s := s.setBank b .on) hidle]
  exact ends_quiet s _ hquiet rfl rfl

theorem bankPowerUpEnd_powering (hbank : s.bank b = .powering) :
    exec (.bankPowerUpEnd b) s = .next ((s.setBank b .clearing).loseBank b) := by
  obtain ⟨sys, scratch, bad, hlost⟩ := loseBank_keeps (s.setBank b .clearing) b
  rw [exec_bankPowerUpEnd, execBankPowerUpEnd, if_neg (by simp [hclocked]; omega), hbank]
  dsimp only
  rw [hlost]
  exact ends_quiet s _ hquiet rfl rfl

theorem bankPowerUpEnd_on (hbank : s.bank b = .on) : exec (.bankPowerUpEnd b) s = .next s := by
  rw [exec_bankPowerUpEnd, execBankPowerUpEnd, if_neg (by simp [hclocked]; omega), hbank]
  exact ends_quiet s s hquiet rfl rfl

omit hclocked

theorem bankClearDone_clearing (hidle : ∀ o ∈ s.mem.stalled, scratchBank o.word ≠ b) (hbank : s.bank b = .clearing) :
    exec (.bankClearDone b) s = .next ((s.setBank b .on).loseBank b) := by
  obtain ⟨sys, scratch, bad, hlost⟩ := loseBank_keeps (s.setBank b .on) b
  have hidle' : ∀ o ∈ ((s.setBank b .on).loseBank b).mem.stalled, scratchBank o.word ≠ b := by
    rw [hlost]
    exact hidle
  rw [exec_bankClearDone, execBankClearDone, if_pos (by simp [hb, hbank]), loseBank_setBank, resumeBank_none hidle', hlost]
  exact ends_quiet s _ hquiet rfl rfl

omit hb

theorem bankClearDone_other (hbank : s.bank b ≠ .clearing) : exec (.bankClearDone b) s = .next s := by
  rw [exec_bankClearDone, execBankClearDone, if_neg (by simp [hbank])]
  exact ends_quiet s s hquiet rfl rfl

end

theorem bankPowerStates : Says.BankPowerStates := by
  intro s b hb hbanks hclocked hquiet hidle
  have hlisted : b < s.mem.banks.length := by omega
  refine ⟨bankPowerUpEnd_exiting hb hclocked hquiet hidle, fun hbank => ?_, fun hbank => ?_, fun hbank => ⟨?_, ?_⟩⟩
  · exact ⟨_, bankPowerUpEnd_powering hb hclocked hquiet hbank, clearedBank_setBank_loseBank .clearing hlisted⟩
  · exact ⟨_, bankClearDone_clearing hb hquiet hidle hbank, clearedBank_setBank_loseBank .on hlisted⟩
  · exact bankPowerUpEnd_on hb hclocked hquiet hbank
  · exact bankClearDone_other hquiet (by rw [hbank]; decide)

/-- Settles O44: atomic operations by the bank's state and the read, the scrubber memory by memory, and the banks' way to on. -/
theorem onChipMemories : Obligations.OnChipMemories := ⟨atomicOperations, memoryScrubs, bankPowerStates⟩

end Sys2Proof.Machine
end

section
/-! What leaves the Kiln's messages as they are (R319, R321): the work of the units. Where work leaves all of the Kiln, that is said;
where it changes something of it, that it leaves the messages raised. -/
namespace Sys2Proof.Machine

@[simp] theorem State.ite_kiln (p : Prop) [Decidable p] (s t : State) : (if p then s else t).kiln = if p then s.kiln else t.kiln :=
  apply_ite State.kiln p s t

/-- Work over a list each of whose steps leaves the Kiln leaves it. -/
@[simp] theorem foldl_kiln {α : Type} (f : State → α → State) (hf : ∀ s a, (f s a).kiln = s.kiln) (l : List α) (s : State) :
    (l.foldl f s).kiln = s.kiln :=
  List.foldlRecOn (motive := fun t : State => t.kiln = s.kiln) l f rfl fun t h a _ => (hf t a).trans h

/-- The same where the work collects results beside the state. -/
theorem foldl_fst_kiln {α β : Type} (f : State × β → α → State × β) (hf : ∀ acc a, (f acc a).1.kiln = acc.1.kiln) (l : List α)
    (acc : State × β) : (l.foldl f acc).1.kiln = acc.1.kiln :=
  List.foldlRecOn (motive := fun t : State × β => t.1.kiln = acc.1.kiln) l f rfl fun t h a _ => (hf t a).trans h

/-- Results that go beside a state leave its Kiln. -/
theorem carried_kiln {β γ : Type} (j : State × β) (g : State × β → γ) : (j.1, g j).1.kiln = j.1.kiln := rfl

theorem reach_kiln {s u : State} {t : Nat} (h : s.reach t = some u) : u.kiln = s.kiln := by
  unfold State.reach at h
  split at h
  · cases h
    rfl
  · cases h

/-! ### Free values -/

@[simp] theorem drawFree_kiln (s : State) : (drawFree s).2.kiln = s.kiln := rfl

/-! ### Registers -/

@[simp] theorem State.countReg_kiln (s : State) (b o lo n k : Nat) : (s.countReg b o lo n k).kiln = s.kiln := rfl

/-! ### Interrupts, events and responses -/

@[simp] theorem State.setHandoverStep_kiln (s : State) (step result : Nat) : (s.setHandoverStep step result).kiln = s.kiln := rfl

@[simp] theorem State.ringWrite_kiln (s : State) (base n i : Nat) (ws : List Word) : (s.ringWrite base n i ws).kiln = s.kiln := by
  induction ws generalizing s i with
  | nil => rfl
  | cons w ws ih => rw [State.ringWrite, ih, State.setMbx_kiln]

@[simp] theorem State.returnHalf_kiln (s : State) (h : Nat) : (s.returnHalf h).kiln = s.kiln := rfl

@[simp] theorem State.putEvent_kiln (s : State) (code session : Nat) (ws : List Word) : (s.putEvent code session ws).kiln = s.kiln := by
  simp [State.putEvent]

@[simp] theorem State.checkEvtTail_kiln (s : State) : s.checkEvtTail.kiln = s.kiln := by simp [State.checkEvtTail]
@[simp] theorem State.postOverflow_kiln (s : State) : s.postOverflow.kiln = s.kiln := by simp [State.postOverflow]
@[simp] theorem State.checkRspTail_kiln (s : State) : s.checkRspTail.kiln = s.kiln := by simp [State.checkRspTail, event_kiln]

@[simp] theorem State.putResponse_kiln (s : State) (opcode session seq : Nat) (ws : List Word) :
    (s.putResponse opcode session seq ws).kiln = s.kiln := by
  simp [State.putResponse]

@[simp] theorem State.queueFrame_kiln (s : State) (x : Nat) (f : List Byte) : (s.queueFrame x f).kiln = s.kiln := rfl

@[simp] theorem State.sendReply_kiln (s : State) (r : Reply) (ws : List Word) : (s.sendReply r ws).kiln = s.kiln := by
  unfold State.sendReply
  split <;> simp

@[simp] theorem State.agree_kiln (s : State) (a : Word) : (s.agree a).kiln = s.kiln := rfl

@[simp] theorem State.postReply_kiln (s : State) (r : Reply) (ws : List Word) : (s.postReply r ws).kiln = s.kiln := by
  unfold State.postReply
  split <;> simp

@[simp] theorem State.flushReplies_kiln (s : State) : s.flushReplies.kiln = s.kiln := by
  unfold State.flushReplies
  refine foldl_fst_kiln _ (fun acc r => ?_) _ (s, [])
  split
  · split
    · rfl
    · exact State.postReply_kiln acc.1 r _
  · rfl

@[simp] theorem State.respond_kiln (s : State) (c : Cmd) (ws : List Word) : (s.respond c ws).kiln = s.kiln := by simp [State.respond]
@[simp] theorem State.answer_kiln (s : State) (c : Cmd) (status detail : Nat) : (s.answer c status detail).kiln = s.kiln := by simp [State.answer]
@[simp] theorem State.ok_kiln (s : State) (c : Cmd) (ws : List Word) : (s.ok c ws).kiln = s.kiln := by simp [State.ok]
@[simp] theorem State.awaitReply_kiln (s : State) (c : Cmd) : (s.awaitReply c).kiln = s.kiln := rfl

@[simp] theorem State.formReplies_kiln (s : State) (opcode : Nat) (ws : List Word) : (s.formReplies opcode ws).kiln = s.kiln := by
  simp [State.formReplies]

@[simp] theorem State.defer_kiln (s : State) (c : Cmd) : (s.defer c).kiln = s.kiln := by simp [State.defer]

@[simp] theorem State.complete_kiln (s : State) (j : Job) (status : Nat) (ws : List Word) : (s.complete j status ws).kiln = s.kiln := by
  unfold State.complete
  extract_lets s' ev
  split
  · exact event_kiln ..
  · split <;> rfl

/-! ### The diagnostic job -/

@[simp] theorem State.restoreDiag_kiln (s : State) (d : DiagJob) : (s.restoreDiag d).kiln = s.kiln :=
  foldl_kiln _ (fun s _ => State.setReg_kiln s _ _ _) d.saved s

@[simp] theorem State.endDiag_kiln (s : State) (status : Nat) : (s.endDiag status).kiln = s.kiln := by
  unfold State.endDiag
  split
  · rfl
  · dsimp only
    split <;> simp

/-! ### Log, capture set and safe state -/

@[simp] theorem State.coresLeave_raised (s : State) : s.coresLeave.kiln.raised = s.kiln.raised := rfl
@[simp] theorem State.setLatch_kiln (s : State) (m : BitVec 64) : (s.setLatch m).kiln = s.kiln := by simp [State.setLatch]
@[simp] theorem State.dacsOnCask_kiln (s : State) (fault : Bool) : (s.dacsOnCask fault).kiln = s.kiln := rfl

@[simp] theorem State.enterSafe_raised (s : State) : s.enterSafe.kiln.raised = s.kiln.raised := by
  unfold State.enterSafe
  split <;> simp

@[simp] theorem State.logRecord_raised (s : State) (m : BitVec 64) (t master access flags : Nat) :
    (s.logRecord m t master access flags).kiln.raised = s.kiln.raised := by
  simp [State.logRecord]

@[simp] theorem State.capture_raised (s : State) (m : BitVec 64) (t master access : Nat) (fromLatch : Bool) :
    (s.capture m t master access fromLatch).kiln.raised = s.kiln.raised :=
  rfl

@[simp] theorem State.merge_raised (s : State) (m : BitVec 64) : (s.merge m).kiln.raised = s.kiln.raised := rfl
@[simp] theorem State.markActed_raised (s : State) (a : PendAct) : (s.markActed a).kiln.raised = s.kiln.raised := rfl

/-! ### The flash devices -/

@[simp] theorem State.flashWrite_kiln (s : State) (a : Nat) (bs : List Byte) : (s.flashWrite a bs).kiln = s.kiln := rfl
@[simp] theorem State.flashErase_kiln (s : State) (a n : Nat) : (s.flashErase a n).kiln = s.kiln := rfl

@[simp] theorem State.writeAnchor_kiln (s : State) (a : Anchor) : (s.writeAnchor a).kiln = s.kiln := by
  simp only [State.writeAnchor, State.flashWrite_kiln, State.flashErase_kiln]

/-! ### Reads of the Grist store -/

@[simp] theorem State.serve_kiln (s : State) : s.serve.kiln = s.kiln := rfl

@[simp] theorem State.addRead_kiln (s : State) (st : Stream) (tier deadline : Nat) (fs : List Nat) (again : Bool) :
    (s.addRead st tier deadline fs again).kiln = s.kiln := by
  simp [State.addRead]

@[simp] theorem State.queueRead_kiln (s : State) (st : Stream) (tier deadline : Nat) (fs : List Nat) :
    (s.queueRead st tier deadline fs).kiln = s.kiln := by
  simp [State.queueRead]

/-! ### Voices and streams of the Maltster -/

@[simp] theorem State.hopCount_kiln (s : State) (r : Nat) (f : RegionCounts → RegionCounts) : (s.hopCount r f).kiln = s.kiln := rfl
@[simp] theorem State.countRankings_kiln (s : State) (n : Nat) (cands : List (Nat × Voice)) : (s.countRankings n cands).kiln = s.kiln := rfl

@[simp] theorem State.steal_kiln (s : State) (n v len : Nat) (hard : Bool) : (s.steal n v len hard).kiln = s.kiln := by
  unfold State.steal
  split <;> simp

@[simp] theorem State.unprimeStream_kiln (s : State) (id : Nat) : (s.unprimeStream id).kiln = s.kiln := rfl
@[simp] theorem State.addStream_kiln (s : State) (st : Stream) : (s.addStream st).kiln = s.kiln := rfl

/-! ### Trackers -/

@[simp] theorem State.setTracker_kiln (s : State) (n : Nat) (k : Tracker) : (s.setTracker n k).kiln = s.kiln := rfl
@[simp] theorem State.tbEvent_kiln (s : State) (n ev : Nat) : (s.tbEvent n ev).kiln = s.kiln := by simp [State.tbEvent, event_kiln]

/-! ### Tasks -/

@[simp] theorem State.unprime_kiln (s : State) (t : Task) : (s.unprime t).kiln = s.kiln := foldl_kiln _ State.unprimeStream_kiln _ s

@[simp] theorem State.freeTask_kiln (s : State) (i : Nat) (applied : Bool) : (s.freeTask i applied).kiln = s.kiln := by
  unfold State.freeTask
  split <;> simp

/-! ### Banks and locks -/

@[simp] theorem State.setBank_kiln (s : State) (b : Nat) (p : BankPower) : (s.setBank b p).kiln = s.kiln := rfl
@[simp] theorem State.scratchRead_kiln (s : State) : s.scratchRead.kiln = s.kiln := rfl

@[simp] theorem State.wakeBank_kiln (s : State) (b : Nat) : (s.wakeBank b).kiln = s.kiln := by
  unfold State.wakeBank
  split <;> simp

@[simp] theorem State.applyLocks_kiln (s : State) : s.applyLocks.kiln = s.kiln := by simp [State.applyLocks]
@[simp] theorem State.deferWork_kiln (s : State) (c : Cmd) : (s.deferWork c).kiln = s.kiln := by simp [State.deferWork]

/-! ### Timers -/

@[simp] theorem State.timerEvent_kiln (s : State) (k : Nat) : (s.timerEvent k).kiln = s.kiln := rfl

@[simp] theorem State.takeHeld_kiln (s : State) (c : Nat) : (s.takeHeld c).kiln = s.kiln := by
  unfold State.takeHeld
  dsimp only
  split <;> split <;> simp

@[simp] theorem State.clusterStep_kiln (s : State) (c : Nat) : (s.clusterStep c).kiln = s.kiln := by simp [State.clusterStep]

@[simp] theorem State.stepClusters_kiln (s : State) (u m : Nat) : (s.stepClusters u m).kiln = s.kiln := by
  induction m generalizing s with
  | zero => rfl
  | succ m ih =>
    refine (ih _).trans (foldl_kiln _ (fun t c => ?_) _ s)
    split
    · exact State.clusterStep_kiln t c
    · rfl

@[simp] theorem State.judgeStep_kiln (s : State) (u old new k : Nat) : (s.judgeStep u old new k).1.kiln = s.kiln := by
  unfold State.judgeStep
  extract_lets c i
  split
  · split
    · rfl
    · split
      · exact (State.countReg_kiln ..).trans (State.setReg_kiln ..)
      · exact State.setReg_kiln ..
  · rfl

@[simp] theorem State.unitStep_kiln (s : State) (u m : Nat) : (s.unitStep u m).1.kiln = s.kiln := by
  unfold State.unitStep
  split
  · rfl
  · rw [State.stepClusters_kiln, State.setReg_kiln]
    exact foldl_fst_kiln _ (fun acc k =>
      (carried_kiln _ fun j => if j.2 then acc.2 ++ [4 * u + k] else acc.2).trans (State.judgeStep_kiln ..)) _ _

@[simp] theorem State.prescale_kiln (s : State) (u edges : Nat) : (s.prescale u edges).1.kiln = s.kiln := by
  unfold State.prescale
  split <;> rfl

@[simp] theorem State.releaseUnit_kiln (s : State) (u : Nat) : (s.releaseUnit u).kiln = s.kiln := rfl
@[simp] theorem State.releaseCluster_kiln (s : State) (c : Nat) : (s.releaseCluster c).kiln = s.kiln := by simp [State.releaseCluster]
@[simp] theorem State.globalStart_kiln (s : State) (mask : Nat) : (s.globalStart mask).kiln = s.kiln := by simp [State.globalStart]

/-! ### The Copper frame -/

@[simp] theorem State.latchInputs_kiln (s : State) (f : Nat) : (s.latchInputs f).kiln = s.kiln := rfl

@[simp] theorem State.copperFrame_raised (s : State) : s.copperFrame.kiln.raised = s.kiln.raised := by
  unfold State.copperFrame
  split
  · rfl
  · split
    · rfl
    · simp

@[simp] theorem State.copperInterrupt_kiln (s : State) : s.copperInterrupt.kiln = s.kiln := by
  unfold State.copperInterrupt
  split
  · rfl
  · split <;> rfl

/-! ### The Sparge chain -/

@[simp] theorem State.spargeRestart_kiln (s : State) (n : Nat) : (s.spargeRestart n).kiln = s.kiln := rfl

/-! ### The chain -/

@[simp] theorem State.setLink_kiln (s : State) (lo n x : Nat) : (s.setLink lo n x).kiln = s.kiln := rfl
@[simp] theorem State.enterRun_raised (s : State) : s.enterRun.kiln.raised = s.kiln.raised := by simp [State.enterRun]
@[simp] theorem State.jump_raised (s : State) (dt db df : Int) : (s.jump dt db df).kiln.raised = s.kiln.raised := rfl
@[simp] theorem State.alignAdopt_raised (s : State) : s.alignAdopt.kiln.raised = s.kiln.raised := by simp [State.alignAdopt]

@[simp] theorem State.startRelease_raised (s : State) : s.startRelease.kiln.raised = s.kiln.raised := by
  unfold State.startRelease
  split
  · rfl
  · split
    · rfl
    · rw [State.ite_kiln, State.globalStart_kiln, ite_self]
      rfl

end Sys2Proof.Machine
end

section
/-! What leaves the Kiln's messages as they are: reset and clock, the words of the host, the commands of the ring. -/
namespace Sys2Proof.Machine

/-! ### Supplies, clock and reset -/

@[simp] theorem State.supplyRelease_kiln (s : State) (rail : Nat) : (s.supplyRelease rail).kiln = s.kiln := rfl
@[simp] theorem State.resetRelease_kiln (s : State) : s.resetRelease.kiln = s.kiln := by simp [State.resetRelease]

@[simp] theorem State.referenceQualified_kiln (s : State) (primary : Bool) : (s.referenceQualified primary).kiln = s.kiln := by
  unfold State.referenceQualified
  split
  · rfl
  · dsimp only
    split <;> simp

@[simp] theorem State.backupLost_kiln (s : State) (primary : Bool) : (s.backupLost primary).kiln = s.kiln := by simp [State.backupLost]

@[simp] theorem State.primaryTakeback_kiln (s : State) : s.primaryTakeback.kiln = s.kiln := by
  unfold State.primaryTakeback
  split <;> simp

@[simp] theorem State.pllLock_kiln (s : State) (slotA slotB : Nat) : (s.pllLock slotA slotB).kiln = s.kiln := by
  unfold State.pllLock
  split
  · rfl
  · dsimp only
    split <;> simp

@[simp] theorem State.tapInstruction_kiln (s : State) (t : TapInstr) : (s.tapInstruction t).kiln = s.kiln := by simp [State.tapInstruction]

/-! ### The host port -/

@[simp] theorem State.addrErr_kiln (s : State) : s.addrErr.kiln = s.kiln := rfl
@[simp] theorem State.handHalf_kiln (s : State) (h : Nat) : (s.handHalf h).kiln = s.kiln := by simp [State.handHalf]

@[simp] theorem State.ackFault_raised (s : State) (v : Word) : (s.ackFault v).kiln.raised = s.kiln.raised := by
  unfold State.ackFault
  split <;> simp

@[simp] theorem State.directWrite_raised (s : State) (o : Nat) (v : Word) : (s.directWrite o v).kiln.raised = s.kiln.raised := by
  unfold State.directWrite
  split <;> simp

@[simp] theorem State.mailboxWrite_kiln (s : State) (a : Nat) (v : Word) : (s.mailboxWrite a v).kiln = s.kiln := by simp [State.mailboxWrite]
@[simp] theorem State.disarm_kiln (s : State) : s.disarm.kiln = s.kiln := rfl

@[simp] theorem State.deliver_raised (s : State) (addr : Nat) (v : Word) : (s.deliver addr v).1.kiln.raised = s.kiln.raised := by
  unfold State.deliver
  dsimp only
  split
  · split
    · rfl
    · rfl
    · split <;> rfl
    · rfl
  · split
    · simp
    · split <;> simp

@[simp] theorem State.collision_kiln (s : State) (a : Nat) (x : Word) : (s.collision a x).kiln = s.kiln := by simp [State.collision]

@[simp] theorem State.deliverAll_raised (s : State) (x : Transfer) (addr k i : Nat) : (s.deliverAll x addr k i).1.kiln.raised = s.kiln.raised := by
  induction k generalizing s i with
  | zero => rfl
  | succ k ih =>
    rw [State.deliverAll]
    dsimp only
    rw [ih]
    split
    · split <;> simp
    · simp

@[simp] theorem State.lapse_kiln (s : State) : s.lapse.kiln = s.kiln := by simp [State.lapse]

/-! ### Taking a command, the protocol commands -/

@[simp] theorem State.cmdHello_kiln (c : Cmd) (s : State) : (State.cmdHello c s).kiln = s.kiln := by simp [State.cmdHello]
@[simp] theorem State.cmdPing_kiln (c : Cmd) (s : State) : (State.cmdPing c s).kiln = s.kiln := by simp [State.cmdPing]

@[simp] theorem State.cmdSessionOpen_kiln (c : Cmd) (s : State) : (State.cmdSessionOpen c s).kiln = s.kiln := by
  unfold State.cmdSessionOpen
  dsimp only
  split
  · simp
  · split
    · split <;> simp
    · simp

@[simp] theorem State.cmdSessionSet_kiln (c : Cmd) (s : State) : (State.cmdSessionSet c s).kiln = s.kiln := by simp [State.cmdSessionSet]
@[simp] theorem State.cmdSessionClose_kiln (c : Cmd) (s : State) : (State.cmdSessionClose c s).kiln = s.kiln := by simp [State.cmdSessionClose]
@[simp] theorem State.actNow_kiln (s : State) (b : Nat) (e : Nat × Word) : (s.actNow b e).kiln = s.kiln := by simp [State.actNow]
@[simp] theorem State.schedule_kiln (s : State) (b : Nat) (extra : List (Nat × Word)) : (s.schedule b extra).kiln = s.kiln := by simp [State.schedule]

@[simp] theorem State.cmdImageWrite_kiln (c : Cmd) (s : State) : (State.cmdImageWrite c s).kiln = s.kiln := by
  unfold State.cmdImageWrite
  dsimp only
  split
  · simp
  · split <;> simp

@[simp] theorem State.cmdImageRead_kiln (c : Cmd) (s : State) : (State.cmdImageRead c s).kiln = s.kiln := by simp [State.cmdImageRead]

/-! ### Task commands -/

@[simp] theorem State.chooseEntry_kiln (s : State) : (s.chooseEntry).2.kiln = s.kiln := rfl

@[simp] theorem State.makeReady_kiln (s : State) (c : Cmd) (kind : TaskKind) (prio : Nat) (primed : List Nat) :
    (s.makeReady c kind prio primed).kiln = s.kiln := by
  simp [State.makeReady]

@[simp] theorem State.postTask_kiln (s : State) (c : Cmd) (kind : TaskKind) (prio : Nat) : (s.postTask c kind prio).kiln = s.kiln := by
  simp [State.postTask]

@[simp] theorem State.primeRings_kiln (s : State) (r : Recipe) (n prio : Nat) (is : List Nat) : (s.primeRings r n prio is).1.kiln = s.kiln := by
  induction is generalizing s with
  | nil => rfl
  | cons i rest ih =>
    unfold State.primeRings
    split
    · exact (ih _).trans ((State.queueRead_kiln _ _ _ _ _).trans (State.addStream_kiln _ _))
    · rfl

@[simp] theorem State.prime_kiln (s : State) (c : Cmd) (r : Recipe) (prio : Nat) : (s.prime c r prio).1.kiln = s.kiln := by
  unfold State.prime
  split
  · dsimp only
    split <;> simp
  · rfl

@[simp] theorem State.cmdNoteOn_kiln (c : Cmd) (s : State) : (State.cmdNoteOn c s).kiln = s.kiln := by
  unfold State.cmdNoteOn
  split
  · simp
  · split
    · simp
    · split <;> simp

@[simp] theorem State.cmdRelease_kiln (c : Cmd) (s : State) : (State.cmdRelease c s).kiln = s.kiln := by simp [State.cmdRelease]
@[simp] theorem State.cmdKill_kiln (c : Cmd) (s : State) : (State.cmdKill c s).kiln = s.kiln := by simp [State.cmdKill]
@[simp] theorem State.cmdParam_kiln (c : Cmd) (s : State) : (State.cmdParam c s).kiln = s.kiln := by simp [State.cmdParam]
@[simp] theorem State.cmdController_kiln (c : Cmd) (s : State) : (State.cmdController c s).kiln = s.kiln := by simp [State.cmdController]
@[simp] theorem State.cmdProfile_kiln (c : Cmd) (s : State) : (State.cmdProfile c s).kiln = s.kiln := by simp [State.cmdProfile]
@[simp] theorem State.cmdEvent_kiln (c : Cmd) (s : State) : (State.cmdEvent c s).kiln = s.kiln := by simp [State.cmdEvent]

@[simp] theorem State.cmdCancel_kiln (c : Cmd) (s : State) : (State.cmdCancel c s).kiln = s.kiln := by
  unfold State.cmdCancel
  dsimp only
  split
  · simp
  · split
    · simp
    · split <;> simp

@[simp] theorem State.cmdAllocCfg_kiln (c : Cmd) (s : State) : (State.cmdAllocCfg c s).kiln = s.kiln := by simp [State.cmdAllocCfg]
@[simp] theorem State.cmdHopperStatus_kiln (c : Cmd) (s : State) : (State.cmdHopperStatus c s).kiln = s.kiln := by simp [State.cmdHopperStatus]
@[simp] theorem State.cmdDeviceStatus_kiln (c : Cmd) (s : State) : (State.cmdDeviceStatus c s).kiln = s.kiln := by simp [State.cmdDeviceStatus]

/-! ### Content commands -/

@[simp] theorem State.failPlain_kiln (s : State) (j : Job) (status : Nat) : (s.failPlain j status).kiln = s.kiln := by simp [State.failPlain]
@[simp] theorem State.cmdBankLoad_kiln (c : Cmd) (s : State) : (State.cmdBankLoad c s).kiln = s.kiln := by simp [State.cmdBankLoad]
@[simp] theorem State.cmdBankUnload_kiln (c : Cmd) (s : State) : (State.cmdBankUnload c s).kiln = s.kiln := by simp [State.cmdBankUnload]
@[simp] theorem State.cmdBankStatus_kiln (c : Cmd) (s : State) : (State.cmdBankStatus c s).kiln = s.kiln := by simp [State.cmdBankStatus]
@[simp] theorem State.cmdWtLoad_kiln (c : Cmd) (s : State) : (State.cmdWtLoad c s).kiln = s.kiln := by simp [State.cmdWtLoad]
@[simp] theorem State.cmdWtUnload_kiln (c : Cmd) (s : State) : (State.cmdWtUnload c s).kiln = s.kiln := by simp [State.cmdWtUnload]
@[simp] theorem State.cmdTbUpdate_kiln (c : Cmd) (s : State) : (State.cmdTbUpdate c s).kiln = s.kiln := by simp [State.cmdTbUpdate]
@[simp] theorem State.flashCopy_kiln (s : State) (a b n : Nat) : (s.flashCopy a b n).kiln = s.kiln := rfl
@[simp] theorem State.metaWrite_kiln (s : State) (a : Nat) (bs : List Byte) : (s.metaWrite a bs).kiln = s.kiln := rfl
@[simp] theorem State.cmdGristPrepare_kiln (c : Cmd) (s : State) : (State.cmdGristPrepare c s).kiln = s.kiln := by simp [State.cmdGristPrepare]

@[simp] theorem State.gristPrepareDone_kiln (s : State) : s.gristPrepareDone.kiln = s.kiln := by
  unfold State.gristPrepareDone
  split <;> simp

@[simp] theorem State.cmdGristWrite_kiln (c : Cmd) (s : State) : (State.cmdGristWrite c s).kiln = s.kiln := by simp [State.cmdGristWrite]

@[simp] theorem State.gristWriteDone_kiln (s : State) : s.gristWriteDone.kiln = s.kiln := by
  unfold State.gristWriteDone
  split <;> simp

@[simp] theorem State.cmdGristMeta_kiln (c : Cmd) (s : State) : (State.cmdGristMeta c s).kiln = s.kiln := by simp [State.cmdGristMeta]

@[simp] theorem State.gristMetaDone_kiln (s : State) : s.gristMetaDone.kiln = s.kiln := by
  unfold State.gristMetaDone
  split <;> simp

@[simp] theorem State.cmdGristCommit_kiln (c : Cmd) (s : State) : (State.cmdGristCommit c s).kiln = s.kiln := by simp [State.cmdGristCommit]
@[simp] theorem State.cmdGristAbort_kiln (c : Cmd) (s : State) : (State.cmdGristAbort c s).kiln = s.kiln := by simp [State.cmdGristAbort]
@[simp] theorem State.cmdGristStatus_kiln (c : Cmd) (s : State) : (State.cmdGristStatus c s).kiln = s.kiln := by simp [State.cmdGristStatus]
@[simp] theorem State.cmdGristRead_kiln (c : Cmd) (s : State) : (State.cmdGristRead c s).kiln = s.kiln := by simp [State.cmdGristRead]

/-! ### Service commands -/

@[simp] theorem State.cmdCopperSwap_kiln (c : Cmd) (s : State) : (State.cmdCopperSwap c s).kiln = s.kiln := by simp [State.cmdCopperSwap]
@[simp] theorem State.cmdCopperParam_kiln (c : Cmd) (s : State) : (State.cmdCopperParam c s).kiln = s.kiln := by simp [State.cmdCopperParam]

@[simp] theorem State.cmdDiagRead_kiln (c : Cmd) (s : State) : (State.cmdDiagRead c s).kiln = s.kiln := by
  unfold State.cmdDiagRead
  split <;> simp

@[simp] theorem State.cmdDiagAbort_kiln (c : Cmd) (s : State) : (State.cmdDiagAbort c s).kiln = s.kiln := by simp [State.cmdDiagAbort]
@[simp] theorem State.cmdCaptureStart_kiln (c : Cmd) (s : State) : (State.cmdCaptureStart c s).kiln = s.kiln := by simp [State.cmdCaptureStart]

@[simp] theorem State.cmdCaptureStop_kiln (c : Cmd) (s : State) : (State.cmdCaptureStop c s).kiln = s.kiln := by
  unfold State.cmdCaptureStop
  split <;> simp

@[simp] theorem State.cmdFaultLogRead_kiln (c : Cmd) (s : State) : (State.cmdFaultLogRead c s).kiln = s.kiln := by
  unfold State.cmdFaultLogRead
  dsimp only
  split
  · simp
  · split <;> simp

@[simp] theorem State.cmdBlockReset_raised (c : Cmd) (s : State) : (State.cmdBlockReset c s).kiln.raised = s.kiln.raised := by
  unfold State.cmdBlockReset
  dsimp only
  split <;> simp

@[simp] theorem State.cmdLifetimeRead_kiln (c : Cmd) (s : State) : (State.cmdLifetimeRead c s).kiln = s.kiln := by simp [State.cmdLifetimeRead]
@[simp] theorem State.cmdLifetimeSet_kiln (c : Cmd) (s : State) : (State.cmdLifetimeSet c s).kiln = s.kiln := by simp [State.cmdLifetimeSet]
@[simp] theorem State.stepTo_kiln (s : State) (step result : Nat) : (s.stepTo step result).kiln = s.kiln := by simp [State.stepTo, event_kiln]
@[simp] theorem State.cmdFwLoad_kiln (c : Cmd) (s : State) : (State.cmdFwLoad c s).kiln = s.kiln := by simp [State.cmdFwLoad]
@[simp] theorem State.sliceWrite_kiln (s : State) (a n : Nat) (bs : List Byte) : (s.sliceWrite a n bs).kiln = s.kiln := rfl

@[simp] theorem State.fwLoadDone_kiln (s : State) (fails : Bool) : (s.fwLoadDone fails).kiln = s.kiln := by
  unfold State.fwLoadDone
  split <;> simp

@[simp] theorem State.cmdFwVerify_kiln (c : Cmd) (s : State) : (State.cmdFwVerify c s).kiln = s.kiln := by simp [State.cmdFwVerify]

@[simp] theorem State.fwVerifyDone_kiln (s : State) (result : Nat) : (s.fwVerifyDone result).kiln = s.kiln := by
  unfold State.fwVerifyDone
  split <;> simp

@[simp] theorem State.cmdHandover_kiln (c : Cmd) (s : State) : (State.cmdHandover c s).kiln = s.kiln := by simp [State.cmdHandover]

@[simp] theorem State.writeFwAnchor_kiln (s : State) (slot : Nat) : (s.writeFwAnchor slot).kiln = s.kiln := by
  unfold State.writeFwAnchor
  split <;> simp

@[simp] theorem State.cmdFwSelect_kiln (c : Cmd) (s : State) : (State.cmdFwSelect c s).kiln = s.kiln := by simp [State.cmdFwSelect]
@[simp] theorem State.restartFw_kiln (s : State) : s.restartFw.kiln = s.kiln := rfl

@[simp] theorem State.firmwareResume_raised (s : State) : s.firmwareResume.kiln.raised = s.kiln.raised := by
  unfold State.firmwareResume
  split <;> simp

@[simp] theorem State.handoverFails_kiln (s : State) (result : Nat) : (s.handoverFails result).kiln = s.kiln := by simp [State.handoverFails]
@[simp] theorem State.handoverTimeout_kiln (s : State) : s.handoverTimeout.kiln = s.kiln := by simp [State.handoverTimeout]
@[simp] theorem State.fwAnchorWritten_kiln (s : State) : s.fwAnchorWritten.kiln = s.kiln := by simp [State.fwAnchorWritten]

end Sys2Proof.Machine
end

section
/-! What leaves the Kiln's messages as they are: frames, edges, lines, and the Kiln's own timers. -/
namespace Sys2Proof.Machine

/-! ### TDM frames -/

@[simp] theorem State.tdmoFrame_kiln (s : State) : s.tdmoFrame.kiln = s.kiln := by
  unfold State.tdmoFrame
  split <;> simp

@[simp] theorem State.tdmiFrame_kiln (s : State) (slots : List Word) : (s.tdmiFrame slots).kiln = s.kiln := by simp [State.tdmiFrame]
@[simp] theorem State.tdmiSlip_kiln (s : State) : s.tdmiSlip.kiln = s.kiln := by simp [State.tdmiSlip, event_kiln]

/-! ### Edges of the timebase -/

@[simp] theorem State.trackerEdge_kiln (s : State) (p : Nat) (level both : Bool) (t n : Nat) : (s.trackerEdge p level both t n).kiln = s.kiln := by
  simp [State.trackerEdge]

@[simp] theorem State.oneEdge_kiln (s : State) (p : Nat) (level both : Bool) (cycle : Nat) : (s.oneEdge p level both cycle).kiln = s.kiln := by
  simp [State.oneEdge]

@[simp] theorem State.tbEdge_kiln (s : State) (p : Nat) (level : Bool) (cycle : Nat) (both : Bool) : (s.tbEdge p level cycle both).kiln = s.kiln := by
  simp [State.tbEdge]

/-! ### DACs -/

@[simp] theorem State.dacTick_kiln (s : State) (d tick : Nat) : (s.dacTick d tick).kiln = s.kiln := by
  unfold State.dacTick
  dsimp only
  split
  · rfl
  · rfl
  · split <;> rfl
  · rfl

@[simp] theorem State.dacTimer_kiln (s : State) (ev : Nat) : (s.dacTimer ev).kiln = s.kiln := by
  refine foldl_kiln _ (fun s d => ?_) _ s
  dsimp only
  split
  · rfl
  · split <;> simp

@[simp] theorem State.dacRestart_kiln (s : State) : s.dacRestart.kiln = s.kiln := rfl

/-! ### Steps and captures -/

@[simp] theorem State.toDacs_kiln (s : State) (evs : List Nat) : (s.toDacs evs).kiln = s.kiln := by simp [State.toDacs]
@[simp] theorem State.stepUnit_kiln (s : State) (u m : Nat) : (s.stepUnit u m).kiln = s.kiln := by simp [State.stepUnit]
@[simp] theorem State.feedUnit_kiln (s : State) (u edges : Nat) : (s.feedUnit u edges).kiln = s.kiln := by simp [State.feedUnit]
@[simp] theorem State.captureFeed_kiln (s : State) (u : Nat) : (s.captureFeed u).kiln = s.kiln := by simp [State.captureFeed]
@[simp] theorem State.captureNow_kiln (s : State) (u late : Nat) : (s.captureNow u late).kiln = s.kiln := by simp [State.captureNow]

@[simp] theorem State.lfUnit_kiln (s : State) (t0 u : Nat) : (s.lfUnit t0 u).kiln = s.kiln := by
  unfold State.lfUnit
  split <;> simp

/-! ### Lines -/

@[simp] theorem State.onUart_kiln (s : State) (x : Nat) (f : Uart → Uart) : (s.onUart x f).kiln = s.kiln := rfl
@[simp] theorem State.rxSettings_kiln (s : State) (x : Nat) : (s.rxSettings x).kiln = s.kiln := by simp [State.rxSettings]
@[simp] theorem State.charFlags_kiln (s : State) (x : Nat) (ch : RxChar) : (s.charFlags x ch).kiln = s.kiln := by simp [State.charFlags]
@[simp] theorem State.lineDma_kiln (s : State) (x : Nat) : (s.lineDma x).kiln = s.kiln := rfl
@[simp] theorem State.linePush_kiln (s : State) (x : Nat) (b : Byte) (bad : Bool) : (s.linePush x b bad).kiln = s.kiln := by simp [State.linePush]
@[simp] theorem State.uartCharacter_kiln (s : State) (x : Nat) (ch : RxChar) : (s.uartCharacter x ch).kiln = s.kiln := by simp [State.uartCharacter]
@[simp] theorem State.lineFlush_kiln (s : State) (x : Nat) : (s.lineFlush x).kiln = s.kiln := by simp [State.lineFlush]

@[simp] theorem State.uartTransmit_kiln (s : State) (x : Nat) : (s.uartTransmit x).kiln = s.kiln := by
  unfold State.uartTransmit
  split
  · rfl
  · split <;> simp

/-! ### Block resets, ALIVE, the die link -/

@[simp] theorem State.leaveReset_raised (s : State) (n target : Nat) : (s.leaveReset n target).kiln.raised = s.kiln.raised := by
  unfold State.leaveReset
  split <;> simp

@[simp] theorem State.aliveToggle_raised (s : State) : s.aliveToggle.kiln.raised = s.kiln.raised := by
  unfold State.aliveToggle
  split
  · rfl
  · split
    · rfl
    · next t hreach => simp [reach_kiln hreach]

@[simp] theorem State.dieLinkSilence_raised (s : State) : s.dieLinkSilence.kiln.raised = s.kiln.raised := by
  unfold State.dieLinkSilence
  split <;> simp

/-! ### Steps of a diagnosis -/

@[simp] theorem State.lineResult_kiln (s : State) (d : DiagJob) (c : Nat) (m : Sums) : (s.lineResult d c m).1.kiln = s.kiln := by
  unfold State.lineResult
  split
  · rfl
  · dsimp only
    split <;> rfl

@[simp] theorem State.finishDiag_kiln (s : State) (d : DiagJob) : (s.finishDiag d).kiln = s.kiln := by
  unfold State.finishDiag
  dsimp only
  rw [event_kiln]
  split <;> simp

@[simp] theorem State.endLine_kiln (s : State) (d : DiagJob) (r : Nat × Word × Word) : (s.endLine d r).kiln = s.kiln := by simp [State.endLine]

@[simp] theorem State.diagStepEnd_kiln (s : State) : s.diagStepEnd.kiln = s.kiln := by
  unfold State.diagStepEnd
  split
  · rfl
  · split
    · rfl
    · next t hreach =>
      split
      · rfl
      · rw [State.endLine_kiln, State.lineResult_kiln, reach_kiln hreach]

@[simp] theorem State.diagDoneTimeout_kiln (s : State) : s.diagDoneTimeout.kiln = s.kiln := by
  unfold State.diagDoneTimeout
  split
  · rfl
  · split
    · rfl
    · next t hreach =>
      split
      · rfl
      · rw [State.endLine_kiln, reach_kiln hreach]

/-! ### Shedding, the second region -/

@[simp] theorem State.shed_kiln (s : State) (n r k : Nat) : (s.shed n r k).kiln = s.kiln := by
  induction k generalizing s with
  | zero => rfl
  | succ k ih =>
    rw [State.shed]
    split
    · rfl
    · split
      · rfl
      · split
        · rfl
        · rw [ih, State.hopCount_kiln, State.steal_kiln, State.countRankings_kiln]

@[simp] theorem State.shedAll_kiln (s : State) (n : Nat) : (s.shedAll n).kiln = s.kiln := by simp [State.shedAll]

@[simp] theorem State.regionOne_kiln (s : State) (n : Nat) : (s.regionOne n).kiln = s.kiln := by
  unfold State.regionOne
  split <;> simp

end Sys2Proof.Machine
end

section
/-! No message waits once a command has ended (R319, R321): the Kiln takes what a command raises, and a reset clears it. -/
namespace Sys2Proof.Machine

/-! ### The messages of a core cycle -/

@[simp] theorem State.takeC3_raised (s : State) (m : BitVec 64) (master access : Nat) : (s.takeC3 m master access).kiln.raised = s.kiln.raised := by
  unfold State.takeC3
  extract_lets held counted entered logged
  rw [State.enterSafe_raised, State.setLatch_kiln, State.logRecord_raised]
  unfold entered
  split <;> simp [counted]

@[simp] theorem State.takeSafeActions_raised (s : State) : s.takeSafeActions.kiln.raised = s.kiln.raised := by
  unfold State.takeSafeActions
  split
  · rfl
  · split <;> simp

@[simp] theorem State.startAction_raised (s : State) (m : BitVec 64) (record : Nat) : (s.startAction m record).kiln.raised = s.kiln.raised := by
  unfold State.startAction
  extract_lets a
  split
  · rfl
  · split <;> rfl

@[simp] theorem State.takeMsg_raised (s : State) (m : BitVec 64) (master access : Nat) : (s.takeMsg m master access).kiln.raised = s.kiln.raised := by
  unfold State.takeMsg
  split
  · rfl
  · split
    · simp
    · split
      · simp
      · split
        · simp
        · dsimp only
          rw [State.takeSafeActions_raised, State.startAction_raised, State.logRecord_raised]
          split <;> simp

@[simp] theorem State.c0Rate_raised (s : State) (m : BitVec 64) (master access : Nat) : (s.c0Rate m master access).kiln.raised = s.kiln.raised := by
  unfold State.c0Rate
  extract_lets k cnt
  split
  · rfl
  · split
    · rfl
    · exact State.takeMsg_raised ..

theorem hear_raised (s : State) : s.hear.kiln.raised = [] :=
  List.foldlRecOn (motive := fun t : State => t.kiln.raised = []) _ _ rfl fun t h r _ => by simp [h]

/-! ### Resets and wakes -/

theorem beginReset_raised (s : State) (bit : Nat) (drives lost : Bool) : (s.beginReset bit drives lost).kiln.raised = [] := rfl

section
variable {s : State} (hq : s.kiln.raised = [])
include hq

theorem wake_raised (cause : Option (Nat × Nat × Nat)) : (s.wake cause).kiln.raised = [] := by
  unfold State.wake
  split
  · exact beginReset_raised ..
  · exact hq

theorem wakeHost_raised : s.wakeHost.kiln.raised = [] := by
  unfold State.wakeHost
  split
  · exact wake_raised hq _
  · exact hq

theorem wakeComparator_raised (c k : Nat) : (s.wakeComparator c k).kiln.raised = [] := by
  unfold State.wakeComparator
  split
  · exact wake_raised hq _
  · exact hq

theorem watchdog_raised : s.watchdog.kiln.raised = [] := by
  unfold State.watchdog
  extract_lets ms
  split
  · split
    · exact hq
    · split
      · exact beginReset_raised ..
      · exact hq
  · exact hq

theorem pinReset_raised (ns : Nat) : (s.pinReset ns).kiln.raised = [] := by
  unfold State.pinReset
  extract_lets held
  split
  · exact hq
  · exact beginReset_raised ..

theorem resetPin_raised (ns : Nat) : (s.resetPin ns).kiln.raised = [] := by
  unfold State.resetPin
  split
  · exact hq
  · split
    · exact pinReset_raised hq ns
    · dsimp only [drawFree]
      split
      · exact pinReset_raised (s := { s with freeCount := s.freeCount + 1 }) hq ns
      · exact hq

/-! ### Words of the host -/

theorem hostWord_raised (addr : Nat) (v : Word) : (s.hostWord addr v).kiln.raised = [] := by
  unfold State.hostWord
  split
  · exact hq
  · exact hq
  · exact wake_raised hq none
  · dsimp only
    split
    · exact beginReset_raised ..
    · exact (State.deliver_raised s addr v).trans hq

theorem writeTransfer_raised (x : Transfer) : (s.writeTransfer x).kiln.raised = [] := by
  have hall (addr k : Nat) : (s.deliverAll x addr k 0).1.kiln.raised = [] := (State.deliverAll_raised s x addr k 0).trans hq
  unfold State.writeTransfer
  extract_lets n full countUp finish
  have hfinish (r : State × Bool) (hr : r.1.kiln.raised = []) : (finish r).kiln.raised = [] := by
    unfold finish
    split
    · exact beginReset_raised ..
    · exact hr
  split
  · split
    · exact hq
    · split
      · exact hq
      · exact hfinish _ (hall _ _)
  · next r t _ =>
    have ht : t.kiln.raised = [] := by
      unfold t
      split
      · exact hall _ _
      · exact hall _ _
    refine hfinish _ ?_
    dsimp only
    split
    · exact ht
    · exact ht

theorem hostTransfer_raised (x : Transfer) : (s.hostTransfer x).kiln.raised = [] := by
  unfold State.hostTransfer
  split
  · exact hq
  · exact hq
  · exact wake_raised hq none
  · extract_lets p u
    split
    · exact hq
    · split
      · split
        · exact hq
        · exact hq
      · exact writeTransfer_raised (s := u) hq x

end

/-! ### How a row ends -/

/-- No detector's message waits in the state that an outcome leaves. -/
def NoneWaits (o : Host.Outcome State Fault Refusal) : Prop := ∀ t, o = .next t → t.kiln.raised = []

theorem noneWaits_done {s u : State} (h : u.kiln.raised = []) : NoneWaits (s.done u) := by
  rintro t ⟨⟩
  exact h

theorem noneWaits_ends (s u : State) : NoneWaits (s.ends u) := noneWaits_done (hear_raised u)

theorem noneWaits_copperRow {s : State} (hq : s.kiln.raised = []) (i : Instr) (eff : Copper → Effect) : NoneWaits (s.copperRow i eff) :=
  noneWaits_done (by split <;> exact hq)

theorem noneWaits_takeWith {s : State} (hq : s.kiln.raised = []) {c : Cmd} {work : Cmd → State → State}
    (hwork : (work c s).kiln.raised = s.kiln.raised) : NoneWaits (s.done (s.takeWith c work)) := by
  refine noneWaits_done ?_
  unfold State.takeWith
  split
  · exact hq
  · split
    · rw [State.answer_kiln, hq]
    · rw [hwork, hq]

/-- A row ends at the Kiln's taking of the messages, or is a Copper instruction, a command of the ring, or work that leaves the messages
waiting as they were. -/
theorem exec_noneWaits (i : Instr) {s : State} (hq : s.kiln.raised = []) : NoneWaits (exec i s) := by
  cases i with
  | takeDoorbell | takingResume | uartFrame | diagStart
  | bankLoadDone | svtLoadDone | wtLoadDone | gristCommitDone | gristReadDone | copperLoadDone | gristReadComplete | gristPort
  | blockBoundary | voiceBlock | voiceBlockRetry | twinCompare | twinRecompute | deviceMix
  | chainFrameTransmit | chainFrameReceive | spargeStage1Output | spargeFineValue | thresholdChange
  | kilnMessage | actionDeadline | fwHeartbeat | pinReadback
  | supplyThreshold | comparatorDisagreement | ready | referenceLoss | holdoverTimeout | pllLoopFail
  | memoryScrub | atomicAdd | atomicSwap | bankPowerUpEnd | bankClearDone => exact noneWaits_ends s _
  | cNop | cMpy | cMac | cMsu | cCmpy | cCmac | cCmsu | cCmacj | cAdd | cSub | cAdds | cSubs | cAnd | cOr | cXor | cAbs | cSha
  | cShl | cAadd | cAsub | cAsh | cRnd | cClr | cCmp | cTsta | cMaxi | cMini | cMvc
  | cLdi | cMv | cLdx | cLdy | cStx | cSty | cLdio | cStio | cPush | cPop
  | cBr | cCall | cRet | cReti | cLoop | cRep | cWfr =>
    dsimp only [exec]
    exact noneWaits_copperRow hq _ _
  | hello | ping | sessionOpen | sessionSet | sessionClose | imageWrite | imageRead | globalStart | dacPush
  | noteOn | release | kill | param | controller | profile | event | cancel | allocCfg | hopperStatus | deviceStatus
  | bankLoad | bankUnload | svtLoad | wtLoad | wtUnload | bankStatus | tbUpdate
  | gristPrepare | gristWrite | gristMeta | gristCommit | gristAbort | gristStatus | gristRead
  | copperLoad | copperSwap | copperParam | diagRead | diagAbort | captureStart | captureStop
  | faultLogRead | blockReset | lifetimeRead | lifetimeSet | fwLoad | fwVerify | handover | fwSelect =>
    exact noneWaits_takeWith hq (by simp)
  | hostTransfer x => exact noneWaits_done (hostTransfer_raised hq x)
  | registerWrite | doorbellCmd | doorbellBulk | faultAck | softResetArm | softReset | standbyRequest =>
    exact noneWaits_done (hostWord_raised hq _ _)
  | wakeHost => exact noneWaits_done (wakeHost_raised hq)
  | wakeComparator c k => exact noneWaits_done (wakeComparator_raised hq c k)
  | resetPin ns => exact noneWaits_done (resetPin_raised hq ns)
  | powerOnReset => exact noneWaits_done (beginReset_raised ..)
  | watchdog =>
    refine noneWaits_done ?_
    split
    · exact watchdog_raised hq
    · exact hq
  | standbyEntry =>
    refine noneWaits_done ?_
    split
    · rfl
    · exact hq
  | readDeadline =>
    refine noneWaits_done ?_
    split <;> simp [hq]
  | dacUpdate d =>
    refine noneWaits_done ?_
    split
    · exact hq
    · split <;> simp [hq]
  | _ => exact noneWaits_done (by simp [hq, apply_ite Kiln.raised])

/-- Settles O3: a row whose units may raise messages ends with the Kiln's taking them, and no other row raises one. -/
theorem noMessageWaits : Obligations.NoMessageWaits := fun i _ t hq h => exec_noneWaits i hq t h

end Sys2Proof.Machine
end

section
/-! The host's keys (R337, R373, R378, R384, R617): a delivered word at SOFT_RESET, FAULT_ACK and DOORBELL. -/
namespace Sys2Proof.Machine

/-! ### A word that the part hears -/

/-- From PLL lock on and outside standby a host word is delivered, and the second key resets (R361, R367, R378). -/
theorem hostWord_heard {s : State} (h : HostHears s) (addr : Nat) (v : Word) :
    s.hostWord addr v = if (s.deliver addr v).2 then (s.deliver addr v).1.softReset else (s.deliver addr v).1 := by
  obtain ⟨hclocked, hawake⟩ := h
  unfold State.hostWord
  split
  · next hp => simp [State.clocked, hp] at hclocked
  · next hp => simp [State.clocked, hp] at hclocked
  · next hp => exact absurd hp hawake
  · rfl

/-- A word that is no second key ends in the state that it delivers. -/
theorem done_hostWord {s u : State} (h : HostHears s) {addr : Nat} {v : Word} (hd : s.deliver addr v = (u, false))
    (hq : u.pending = s.pending) (hp : u.part = s.part) : s.done (s.hostWord addr v) = .next u := by
  rw [hostWord_heard h, hd, if_neg Bool.false_ne_true]
  exact done_same s u hq hp

theorem deliver_armKey (s : State) : s.deliver 0x74 0x5A5A = ({ s with host.softArmed := some s.time }, false) := rfl

theorem deliver_resetKey (s : State) : s.deliver 0x74 0xA5A5 = (s.disarm, s.armed) := rfl

theorem deliver_standbyKey (s : State) :
    s.deliver 0x74 0x3C3C = (if s.armed then { s.disarm with pwr.standbyReq := true } else s.disarm, false) := rfl

theorem deliver_faultAck (s : State) (v : Word) : s.deliver 0x98 v = (s.disarm.ackFault v, false) := rfl

/-- From READY on a word at DOORBELL hands over its halves and rings for commands (R373, R384). -/
theorem deliver_doorbell {s : State} (hready : s.isReady = true) (v : Word) :
    s.deliver 0x44 v =
      (let one := if v.getLsbD 1 then s.disarm.handHalf 0 else s.disarm
       let both := if v.getLsbD 2 then one.handHalf 1 else one
       if v.getLsbD 0 then { both with host.bellCmd := true } else both, false) := by
  have hdisarmed : s.disarm.isReady = true := hready
  show (s.disarm.directWrite 0x44 v, false) = _
  unfold State.directWrite
  rw [if_neg (by simp [hdisarmed])]
  rfl

theorem handHalf_host {s : State} {h : Nat} (hown : nthB s.host.own h = false) :
    s.handHalf h = { s with host.own := s.host.own.set h true, host.bellBulk := s.host.bellBulk.set h true } :=
  if_neg (by simp [hown])

/-- A half that the device owns already is not handed over again (R373). -/
theorem handHalf_device {s : State} {h : Nat} (hown : nthB s.host.own h = true) : s.handHalf h = s := if_pos hown

/-- The half that DOORBELL_BULK names is handed over, by its own bit of DOORBELL. -/
theorem deliver_bulk {s : State} (hready : s.isReady = true) {h : Nat} (hh : h < 2) :
    s.deliver 0x44 (if h = 0 then 2 else if h = 1 then 4 else 0) = (s.disarm.handHalf h, false) := by
  rw [deliver_doorbell hready]
  obtain rfl | rfl : h = 0 ∨ h = 1 := by omega
  · rfl
  · rfl

/-! ### The keys -/

theorem softResetDisarm_of_armedAt {s : State} {t : Nat} (h : s.host.softArmed = some t) :
    exec .softResetDisarm s = .next (if s.time < t + 24576 then s else { s with host.softArmed := none }) := by
  rw [exec_softResetDisarm]
  unfold execSoftResetDisarm State.lapse State.armed
  rw [h]
  dsimp only
  simp only [decide_eq_true_eq]
  split <;> exact done_same s _ rfl rfl

theorem standbyRequest_heard {s : State} (h : HostHears s) :
    exec .standbyRequest s = .next (if s.armed then { s.disarm with pwr.standbyReq := true } else s.disarm) := by
  rw [exec_standbyRequest]
  refine done_hostWord h (deliver_standbyKey s) ?_ ?_ <;> split <;> rfl

/-- The second key without the first only disarms (R378). -/
theorem softReset_unarmed {s : State} (h : HostHears s) (hunarmed : s.armed = false) : exec .softReset s = .next s.disarm := by
  rw [exec_softReset]
  exact done_hostWord h (by rw [deliver_resetKey, hunarmed]) rfl rfl

theorem faultAck_heard {s : State} (h : HostHears s) (v : Word) : exec (.faultAck v) s = .next (s.disarm.ackFault v) := by
  rw [exec_faultAck]
  refine done_hostWord h (deliver_faultAck s v) ?_ ?_ <;> unfold State.ackFault <;> split <;> rfl

theorem doorbellBulk_heard {s : State} (h : HostHears s) (hready : s.isReady = true) {k : Nat} (hk : k < 2) :
    exec (.doorbellBulk k) s = .next (s.disarm.handHalf k) := by
  rw [exec_doorbellBulk]
  refine done_hostWord h (deliver_bulk hready hk) ?_ ?_ <;> unfold State.handHalf <;> split <;> rfl

/-- Settles O9: each key is a word delivered to its register; what it does rests on the arming, the sequence number and the half's owner. -/
theorem hostKeys : Obligations.HostKeys := by
  intro s v k h
  refine ⟨done_hostWord h (deliver_armKey s) rfl rfl, fun harmed => ?_, fun hunarmed => ⟨?_, softReset_unarmed h hunarmed⟩,
    fun t ht => ⟨fun hlate => ?_, fun hearly => ?_⟩, fun hseq => ?_, fun hseq => ?_, fun hready => ?_,
    fun hready hk hown => ?_, fun hready hk hown => ?_⟩
  · rw [standbyRequest_heard h, if_pos harmed]
    rfl
  · rw [standbyRequest_heard h, if_neg (by simp [hunarmed])]
    rfl
  · rw [softResetDisarm_of_armedAt ht, if_neg (by omega)]
  · rw [softResetDisarm_of_armedAt ht, if_pos hearly]
  · rw [faultAck_heard h]
    exact congrArg _ (if_pos hseq)
  · rw [faultAck_heard h]
    exact congrArg _ (if_neg hseq)
  · exact done_hostWord h (deliver_doorbell hready 1) rfl rfl
  · rw [doorbellBulk_heard h hready hk, handHalf_host (s := s.disarm) hown]
    rfl
  · rw [doorbellBulk_heard h hready hk, handHalf_device (s := s.disarm) hown]
    rfl

end Sys2Proof.Machine
end

section
/-! The Kiln's timers (R333, R338, R341): an action's deadline, and the end of a block's reset. -/
namespace Sys2Proof.Machine

/-- Device time reaches a time before the next boundary. -/
theorem reach_of_lt {s : State} {t : Nat} (h : t < 4096 * (s.lastBlock + 1)) : s.reach t = some { s with time := max s.time t } := if_pos h

/-! ### ACTION_DEADLINE -/

/-- Only a SAFE_STATE action is taken before the boundary (R333). -/
theorem takeSafeActions_no_safe {s : State} (h : ∀ a ∈ s.kiln.ready, a.action ≠ actSafe) : s.takeSafeActions = s := by
  have hnone : s.kiln.ready.find? (fun a => a.action == actSafe) = none := List.find?_eq_none.mpr (by simpa using h)
  unfold State.takeSafeActions
  rw [hnone]

/-- Actions whose timers have expired by now wait for the boundary, where none of them is SAFE_STATE (R333). -/
theorem expireActs_no_safe {s : State} (h : ∀ a ∈ s.kiln.acts ++ s.kiln.ready, a.action ≠ actSafe) :
    s.expireActs = { s with
      kiln.acts := s.kiln.acts.filter fun (a : PendAct) => !(decide (a.deadline ≤ s.time))
      kiln.ready := s.kiln.ready ++ s.kiln.acts.filter fun (a : PendAct) => decide (a.deadline ≤ s.time) } := by
  refine takeSafeActions_no_safe fun a ha => h a ?_
  rcases List.mem_append.mp ha with hready | hdue
  · exact List.mem_append_right _ hready
  · exact List.mem_append_left _ (List.mem_of_mem_filter hdue)

theorem actionDeadline_first {s : State} {a : PendAct} (hfirst : s.firstAct = some a) (hlt : a.deadline < 4096 * (s.lastBlock + 1)) :
    s.actionDeadline = State.expireActs { s with time := max s.time a.deadline } := by
  unfold State.actionDeadline
  rw [hfirst]
  dsimp only
  rw [reach_of_lt hlt]

/-! ### BLOCK_RESET_END -/

theorem inReset_iff {s : State} {target : Nat} :
    s.inReset target = true ↔ ∃ w ∈ s.kiln.windows, w.target = target ∧ w.inReset = true := by
  unfold State.inReset
  simp

/-- The windows of a block close two boundaries after its reset (R338, R341). -/
def State.windowsLeft (s : State) (n target : Nat) : State :=
  { s with kiln.windows := s.kiln.windows.map fun (w : BlockWindow) =>
      if w.target = target ∧ w.inReset then { w with inReset := false, until_ := n + 2 } else w }

theorem leaveReset_plain {s : State} {n target : Nat} (h : target ∉ [0, 1, 8, 9]) : s.leaveReset n target = s.windowsLeft n target := by
  simp only [List.mem_cons, List.not_mem_nil, or_false, not_or] at h
  obtain ⟨h0, h1, h8, h9⟩ := h
  unfold State.leaveReset
  extract_lets left
  split
  · exact absurd rfl h0
  · exact absurd rfl h1
  · exact absurd rfl h8
  · exact absurd rfl h9
  · rfl

/-- A port that was reset is tried again (R338). -/
theorem leaveReset_port {s : State} {n target : Nat} (h : target < 2) :
    s.leaveReset n target = { s.windowsLeft n target with
      store.ports := s.store.ports.modify target fun (p : PortState) => { p with failed := false } } := by
  obtain rfl | rfl : target = 0 ∨ target = 1 := by omega
  · rfl
  · rfl

theorem blockResetEnd_inReset {s : State} {target : Nat} (hready : s.isReady = true) (hreset : s.inReset target = true)
    (hq : (s.leaveReset s.lastBlock target).pending = s.pending) (hp : (s.leaveReset s.lastBlock target).part = s.part) :
    exec (.blockResetEnd target) s = .next (s.leaveReset s.lastBlock target) := by
  rw [exec_blockResetEnd]
  unfold execBlockResetEnd
  rw [if_pos (by simp [hready, hreset])]
  exact done_same s _ hq hp

/-- Settles O54: the actions that are due wait, and a block leaves its reset with what R338 restores. -/
theorem kilnTimers : Obligations.KilnTimers := by
  intro s target a hready hquiet
  refine ⟨fun hfirst hlt hsafe => ?_, fun hwindow => ?_, fun hnone => ?_⟩
  · rw [exec_actionDeadline]
    unfold execActionDeadline
    rw [if_pos hready, actionDeadline_first hfirst hlt, expireActs_no_safe (s := { s with time := max s.time a.deadline }) hsafe]
    exact ends_quiet s _ hquiet rfl rfl
  · have hreset := inReset_iff.mpr hwindow
    refine ⟨fun hplain => ?_, fun hport => ?_, ?_, ?_⟩
    · have hleft := leaveReset_plain (s := s) (n := s.lastBlock) hplain
      exact (blockResetEnd_inReset hready hreset (by rw [hleft]; rfl) (by rw [hleft]; rfl)).trans (congrArg _ hleft)
    · have hleft := leaveReset_port (s := s) (n := s.lastBlock) hport
      exact (blockResetEnd_inReset hready hreset (by rw [hleft]; rfl) (by rw [hleft]; rfl)).trans (congrArg _ hleft)
    · rintro rfl
      exact blockResetEnd_inReset hready hreset rfl rfl
    · rintro rfl
      exact blockResetEnd_inReset hready hreset rfl rfl
  · have hout : s.inReset target = false := by
      rw [← Bool.not_eq_true, inReset_iff]
      rintro ⟨w, hw, htarget, hin⟩
      rw [hnone w hw htarget] at hin
      exact Bool.false_ne_true hin
    rw [exec_blockResetEnd]
    unfold execBlockResetEnd
    rw [if_neg (by simp [hout])]
    exact done_same s s rfl rfl

end Sys2Proof.Machine
end

section
/-! ALIVE, the firmware's heartbeat, the die link's watch and the pads' readback (R342 to R347, R593, R646). -/
namespace Sys2Proof.Machine

/-! ### ALIVE and the heartbeat -/

theorem aliveToggle_due {s : State} {t : Nat} (hready : s.isReady = true) (hnext : s.pwr.aliveNext = some t)
    (hlt : t < 4096 * (s.lastBlock + 1)) :
    exec .aliveToggle s = .next
      (let u : State := { s with
        time := max s.time t
        pwr.aliveNext := some (t + max 1 (bits s.host.aliveCfg.toNat 8 8) * 24576) }
      if s.host.aliveCfg.getLsbD 0 && s.kiln.hbMissed.isNone && !s.kiln.safe then { u with pwr.alive := !s.pwr.alive } else u) := by
  rw [exec_aliveToggle]
  unfold execAliveToggle State.aliveToggle
  rw [if_pos hready, hnext]
  dsimp only
  rw [reach_of_lt hlt]
  refine done_same s _ ?_ ?_ <;> dsimp only <;> split <;> rfl

/-- A heartbeat that is due and missing raises FW_HEARTBEAT at its time (R343). -/
theorem fwHeartbeat_due {s : State} (hmissed : s.kiln.hbMissed = none)
    (hlt : s.kiln.hbLast + bits (s.regN bKILN 0) 8 8 * 24576 < 4096 * (s.lastBlock + 1)) :
    s.fwHeartbeat = State.report { s with
      time := max s.time (s.kiln.hbLast + bits (s.regN bKILN 0) 8 8 * 24576)
      kiln.hbMissed := some (max s.time (s.kiln.hbLast + bits (s.regN bKILN 0) 8 8 * 24576)) } (mkMsg 2 0 kFwHeartbeat 1 0 0) 3 0 := by
  unfold State.fwHeartbeat
  rw [if_neg (by simp [hmissed]), reach_of_lt hlt]

/-! ### The safe state -/

/-- Outside the safe state, and with no diagnostic job to end, entering it sets what R347 names. -/
theorem enterSafe_free {s : State} (hsafe : s.kiln.safe = false) (hdiag : s.fw.diag = none) : s.enterSafe = s.safeNow := by
  unfold State.enterSafe State.endDiag
  rw [if_neg (by simp [hsafe]), hdiag]
  rfl

theorem aliveAndHeartbeat : Says.AliveAndHeartbeat := by
  intro s t
  refine ⟨fun hready hnext hlt => ⟨fun hholds => ?_, fun hstays => ?_⟩, fun hmissed hlt hheard hfree => ?_, fun hquiet hmissed => ?_,
    fun hwatch hsafe hdiag hlatch => ?_, fun hwatch => ?_⟩
  · obtain ⟨hcfg, hbeat, hsafe⟩ := hholds
    rw [aliveToggle_due hready hnext hlt]
    exact congrArg _ (if_pos (by simp [hcfg, hbeat, hsafe]))
  · rw [aliveToggle_due hready hnext hlt]
    refine congrArg _ (if_neg ?_)
    simpa [and_assoc] using hstays
  · obtain ⟨hready, -⟩ := id hheard
    rw [exec_fwHeartbeat]
    unfold execFwHeartbeat
    rw [if_pos hready, fwHeartbeat_due hmissed hlt]
    exact ends_report_captured 3 0 hheard (.inl (msgClass_mkMsg ..)) hfree rfl rfl
  · have hkeeps : s.fwHeartbeat = s := if_pos (Option.isSome_iff_ne_none.mpr hmissed)
    rw [exec_fwHeartbeat]
    unfold execFwHeartbeat
    rw [hkeeps, ite_self]
    exact ends_quiet s s hquiet rfl rfl
  · rw [exec_dieLinkSilence]
    unfold execDieLinkSilence State.dieLinkSilence
    rw [if_pos hwatch, setLatch_free _ hlatch,
      enterSafe_free (s := { s with pwr.latch := some (mkMsg 2 2 kLastCopy 3 kDieLink (blockOf s.time), s.time % 2 ^ 32) }) hsafe hdiag]
    exact done_same s _ rfl rfl
  · rw [exec_dieLinkSilence]
    unfold execDieLinkSilence State.dieLinkSilence
    rw [if_neg (by simp [hwatch])]
    exact done_same s s rfl rfl

/-! ### The pads -/

/-- The message of a pad that reads back otherwise than it is driven (R646). -/
def padMsg (pin : Nat) (expected : Bool) : BitVec 64 :=
  mkMsg 1 pin kPinReadback (if pin < 4 then 3 else 1) (if pin = 5 then 0 else if expected then 1 else 0) 0

theorem padMsg_class (pin : Nat) (expected : Bool) : msgClass (padMsg pin expected) = if pin < 4 then 3 else 1 := by
  unfold padMsg
  rw [msgClass_mkMsg]
  split <;> rfl

theorem exec_pinReadback_pad {s : State} {pin : Nat} (expected : Bool) (hready : s.isReady = true) (hpad : s.padCompared pin = true)
    (hpin : pin < 6) : exec (.pinReadback pin expected) s = s.ends (s.report (padMsg pin expected) 0 4) := by
  rw [exec_pinReadback]
  unfold execPinReadback State.pinReadback b2n
  rw [if_pos hready, if_neg (by simp [hpad]), if_pos hpin]
  rfl

theorem exec_pinReadback_link {s : State} {pin : Nat} (expected : Bool) (hready : s.isReady = true) (hpad : s.padCompared pin = true)
    (hpin : 6 ≤ pin) : exec (.pinReadback pin expected) s = s.ends (s.chainBreak 1) := by
  rw [exec_pinReadback]
  unfold execPinReadback State.pinReadback
  rw [if_pos hready, if_neg (by simp [hpad]), if_neg (by omega)]

theorem exec_pinReadback_uncompared {s : State} {pin : Nat} (expected : Bool) (hquiet : s.kiln.raised = []) (hpad : s.padCompared pin = false) :
    exec (.pinReadback pin expected) s = .next s := by
  have hkeeps : s.pinReadback pin expected = s := if_pos (by simp [hpad])
  rw [exec_pinReadback]
  unfold execPinReadback
  rw [hkeeps, ite_self]
  exact ends_quiet s s hquiet rfl rfl

theorem pinReadback : Says.PinReadback := by
  intro s pin e
  have hclass := padMsg_class pin e
  refine ⟨fun hpad hpin hheard hfree => ?_, fun hpad hpin hheard hsafe hdiag hset hlatch => ?_, fun hpad hpin hheard hfree => ?_,
    exec_pinReadback_uncompared e⟩
  · obtain ⟨hready, -⟩ := id hheard
    rw [if_neg (by omega)] at hclass
    rw [exec_pinReadback_pad e hready hpad (by omega)]
    exact ends_report_captured 0 4 hheard (.inl hclass) hfree rfl rfl
  · obtain ⟨hready, -⟩ := id hheard
    rw [if_pos hpin] at hclass
    rw [exec_pinReadback_pad e hready hpad (by omega)]
    exact ends_of_hear (hear_report_grave s (padMsg pin e) 0 4 hheard hclass hsafe hdiag hset hlatch) (s.graved_pending ..) (s.graved_part ..)
  · obtain ⟨hready, -⟩ := id hheard
    rw [exec_pinReadback_link e hready hpad (by omega)]
    exact ends_report_captured 8 0 hheard (.inl (msgClass_mkMsg ..)) hfree rfl rfl

/-- Settles O55: ALIVE, the heartbeat and the die link's watch, and the pads that are compared. -/
theorem kilnWatch : Obligations.KilnWatch := ⟨aliveAndHeartbeat, pinReadback⟩

end Sys2Proof.Machine
end

section
/-! The ways into reset (R343, R378, R604, R607, R622 to R624), and the output pins in reset (R606, R633, R635, R644). -/
namespace Sys2Proof.Machine

/-! ### A reset by its cause -/

/-- What a reset keeps of a state, or judges it by: the queue, the part, the flash devices and the always-on domain's records. -/
structure SameForReset (s u : State) : Prop where
  pending    : u.pending = s.pending
  part       : u.part = s.part
  flash      : u.store.flash = s.store.flash
  latch      : u.pwr.latch = s.pwr.latch
  por        : u.pwr.por = s.pwr.por
  resetCause : u.pwr.resetCause = s.pwr.resetCause
  life       : u.pwr.life = s.pwr.life

theorem beginReset_powerOn {s u : State} (h : SameForReset s u) (drives lost : Bool) : Resets s (u.beginReset 0 drives lost) 0 lost := by
  refine ⟨rfl, rfl, rfl, rfl, rfl, rfl, rfl, rfl, rfl, rfl, rfl, rfl, ?_, ?_, ?_, h.pending, h.part, fun _ => ⟨rfl, rfl, rfl⟩, fun h0 => absurd rfl h0⟩
  · exact congrArg Store.reset h.flash
  · exact congrArg Part.shadow h.part
  · rw [← h.part]
    rfl

theorem beginReset_cause {s u : State} (h : SameForReset s u) {cause : Nat} (hc : cause ≠ 0) (drives lost : Bool) :
    Resets s (u.beginReset cause drives lost) cause lost := by
  have hcause : ¬ (cause == 0) = true := by simpa using hc
  refine ⟨rfl, rfl, rfl, rfl, rfl, rfl, rfl, rfl, rfl, rfl, rfl, rfl, ?_, ?_, ?_, h.pending, h.part, fun h0 => absurd h0 hc,
    fun _ => ⟨?_, fun hpor => ?_, ?_⟩⟩
  · exact congrArg Store.reset h.flash
  · exact congrArg Part.shadow h.part
  · rw [← h.part]
    rfl
  · exact (if_neg hcause).trans h.latch
  · refine (if_neg hcause).trans ?_
    rw [if_neg (by simp [h.por, hpor]), h.resetCause]
  · rw [← h.life]
    cases lost
    · exact if_neg (by simp [hc])
    · exact if_pos (by simp)

theorem beginReset_resets {s u : State} (h : SameForReset s u) (cause : Nat) (drives lost : Bool) :
    Resets s (u.beginReset cause drives lost) cause lost := by
  by_cases hc : cause = 0
  · subst hc
    exact beginReset_powerOn h drives lost
  · exact beginReset_cause h hc drives lost

/-- A row resets: it ends in a reset of its cause, in which the device drives RESET_N itself (R624). -/
def ResetsDriving (s : State) (i : Instr) (cause : Nat) (lost : Bool) : Prop :=
  ∃ t, exec i s = .next t ∧ Resets s t cause lost ∧ t.pwr.driveLow = true

theorem drives_beginReset (u : State) (cause : Nat) (lost : Bool) : (u.beginReset cause true lost).pwr.driveLow = true := Bool.or_true _

theorem resetsDriving_of_done {s u : State} {i : Instr} {cause : Nat} {lost : Bool} (h : SameForReset s u)
    (hexec : exec i s = s.done (u.beginReset cause true lost)) : ResetsDriving s i cause lost :=
  ⟨_, hexec.trans (done_same s _ h.pending h.part), beginReset_resets h cause true lost, drives_beginReset u cause lost⟩

/-- A reset leaves no message for the Kiln. -/
theorem resetsDriving_of_ends {s u : State} {i : Instr} {cause : Nat} {lost : Bool} (h : SameForReset s u)
    (hexec : exec i s = s.ends (u.beginReset cause true lost)) : ResetsDriving s i cause lost :=
  ⟨_, hexec.trans (ends_quiet s _ rfl h.pending h.part), beginReset_resets h cause true lost, drives_beginReset u cause lost⟩

/-! ### Supplies -/

theorem sameForReset_railLow (s : State) (rail : Nat) : SameForReset s { s with pwr.railLow := s.pwr.railLow.set rail true } :=
  ⟨rfl, rfl, rfl, rfl, rfl, rfl, rfl⟩

/-- A rail below its reset level: VDDA33 is the power-on reset, the others brown-outs (R604). -/
theorem supplyReset_resets (s : State) {rail : Nat} (hrail : rail < 3) (hawake : rail = 2 → s.pwr.phase ≠ .standby) :
    ResetsDriving s (.supplyThreshold rail .reset) (rail + 1) false := by
  refine resetsDriving_of_ends (sameForReset_railLow s rail) ?_
  rw [exec_supplyThreshold]
  unfold execSupplyThreshold State.supplyThreshold
  rw [if_neg (by omega)]
  obtain rfl | rfl | rfl : rail = 0 ∨ rail = 1 ∨ rail = 2 := by omega
  · rfl
  · rfl
  · exact congrArg s.ends (if_neg (hawake rfl))

/-! ### RESET_N -/

theorem resetPin_long {s : State} {ns : Nat} (h : 250 < ns) : exec (.resetPin ns) s = s.done (s.pinReset ns) := by
  rw [exec_resetPin]
  unfold execResetPin State.resetPin
  rw [if_neg (by omega), if_pos h]

/-- RESET_N low from outside, recognised, is a reset of cause PIN unless the device drove the pin until then (R624). -/
theorem pinReset_resets {s : State} {ns : Nat} (h : s.pwr.driveLow = false ∨ 5000 < ns) :
    ∃ t, s.done (s.pinReset ns) = .next t ∧ Resets s t 4 false ∧ t.pwr.resetHeld = true := by
  have hheld : s.pinReset ns = State.beginReset { s with pwr.resetHeld := true } 4 false false := by
    refine if_neg ?_
    rcases h with h | h
    · simp [h]
    · simp [h]
  have hsame : SameForReset s { s with pwr.resetHeld := true } := ⟨rfl, rfl, rfl, rfl, rfl, rfl, rfl⟩
  rw [hheld]
  exact ⟨_, done_same s _ rfl rfl, beginReset_resets hsame 4 false false, rfl⟩

theorem pinReset_driven {s : State} {ns : Nat} (hdrive : s.pwr.driveLow = true) (hns : ns ≤ 5000) :
    s.pinReset ns = { s with pwr.resetHeld := true } := if_pos (by simp [hdrive, hns])

/-- RESET_N recognised low is held, whether or not it resets. -/
theorem pinReset_held (s : State) (ns : Nat) : (s.pinReset ns).pwr.resetHeld = true := by
  unfold State.pinReset
  extract_lets p held
  split
  · rfl
  · rfl

/-- Between 150 ns and 250 ns the pulse is recognised or not, a free choice (R624). -/
theorem resetPin_between {s : State} {ns : Nat} (h150 : 150 ≤ ns) (h250 : ns ≤ 250) :
    exec (.resetPin ns) s = .next { s with freeCount := s.freeCount + 1 } ∨ ∃ t, exec (.resetPin ns) s = .next t ∧ t.pwr.resetHeld = true := by
  rw [exec_resetPin]
  unfold execResetPin State.resetPin drawFree
  rw [if_neg (by omega), if_neg (by omega)]
  dsimp only
  split
  · exact .inr ⟨_, rfl, pinReset_held { s with freeCount := s.freeCount + 1 } ns⟩
  · exact .inl (done_same s _ rfl rfl)

/-! ### The host and the watchdog -/

theorem softReset_armed {s : State} (h : HostHears s) (harmed : s.armed = true) : ResetsDriving s .softReset 6 false := by
  refine resetsDriving_of_done (u := s.disarm) ⟨rfl, rfl, rfl, rfl, rfl, rfl, rfl⟩ ?_
  rw [exec_softReset]
  unfold execSoftReset
  rw [hostWord_heard h, deliver_resetKey, if_pos harmed]
  rfl

theorem watchdog_resets {s : State} (hready : s.isReady = true) {k ms : Nat} (hmissed : s.kiln.hbMissed = some k)
    (hms : bits (s.regN bKILN 0) 16 16 = ms) (hon : ms ≠ 0) (hlt : k + ms * 24576 < 4096 * (s.lastBlock + 1)) :
    ResetsDriving s .watchdog 5 false := by
  refine resetsDriving_of_done (u := { s with time := max s.time (k + ms * 24576) }) ⟨rfl, rfl, rfl, rfl, rfl, rfl, rfl⟩ ?_
  rw [exec_watchdog]
  unfold execWatchdog State.watchdog
  rw [if_pos hready, hmissed, hms]
  dsimp only
  rw [if_neg hon, reach_of_lt hlt]

theorem resetWays : Says.ResetWays := by
  intro s rail ns
  refine ⟨resetsDriving_of_done (sameForReset_railLow s 3) rfl, resetsDriving_of_ends (sameForReset_railLow s 3) rfl,
    fun hrail => supplyReset_resets s (by omega) (by omega), fun hawake => supplyReset_resets s (by omega) fun _ => hawake,
    resetsDriving_of_ends (sameForReset_railLow s 0) rfl, softReset_armed,
    fun hready k ms hmissed hms hon hlt => watchdog_resets hready hmissed hms hon hlt, fun hlong houtside => ?_, fun hlong hdrive hshort => ?_,
    fun hshort => ?_, resetPin_between⟩
  · rw [resetPin_long hlong]
    exact pinReset_resets houtside
  · rw [resetPin_long hlong, pinReset_driven hdrive hshort]
    exact done_same s _ rfl rfl
  · rw [exec_resetPin]
    unfold execResetPin State.resetPin
    rw [if_pos hshort]
    exact done_same s s rfl rfl

/-! ### The pins -/

section
variable {s : State} (h : s.pwr.phase = .inReset)
include h

theorem pinsOff_inReset : s.pinsOff = true := by
  unfold State.pinsOff
  rw [h]

theorem notReady_inReset : s.isReady = false := by
  unfold State.isReady
  rw [h]
  rfl

/-- A flash port's pin in reset: its pull, or free of any drive while RESET_N is held low from outside (R633). -/
theorem flashPin_inReset {port : Nat} (hport : port ≠ 1 ∨ s.part.variant ≠ .qk1024n) (idle off : PinDrive) :
    s.flashPin port idle off = if s.pwr.resetHeld then (if idle = .high then .pullUp else .released) else off := by
  unfold State.flashPin
  rw [if_neg (by tauto), if_pos (pinsOff_inReset h)]

end

theorem pinsInReset : Says.PinsInReset := by
  intro s h
  have hoff := pinsOff_inReset h
  have hready := notReady_inReset h
  refine ⟨?_, fun k => ⟨?_, ?_, ?_, ?_⟩, ?_, ?_, ?_, rfl, fun port hport => ⟨?_, ?_, ?_, ?_⟩⟩
  · simp [State.pin, hoff]
  · simp [State.pin, hoff]
  · simp [State.pin, hoff]
  · simp [State.pin, hoff]
  · simp [State.pin, hoff]
  · simp [State.pin, hready, openDrain]
  · simp [State.pin, hready, levelDrive]
  · simp [State.pin, hready, openDrain]
  · exact (flashPin_inReset h hport .high .pullUp).trans (by simp)
  · exact (flashPin_inReset h hport .released .released).trans (by simp)
  · exact (flashPin_inReset h hport .low .pullDown).trans (by simp)
  · simp [State.portListens, hoff]

/-- Settles O56: each way into reset by its cause, and what holds the pins until PLL lock. -/
theorem resetCauses : Obligations.ResetCauses := ⟨resetWays, pinsInReset⟩

end Sys2Proof.Machine
end

section
/-! Waking from standby (R369, R620, R621) and the instructions of the test access port (R648). -/
namespace Sys2Proof.Machine

/-! ### Waking -/

/-- The state that a wake leaves, VDD18M being up: the start sequence from step 3 on, with what woke the part (R621). -/
def State.woken (s : State) (cause : Option (Nat × Nat × Nat)) : State :=
  { s with
    pwr.phase := .released
    pwr.woken := true
    pwr.refUsed := none
    pwr.qualP := none
    pwr.qualB := none
    pwr.holdover := none
    pwr.holdTold := false
    pwr.mainLoop := true
    pwr.standbyLoop := true
    pwr.wakeCause := cause
    pwr.wakeSet := [] }

theorem wake_of_railUp {s : State} (h : nthB s.pwr.railLow 2 = false) (cause : Option (Nat × Nat × Nat)) : s.wake cause = s.woken cause :=
  if_neg (by simp [h])

theorem wakeHost_standby {s : State} (hphase : s.pwr.phase = .standby) (hrail : nthB s.pwr.railLow 2 = false) :
    exec .wakeHost s = .next (s.woken none) := by
  rw [exec_wakeHost, execWakeHost, State.wakeHost, if_pos hphase, wake_of_railUp hrail]
  exact done_same s _ rfl rfl

theorem wakeHost_awake {s : State} (hphase : s.pwr.phase ≠ .standby) : exec .wakeHost s = .next s := by
  rw [exec_wakeHost, execWakeHost, State.wakeHost, if_neg hphase]
  exact done_same s s rfl rfl

/-- The search over the wake comparators finds threshold `k` of channel `c` where it is one of them. -/
theorem wakeSet_any (l : List WakeComp) (c k : Nat) : l.any (fun w => w.ch == c && w.thr == k) = true ↔ WakeComp.mk c k ∈ l := by
  rw [List.any_eq_true]
  constructor
  · rintro ⟨⟨ch, thr⟩, hmem, hw⟩
    obtain ⟨rfl, rfl⟩ : ch = c ∧ thr = k := by simpa using hw
    exact hmem
  · exact fun hmem => ⟨_, hmem, by simp⟩

theorem wakeComparator_armed {s : State} {c k : Nat} (hphase : s.pwr.phase = .standby) (hrail : nthB s.pwr.railLow 2 = false)
    (hset : WakeComp.mk c k ∈ s.pwr.wakeSet) : exec (.wakeComparator c k) s = .next (s.woken (some (c, k, s.time))) := by
  rw [exec_wakeComparator, execWakeComparator, State.wakeComparator, if_pos ⟨hphase, (wakeSet_any _ c k).2 hset⟩, wake_of_railUp hrail]
  exact done_same s _ rfl rfl

theorem wakeComparator_unarmed {s : State} {c k : Nat} (hset : WakeComp.mk c k ∉ s.pwr.wakeSet) : exec (.wakeComparator c k) s = .next s := by
  rw [exec_wakeComparator, execWakeComparator, State.wakeComparator, if_neg fun h => hset ((wakeSet_any _ c k).1 h.2)]
  exact done_same s s rfl rfl

/-! ### The test access port -/

/-- The instruction in force: EXTEST, CLAMP and HIGHZ are BYPASS unless RESET_N is held low from outside (R648). -/
def State.tapInForce (s : State) : TapInstr → TapInstr
  | .extest => if s.pwr.resetHeld then .extest else .bypass
  | .clamp => if s.pwr.resetHeld then .clamp else .bypass
  | .highz => if s.pwr.resetHeld then .highz else .bypass
  | j => j

theorem tapInForce_ne_debug (s : State) {j : TapInstr} (h : j ≠ .debug) : s.tapInForce j ≠ .debug := by
  unfold State.tapInForce
  split
  · split <;> exact TapInstr.noConfusion
  · split <;> exact TapInstr.noConfusion
  · split <;> exact TapInstr.noConfusion
  · exact h

/-- What TAP_INSTRUCTION does, said of the instruction in force. -/
theorem tapInstruction_inForce (s : State) (j : TapInstr) : s.tapInstruction j =
    if s.tapInForce j = .debug ∧ s.clocked ∧ s.pwr.phase ≠ .standby then { s with pwr.tap := s.tapInForce j, pwr.debugHalt := true }
    else { s with pwr.tap := s.tapInForce j } := by
  cases j <;> rfl

/-- An instruction but DEBUG changes nothing besides the instruction in force. -/
theorem tapInstruction_quiet (s : State) {j : TapInstr} (h : j ≠ .debug) :
    exec (.tapInstruction j) s = .next { s with pwr.tap := s.tapInForce j } := by
  rw [exec_tapInstruction, execTapInstruction, tapInstruction_inForce, if_neg fun hdebug => tapInForce_ne_debug s h hdebug.1]
  exact done_same s _ rfl rfl

/-- DEBUG halts a control processor that runs. -/
theorem tapInstruction_debug {s : State} (h : HostHears s) :
    exec (.tapInstruction .debug) s = .next { s with pwr.tap := .debug, pwr.debugHalt := true } := by
  obtain ⟨hclocked, hawake⟩ := h
  rw [exec_tapInstruction, execTapInstruction, tapInstruction_inForce, if_pos ⟨rfl, hclocked, hawake⟩]
  exact done_same s _ rfl rfl

/-- Settles O60: the wakes by the phase and the comparators armed, the instructions of the port by the one in force. -/
theorem wakeAndTap : Obligations.WakeAndTap := by
  intro s c k j
  refine ⟨wakeHost_standby, wakeHost_awake, wakeComparator_armed, wakeComparator_unarmed, fun hj => ?_, fun hj => ?_, tapInstruction_debug⟩
  · rw [tapInstruction_quiet s (by rintro rfl; simp at hj)]
    simp only [List.mem_cons, List.not_mem_nil, or_false] at hj
    obtain rfl | rfl | rfl := hj <;> rfl
  · rw [tapInstruction_quiet s (by rintro rfl; simp at hj)]
    simp only [List.mem_cons, List.not_mem_nil, or_false] at hj
    obtain rfl | rfl | rfl := hj <;> rfl

end Sys2Proof.Machine
end

section
/-! Transfers of the host port (R352, R356, R358, R361 to R366): what is shifted out, a read, and a write of one word. -/
namespace Sys2Proof.Machine

/-! ### The bits shifted out -/

/-- The mask of a word's leading bits, down to bit `m`. -/
theorem leadingMask_getLsbD {m i : Nat} (hm : m ≤ 32) (hi : i < 32) : (w32 (2 ^ 32 - 2 ^ m)).getLsbD i = decide (m ≤ i) := by
  have hpos : 0 < 2 ^ m := Nat.two_pow_pos m
  have hle : 2 ^ m ≤ 2 ^ 32 := Nat.pow_le_pow_right (by decide) hm
  have hsucc : 2 ^ 32 - 2 ^ m = 2 ^ 32 - (2 ^ m - 1 + 1) := by omega
  rw [w32, BitVec.getLsbD_ofNat, hsucc, Nat.testBit_two_pow_sub_succ (by omega), Nat.testBit_two_pow_sub_one]
  simp [hi, ← decide_not]

/-- A word whose bits below `m` are 0 passes the mask whole. -/
theorem and_leadingMask {m : Nat} (hm : m ≤ 32) (w : Word) (hlow : ∀ i < m, w.getLsbD i = false) : w &&& w32 (2 ^ 32 - 2 ^ m) = w := by
  refine BitVec.eq_of_getLsbD_eq fun i hi => ?_
  rw [BitVec.getLsbD_and, leadingMask_getLsbD hm hi]
  by_cases him : m ≤ i
  · simp [him]
  · simp [hlow i (by omega)]

/-- A trailer stands in its word's leading 8 bits (R364). -/
theorem trailer_low (crc : Nat) {i : Nat} (hi : i < 24) : (w32 (crc * 2 ^ 24)).getLsbD i = false := by
  rw [w32, BitVec.getLsbD_ofNat, Nat.testBit_mul_two_pow]
  simp [hi]

theorem cutBits_length (n : Nat) (ws : List Word) : (cutBits n ws).length = (n + 31) / 32 := by simp [cutBits]

theorem nthW_cutBits (n : Nat) (ws : List Word) (i : Nat) :
    nthW (cutBits n ws) i = if i < (n + 31) / 32 then nthW ws i &&& w32 (2 ^ 32 - 2 ^ (32 - min 32 (n - 32 * i))) else 0 := by
  unfold cutBits
  rw [nthW, List.getD_eq_getElem?_getD, List.getElem?_map]
  split
  · next h => rw [List.getElem?_range h]; rfl
  · next h => rw [List.getElem?_eq_none (by simpa using h)]; rfl

/-- A word whose bits beyond the cut are 0 is shifted out whole. -/
theorem nthW_cutBits_whole {n i : Nat} {ws : List Word} (h : 32 * i < n)
    (hlow : ∀ j < 32 - (n - 32 * i), (nthW ws i).getLsbD j = false) : nthW (cutBits n ws) i = nthW ws i := by
  rw [nthW_cutBits, if_pos (by omega)]
  exact and_leadingMask (by omega) _ fun j hj => hlow j (by omega)

theorem nthW_cutBits_full {n i : Nat} {ws : List Word} (h : 32 * i + 32 ≤ n) : nthW (cutBits n ws) i = nthW ws i :=
  nthW_cutBits_whole (by omega) fun j hj => by omega

theorem nthW_cutBits_zero {n i : Nat} {ws : List Word} (h : nthW ws i = 0) : nthW (cutBits n ws) i = 0 := by
  rw [nthW_cutBits, h]
  split
  · exact BitVec.zero_and
  · rfl

/-- Behind a single word nothing but 0 is shifted out. -/
theorem cutBits_single {n : Nat} (h : 32 ≤ n) (w : Word) : cutBits n [w] = w :: List.replicate ((n + 31) / 32 - 1) 0 := by
  refine List.ext_getElem (by rw [cutBits_length, List.length_cons, List.length_replicate]; omega) fun i hi _ => ?_
  have hnth : (cutBits n [w])[i] = nthW (cutBits n [w]) i := (List.getD_eq_getElem _ _ hi).symm
  rw [hnth]
  cases i with
  | zero => exact nthW_cutBits_full (by omega)
  | succ i =>
    rw [nthW_cutBits_zero rfl]
    simp

/-- Fewer than 32 periods shift out the leading bits of the first word (R366). -/
theorem cutBits_short {n : Nat} (h : n < 32) (w : Word) (ws : List Word) :
    cutBits n (w :: ws) = if n = 0 then [] else [w &&& w32 (2 ^ 32 - 2 ^ (32 - n))] := by
  have hmin : min 32 n = n := by omega
  split
  · next h0 => rw [h0]; rfl
  · next h0 =>
    have hone : (n + 31) / 32 = 1 := by omega
    simp [cutBits, hone, nthW, hmin]

/-! ### A transfer that the part hears -/

theorem hostTransfer_heard {s : State} (h : HostHears s) (x : Transfer) : s.hostTransfer x =
    (let u : State := { s with host.sdo := s.shiftOut x }
     if x.bits < 32 then u.frameErr
     else if hdrRead x.header then
       let v := u.ticksOn ((x.ticks.take (hdrCount x.header)).foldl max 0)
       if x.bits < 32 + 32 * hdrCount x.header + (if s.host.crcEn then 8 else 0) then v.frameErr else v
     else u.writeTransfer x) := by
  obtain ⟨hclocked, hawake⟩ := h
  unfold State.hostTransfer
  split
  · next hp => simp [State.clocked, hp] at hclocked
  · next hp => simp [State.clocked, hp] at hclocked
  · next hp => exact absurd hp hawake
  · rfl

/-- Fewer than 32 periods are a framing error (R366). -/
theorem hostTransfer_short {s : State} (h : HostHears s) {x : Transfer} (hbits : x.bits < 32) :
    exec (.hostTransfer x) s = .next { s.hostErr with
      host.frameErr := true
      host.sdo := if x.bits = 0 then [] else [s.statusReg &&& w32 (2 ^ 32 - 2 ^ (32 - x.bits))] } := by
  rw [exec_hostTransfer, execHostTransfer, hostTransfer_heard h]
  dsimp only
  rw [if_pos hbits, State.shiftOut, cutBits_short hbits]
  exact done_same s _ rfl rfl

/-! ### A read -/

theorem hostTransfer_read {s : State} (h : HostHears s) {x : Transfer} (hread : hdrRead x.header = true)
    (hbits : 32 + 32 * hdrCount x.header + (if s.host.crcEn then 8 else 0) ≤ x.bits) :
    exec (.hostTransfer x) s = .next { s.ticksOn ((x.ticks.take (hdrCount x.header)).foldl max 0) with host.sdo := s.shiftOut x } := by
  rw [exec_hostTransfer, execHostTransfer, hostTransfer_heard h]
  dsimp only
  rw [if_neg (by omega), if_pos hread, if_neg (by omega)]
  exact done_same s _ rfl rfl

theorem readWords_length (s : State) (x : Transfer) : (s.readWords x).length = hdrCount x.header := by simp [State.readWords]

theorem nthW_readWords (s : State) (x : Transfer) {k : Nat} (hk : k < hdrCount x.header) :
    nthW (s.readWords x) k = (s.ticksOn (nth x.ticks k)).hostRead (hdrAddr x.header + 4 * k) := by
  unfold State.readWords
  rw [nthW, List.getD_eq_getElem?_getD, List.getElem?_map, List.getElem?_range hk]
  rfl

/-- The trailer of a read, where CRC is on (R364). -/
def State.readTrailer (s : State) (x : Transfer) : List Word :=
  if s.host.crcEn then [w32 (crcOver x.header (s.readWords x) * 2 ^ 24)] else []

theorem shiftOut_read {s : State} {x : Transfer} (hread : hdrRead x.header = true) :
    s.shiftOut x = cutBits x.bits (s.statusReg :: (s.readWords x ++ s.readTrailer x)) := by
  simp [State.shiftOut, State.readTrailer, hread]

/-- The stream of a read behind its words: the trailer, then 0. -/
theorem nthW_readStream (s : State) (x : Transfer) (k : Nat) :
    nthW (s.statusReg :: (s.readWords x ++ s.readTrailer x)) (hdrCount x.header + 1 + k) = nthW (s.readTrailer x) k := by
  have hindex : hdrCount x.header + 1 + k = (s.readWords x).length + k + 1 := by rw [readWords_length]; omega
  rw [hindex, nthW, List.getD_cons_succ, List.getD_append_right _ _ _ _ (by omega), Nat.add_sub_cancel_left]
  rfl

section
variable {s : State} {x : Transfer} (hread : hdrRead x.header = true)
  (hbits : 32 + 32 * hdrCount x.header + (if s.host.crcEn then 8 else 0) ≤ x.bits)
include hread hbits

theorem read_status : nthW (s.shiftOut x) 0 = s.statusReg := by
  rw [shiftOut_read hread, nthW_cutBits_full (by omega)]
  rfl

theorem read_word {k : Nat} (hk : k < hdrCount x.header) :
    nthW (s.shiftOut x) (k + 1) = (s.ticksOn (nth x.ticks k)).hostRead (hdrAddr x.header + 4 * k) := by
  rw [shiftOut_read hread, nthW_cutBits_full (by omega), ← nthW_readWords s x hk]
  exact List.getD_append _ _ _ _ (by rwa [readWords_length])

theorem read_trailer : nthW (s.shiftOut x) (hdrCount x.header + 1) =
    if s.host.crcEn then w32 (crcOver x.header (s.readWords x) * 2 ^ 24) else 0 := by
  have hstream := nthW_readStream s x 0
  rw [shiftOut_read hread]
  unfold State.readTrailer at hstream ⊢
  cases hcrc : s.host.crcEn with
  | false =>
    rw [hcrc] at hstream
    exact nthW_cutBits_zero hstream
  | true =>
    rw [hcrc] at hstream
    rw [hcrc, if_pos rfl] at hbits
    refine (nthW_cutBits_whole (by omega) fun j hj => ?_).trans hstream
    rw [show hdrCount x.header + 1 = hdrCount x.header + 1 + 0 from rfl, hstream]
    exact trailer_low _ (by omega)

omit hbits in
theorem read_rest {k : Nat} (hk : hdrCount x.header + 1 < k) : nthW (s.shiftOut x) k = 0 := by
  obtain ⟨j, rfl⟩ : ∃ j, k = hdrCount x.header + 1 + (j + 1) := ⟨k - (hdrCount x.header + 2), by omega⟩
  rw [shiftOut_read hread]
  refine nthW_cutBits_zero ((nthW_readStream s x (j + 1)).trans ?_)
  unfold State.readTrailer
  split <;> rfl

end

/-! ### A delivered word -/

/-- What no delivered word changes, though a reset that it keys may: the queue, the part and the count of transfers. -/
def SameAccount (s t : State) : Prop := t.pending = s.pending ∧ t.part = s.part ∧ t.host.xferCnt = s.host.xferCnt

theorem SameAccount.ite {s t u : State} {p : Prop} [Decidable p] (ht : SameAccount s t) (hu : SameAccount s u) :
    SameAccount s (if p then t else u) := by
  split
  · exact ht
  · exact hu

theorem handHalf_account {s t : State} (ht : SameAccount s t) (h : Nat) : SameAccount s (t.handHalf h) := .ite ht ht

theorem directWrite_account (s : State) (o : Nat) (v : Word) : SameAccount s (s.directWrite o v) := by
  have hs : SameAccount s s := ⟨rfl, rfl, rfl⟩
  unfold State.directWrite
  extract_lets ring
  split
  · exact hs
  · split
    case h_3 =>
      have hfirst := SameAccount.ite (p := v.getLsbD 1) (handHalf_account hs 0) hs
      exact .ite (.ite (handHalf_account hfirst 1) hfirst) (.ite (handHalf_account hfirst 1) hfirst)
    case h_11 => exact .ite hs hs
    all_goals exact hs

theorem mailboxWrite_account (s : State) (a : Nat) (v : Word) : SameAccount s (s.mailboxWrite a v) := by
  have hs : SameAccount s s := ⟨rfl, rfl, rfl⟩
  exact .ite hs (.ite hs (.ite hs (.ite hs hs)))

theorem deliver_account (s : State) (addr : Nat) (v : Word) : SameAccount s (s.deliver addr v).1 := by
  have hs : SameAccount s s := ⟨rfl, rfl, rfl⟩
  unfold State.deliver
  extract_lets a was d
  split
  · split
    case h_3 => exact .ite hs hs
    all_goals exact hs
  · split
    · exact directWrite_account d a v
    · split
      · exact mailboxWrite_account d a v
      · exact hs

/-- No word but the second key starts a reset (R378). -/
theorem deliver_noReset {addr : Nat} {v : Word} (h : ¬ (addr / 4 * 4 = 0x74 ∧ v.toNat % 65536 = 0xA5A5)) (s : State) :
    (s.deliver addr v).2 = false := by
  unfold State.deliver
  extract_lets a was d
  split
  · next ha =>
    split
    case h_2 hv => exact absurd ⟨ha, hv⟩ h
    all_goals rfl
  · split
    · rfl
    · split <;> rfl

/-- A word is delivered at its aligned address. -/
theorem deliver_aligned (s : State) (addr : Nat) (v : Word) : s.deliver (addr / 4 * 4) v = s.deliver addr v := by
  have ha : addr / 4 * 4 / 4 * 4 = addr / 4 * 4 := by omega
  simp only [State.deliver, ha]

theorem registerWrite_heard {s : State} (h : HostHears s) {addr : Nat} {v : Word} (hreset : (s.deliver addr v).2 = false) :
    exec (.registerWrite addr v) s = .next (s.deliver addr v).1 := by
  obtain ⟨hpending, hpart, -⟩ := deliver_account s addr v
  rw [exec_registerWrite]
  exact done_hostWord h (Prod.ext rfl hreset) hpending hpart

/-! ### A write of one word -/

/-- A write transfer of one word that meets no write of the control processor. -/
def OneWord (x : Transfer) : Prop := hdrRead x.header = false ∧ x.collide = none ∧ hdrCount x.header = 1

theorem deliverAll_one (s : State) {x : Transfer} (hx : OneWord x) (addr : Nat) :
    s.deliverAll x addr 1 0 = s.deliver addr (nthW x.data 0) := by
  obtain ⟨-, hcollide, -⟩ := hx
  simp [State.deliverAll, hcollide, deliver_aligned]

/-- The state whose shift register held STATUS and `k` words of 0. -/
def State.shiftsStatus (s : State) (k : Nat) : State := { s with host.sdo := s.statusReg :: List.replicate k 0 }

/-- The state after a write transfer of one word that counts (R365). -/
def State.wroteWord (s : State) (x : Transfer) : State :=
  let t := (s.deliver (hdrAddr x.header) (nthW x.data 0)).1
  { t with host.xferCnt := (s.host.xferCnt + 1) % 256 }

section
variable {s : State} {x : Transfer} (hx : OneWord x)
include hx

theorem writeTransfer_plain (hreset : (s.deliver (hdrAddr x.header) (nthW x.data 0)).2 = false) (hcrc : s.host.crcEn = false)
    (hbits : x.bits = 64) : s.writeTransfer x = s.wroteWord x := by
  obtain ⟨-, -, hcount⟩ := id hx
  obtain ⟨-, -, hxfer⟩ := deliver_account s (hdrAddr x.header) (nthW x.data 0)
  simp [State.writeTransfer, State.wroteWord, hcrc, hbits, hcount, deliverAll_one s hx, hreset, hxfer]

theorem writeTransfer_covered (hreset : (s.deliver (hdrAddr x.header) (nthW x.data 0)).2 = false) (hcrc : s.host.crcEn = true)
    (hbits : x.bits = 72) (htrailer : crcOver x.header [nthW x.data 0] = x.trailer.toNat) : s.writeTransfer x = s.wroteWord x := by
  obtain ⟨-, -, hcount⟩ := id hx
  obtain ⟨-, -, hxfer⟩ := deliver_account s (hdrAddr x.header) (nthW x.data 0)
  simp [State.writeTransfer, State.wroteWord, hcrc, hbits, hcount, htrailer, deliverAll_one s hx, hreset, hxfer]

/-- A bad trailer delivers nothing (R364). -/
theorem writeTransfer_badTrailer (hcrc : s.host.crcEn = true) (hbits : x.bits = 72)
    (htrailer : crcOver x.header [nthW x.data 0] ≠ x.trailer.toNat) :
    s.writeTransfer x = { s.hostErr with host.crcErr := true } := by
  obtain ⟨-, -, hcount⟩ := hx
  unfold State.writeTransfer
  dsimp only
  rw [if_pos hcrc, if_neg (by simp [hbits, hcount]), if_pos (by simpa [hcount] using htrailer)]
  rfl

/-- A write shifts out STATUS, then 0 (R356). -/
theorem hostTransfer_write (h : HostHears s) (hbits : 32 ≤ x.bits) :
    s.hostTransfer x = (s.shiftsStatus ((x.bits + 31) / 32 - 1)).writeTransfer x := by
  obtain ⟨hwrite, -, -⟩ := hx
  have hout : s.shiftOut x = s.statusReg :: List.replicate ((x.bits + 31) / 32 - 1) 0 := by
    rw [← cutBits_single hbits]
    simp [State.shiftOut, hwrite]
  rw [hostTransfer_heard h, State.shiftsStatus, ← hout]
  dsimp only
  rw [if_neg (by omega), if_neg (by simp [hwrite])]

end

/-- A write transfer of one word does what a register write does, and counts. -/
theorem hostTransfer_wroteWord {s u : State} {x : Transfer} (hs : HostHears u) (hq : u.pending = s.pending) (hp : u.part = s.part)
    (hreset : (u.deliver (hdrAddr x.header) (nthW x.data 0)).2 = false) (hwrote : s.hostTransfer x = u.wroteWord x) :
    ∃ t, exec (.registerWrite (hdrAddr x.header) (nthW x.data 0)) u = .next t
      ∧ exec (.hostTransfer x) s = .next { t with host.xferCnt := (u.host.xferCnt + 1) % 256 } := by
  obtain ⟨hpending, hpart, -⟩ := deliver_account u (hdrAddr x.header) (nthW x.data 0)
  refine ⟨_, registerWrite_heard hs hreset, ?_⟩
  rw [exec_hostTransfer, execHostTransfer, hwrote]
  exact done_same s _ (hpending.trans hq) (hpart.trans hp)

/-- Settles O10: the words of a read by their place in the stream, a write of one word by its delivery. -/
theorem hostTransfers : Obligations.HostTransfers := by
  intro s x h
  refine ⟨fun hread hbits => ⟨_, hostTransfer_read h hread hbits, rfl, cutBits_length _ _, read_status hread hbits,
    fun k hk => read_word hread hbits hk, read_trailer hread hbits, fun k hk => read_rest hread hk⟩,
    fun ⟨hwrite, hcollide, hcount, hkey⟩ hcrc hbits => ?_, fun ⟨hwrite, hcollide, hcount, hkey⟩ hcrc hbits htrailer => ?_,
    fun ⟨hwrite, hcollide, hcount, hkey⟩ hcrc hbits htrailer => ?_, hostTransfer_short h⟩
  · have hx : OneWord x := ⟨hwrite, hcollide, hcount⟩
    refine hostTransfer_wroteWord h rfl rfl (deliver_noReset hkey _) ?_
    rw [hostTransfer_write hx h (by omega), hbits]
    exact writeTransfer_plain hx (deliver_noReset hkey _) hcrc hbits
  · have hx : OneWord x := ⟨hwrite, hcollide, hcount⟩
    refine hostTransfer_wroteWord h rfl rfl (deliver_noReset hkey _) ?_
    rw [hostTransfer_write hx h (by omega), hbits]
    exact writeTransfer_covered hx (deliver_noReset hkey _) hcrc hbits htrailer
  · have hx : OneWord x := ⟨hwrite, hcollide, hcount⟩
    rw [exec_hostTransfer, execHostTransfer, hostTransfer_write hx h (by omega), hbits,
      writeTransfer_badTrailer (s := s.shiftsStatus 2) hx hcrc hbits htrailer]
    exact done_same s _ rfl rfl

end Sys2Proof.Machine
end

section
/-! The canonical form of the addressed memories (R354, R454, R579): what the units' work on the state does to it. -/
namespace Sys2Proof.Machine

/-! ### The form -/

/-- The part is of variant `v`, and each addressed memory is in its canonical form. -/
structure CanonicalOf (v : Variant) (s : State) : Prop where
  variant : s.part.variant = v
  mailbox : swf (fun _ => (0 : Word)) s.host.mailbox = true
  copX    : swf (fun _ => (0 : Word)) s.cop.x = true
  copY    : swf (fun _ => (0 : Word)) s.cop.y = true
  scratch : swf (fun _ => (0 : Word)) s.mem.scratch = true
  flash   : swf flashErased s.store.flash = true
  regs    : swf (regDefault v) s.regs = true

theorem canonical_iff (s : State) : s.canonical = true ↔ CanonicalOf s.part.variant s := by
  simp only [State.canonical, Bool.and_eq_true]
  constructor
  · rintro ⟨⟨⟨⟨⟨hmailbox, hx⟩, hy⟩, hscratch⟩, hflash⟩, hregs⟩
    exact ⟨rfl, hmailbox, hx, hy, hscratch, hflash, hregs⟩
  · rintro ⟨-, hmailbox, hx, hy, hscratch, hflash, hregs⟩
    exact ⟨⟨⟨⟨⟨hmailbox, hx⟩, hy⟩, hscratch⟩, hflash⟩, hregs⟩

/-- What the form is said of. -/
def State.addressed (s : State) : Variant × Sparse Word × Sparse Word × Sparse Word × Sparse Word × Sparse Byte × Sparse Word :=
  (s.part.variant, s.host.mailbox, s.cop.x, s.cop.y, s.mem.scratch, s.store.flash, s.regs)

/-- A row ends in canonical form where its work does: the part is put back as it stood. -/
theorem canonical_of_done {s t u : State} (h : CanonicalOf s.part.variant t) (hdone : s.done t = .next u) : u.canonical = true := by
  obtain rfl : { t with pending := s.pending, part := s.part } = u := Host.Outcome.next.inj hdone
  exact (canonical_iff _).2 { h with variant := rfl }

namespace CanonicalOf
variable {v : Variant} {s t : State}

/-- Work on anything else keeps the form. -/
theorem frame (h : CanonicalOf v s) (e : t.addressed = s.addressed) : CanonicalOf v t := by
  obtain ⟨hvariant, hmailbox, hx, hy, hscratch, hflash, hregs⟩ := h
  simp only [State.addressed, Prod.mk.injEq] at e
  obtain ⟨e1, e2, e3, e4, e5, e6, e7⟩ := e
  exact ⟨e1 ▸ hvariant, e2 ▸ hmailbox, e3 ▸ hx, e4 ▸ hy, e5 ▸ hscratch, e6 ▸ hflash, e7 ▸ hregs⟩

theorem ite {p : Prop} [Decidable p] (hs : CanonicalOf v s) (ht : CanonicalOf v t) : CanonicalOf v (if p then s else t) := by
  split
  · exact hs
  · exact ht

theorem foldl {α : Type} {f : State → α → State} (hf : ∀ u a, CanonicalOf v u → CanonicalOf v (f u a)) (l : List α) (h : CanonicalOf v s) :
    CanonicalOf v (l.foldl f s) :=
  List.foldlRecOn l f h fun u hu a _ => hf u a hu

/-! ### Registers and rings -/

theorem setReg (h : CanonicalOf v s) (b o : Nat) (w : Word) : CanonicalOf v (s.setReg b o w) := by
  obtain rfl := h.variant
  exact { h with regs := swf_sput _ _ _ _ h.regs }

theorem countReg (h : CanonicalOf v s) (b o lo n k : Nat) : CanonicalOf v (s.countReg b o lo n k) := h.setReg _ _ _

theorem setMbx (h : CanonicalOf v s) (i : Nat) (w : Word) : CanonicalOf v (s.setMbx i w) :=
  { h with mailbox := swf_sput _ _ _ _ h.mailbox }

theorem ringWrite (h : CanonicalOf v s) (base n i : Nat) (ws : List Word) : CanonicalOf v (s.ringWrite base n i ws) := by
  induction ws generalizing s i with
  | nil => exact h
  | cons w ws ih => exact ih (h.setMbx _ w) _

theorem irq (h : CanonicalOf v s) (k : Nat) : CanonicalOf v (s.irq k) := h.frame rfl

theorem eventCounted (h : CanonicalOf v s) (head seq : Nat) : CanonicalOf v { s with host.evtHead := head, fw.evtSeq := seq } := h.frame rfl

theorem putEvent (h : CanonicalOf v s) (code session : Nat) (ws : List Word) : CanonicalOf v (s.putEvent code session ws) :=
  ((h.ringWrite _ _ _ _).eventCounted _ _).irq 1

theorem checkEvtTail (h : CanonicalOf v s) : CanonicalOf v s.checkEvtTail := by
  refine .ite (h.frame rfl) (putEvent ?_ _ _ _)
  exact h.frame rfl

theorem postOverflow (h : CanonicalOf v s) : CanonicalOf v s.postOverflow := by
  refine .ite h (putEvent ?_ _ _ _)
  exact h.frame rfl

theorem event (h : CanonicalOf v s) (code session : Nat) (ws : List Word) : CanonicalOf v (s.event code session ws) :=
  have hroom : CanonicalOf v s.checkEvtTail.postOverflow := h.checkEvtTail.postOverflow
  .ite h (.ite (hroom.frame rfl) (hroom.putEvent _ _ _))

theorem complete (h : CanonicalOf v s) (j : Job) (status : Nat) (ws : List Word) : CanonicalOf v (s.complete j status ws) := by
  have hu : CanonicalOf v { s with fw.jobs := s.fw.jobs.erase j } := h.frame rfl
  unfold State.complete
  dsimp only
  split
  · exact hu.event _ _ _
  · exact .ite (hu.frame rfl) hu

/-! ### The diagnostic job and the safe state -/

theorem restoreDiag (h : CanonicalOf v s) (d : DiagJob) : CanonicalOf v (s.restoreDiag d) :=
  (foldl (fun _ _ hu => hu.setReg _ _ _) d.saved h).frame rfl

theorem endDiag (h : CanonicalOf v s) (status : Nat) : CanonicalOf v (s.endDiag status) := by
  unfold State.endDiag
  split
  · exact h
  · next d _ =>
    have hu : CanonicalOf v { s.restoreDiag d with fw.diag := none } := (h.restoreDiag d).frame rfl
    dsimp only
    split
    · exact hu.complete _ _ _
    · exact hu

theorem enterSafe (h : CanonicalOf v s) : CanonicalOf v s.enterSafe := .ite h ((h.endDiag _).frame rfl)

/-! ### A message at the Kiln -/

theorem setLatch (h : CanonicalOf v s) (m : BitVec 64) : CanonicalOf v (s.setLatch m) := .ite h (h.frame rfl)

theorem report (h : CanonicalOf v s) (m : BitVec 64) (master access : Nat) : CanonicalOf v (s.report m master access) :=
  .ite h (.ite (.ite (h.setLatch m) h) (h.frame rfl))

theorem countMsg (h : CanonicalOf v s) (m : BitVec 64) : CanonicalOf v (s.countMsg m) :=
  (ite (h.countReg _ _ _ _ _) (h.countReg _ _ _ _ _)).frame rfl

theorem logRecord (h : CanonicalOf v s) (m : BitVec 64) (t master access flags : Nat) : CanonicalOf v (s.logRecord m t master access flags) := by
  refine .ite (countReg ?_ _ _ _ _ _) ?_
  · exact h.frame rfl
  · exact h.frame rfl

/-- The capture set takes a message, or merges it where it is held (R328, R329). -/
theorem captureOrMerge (h : CanonicalOf v s) (held : Bool) (m : BitVec 64) (t master access : Nat) (fromLatch : Bool) :
    CanonicalOf v (if held then s.merge m else s.capture m t master access fromLatch) :=
  .ite (h.frame rfl) (h.frame rfl)

theorem startAction (h : CanonicalOf v s) (m : BitVec 64) (record : Nat) : CanonicalOf v (s.startAction m record) :=
  .ite h (.ite (h.frame rfl) (h.frame rfl))

theorem takeC3 (h : CanonicalOf v s) (m : BitVec 64) (master access : Nat) : CanonicalOf v (s.takeC3 m master access) :=
  (((((h.countMsg m).captureOrMerge _ m _ _ _ _).logRecord _ _ _ _ _).setLatch m).enterSafe)

theorem takeSafeActions (h : CanonicalOf v s) : CanonicalOf v s.takeSafeActions := by
  unfold State.takeSafeActions
  split
  · exact h
  · refine .ite h (takeC3 ?_ _ _ _)
    exact h.frame rfl

theorem takeMsg (h : CanonicalOf v s) (m : BitVec 64) (master access : Nat) : CanonicalOf v (s.takeMsg m master access) := by
  have hcounted : CanonicalOf v (s.countMsg m) := h.countMsg m
  unfold State.takeMsg
  refine .ite h (.ite ?_ (.ite (hcounted.logRecord _ _ _ _ _) (.ite (h.takeC3 _ _ _) ?_)))
  · exact (hcounted.logRecord _ _ _ _ _).frame rfl
  · exact (((hcounted.captureOrMerge _ m _ _ _ _).logRecord _ _ _ _ _).startAction _ _).takeSafeActions

theorem c0Rate (h : CanonicalOf v s) (m : BitVec 64) (master access : Nat) : CanonicalOf v (s.c0Rate m master access) := by
  refine .ite h (.ite ?_ (takeMsg ?_ _ _ _))
  · exact h.frame rfl
  · exact h.frame rfl

theorem hear (h : CanonicalOf v s) : CanonicalOf v s.hear :=
  foldl (fun _ _ hu => (hu.takeMsg _ _ _).c0Rate _ _ _) _ (h.frame rfl)

/-! ### Resets and words of the host -/

/-- A reset clears the memories but the flash devices (R626). -/
theorem beginReset (h : CanonicalOf v s) (bit : Nat) (drives lost : Bool) : CanonicalOf v (s.beginReset bit drives lost) :=
  ⟨h.variant, rfl, rfl, rfl, rfl, h.flash, rfl⟩

theorem wake (h : CanonicalOf v s) (cause : Option (Nat × Nat × Nat)) : CanonicalOf v (s.wake cause) :=
  .ite (h.beginReset _ _ _) (h.frame rfl)

theorem handHalf (h : CanonicalOf v s) (k : Nat) : CanonicalOf v (s.handHalf k) := .ite h (h.frame rfl)

theorem directWrite (h : CanonicalOf v s) (o : Nat) (w : Word) : CanonicalOf v (s.directWrite o w) := by
  unfold State.directWrite
  extract_lets ring
  split
  · exact h.frame rfl
  · split
    case h_3 =>
      have hfirst := ite (p := w.getLsbD 1) (h.handHalf 0) h
      have hboth := ite (p := w.getLsbD 2) (hfirst.handHalf 1) hfirst
      exact .ite (hboth.frame rfl) hboth
    case h_11 => exact .ite (h.frame rfl) h
    all_goals exact h.frame rfl

theorem mailboxWrite (h : CanonicalOf v s) (a : Nat) (w : Word) : CanonicalOf v (s.mailboxWrite a w) :=
  have herr : CanonicalOf v s.addrErr := h.frame rfl
  .ite herr (.ite (h.setMbx _ w) (.ite herr (.ite herr (h.setMbx _ w))))

theorem deliver (h : CanonicalOf v s) (addr : Nat) (w : Word) : CanonicalOf v (s.deliver addr w).1 := by
  have hdisarmed : CanonicalOf v s.disarm := h.frame rfl
  unfold State.deliver
  extract_lets a was d
  split
  · split
    case h_3 => exact .ite (hdisarmed.frame rfl) hdisarmed
    all_goals exact hdisarmed.frame rfl
  · split
    · exact hdisarmed.directWrite a w
    · split
      · exact hdisarmed.mailboxWrite a w
      · exact hdisarmed.frame rfl

theorem hostWord (h : CanonicalOf v s) (addr : Nat) (w : Word) : CanonicalOf v (s.hostWord addr w) := by
  unfold State.hostWord
  split
  · exact h
  · exact h
  · exact h.wake none
  · exact .ite ((h.deliver addr w).beginReset _ _ _) (h.deliver addr w)

/-! ### Banks and atomic operations -/

theorem wakeBank (h : CanonicalOf v s) (b : Nat) : CanonicalOf v (s.wakeBank b) := by
  unfold State.wakeBank
  split <;> exact h.frame rfl

theorem accessBank (h : CanonicalOf v s) (b : Nat) : CanonicalOf v (s.accessBank b) := by
  unfold State.accessBank
  split
  · exact (h.wakeBank b).countReg _ _ _ _ _
  · exact (h.wakeBank b).countReg _ _ _ _ _
  · exact h

theorem runAtomic (h : CanonicalOf v s) (o : StalledOp) : CanonicalOf v (s.runAtomic o) :=
  .ite (h.report _ _ _) { h with scratch := swf_sput _ _ _ _ h.scratch }

theorem atomic (h : CanonicalOf v s) (a : Nat) (swap : Bool) (w : Word) (bad : Bool) : CanonicalOf v (s.atomic a swap w bad) :=
  .ite h (.ite (h.runAtomic _) ((h.accessBank _).frame rfl))

theorem resumeBank (h : CanonicalOf v s) (b : Nat) : CanonicalOf v (s.resumeBank b) :=
  foldl (fun _ o hu => hu.runAtomic o) _ (h.frame rfl)

/-- A bank whose content is lost drops its entries (R582). -/
theorem loseBank (h : CanonicalOf v s) (b : Nat) : CanonicalOf v (s.loseBank b) :=
  .ite (h.frame rfl) { h with scratch := swf_filter _ _ _ h.scratch }

theorem bankUp (h : CanonicalOf v s) (b : Nat) : CanonicalOf v ((s.setBank b .on).resumeBank b) := by
  refine resumeBank ?_ b
  exact h.frame rfl

end CanonicalOf

end Sys2Proof.Machine
end

section
/-! The canonical form of the Copper's X and Y memories (R454): every write in flight, parameter and crossfade step keeps it. -/
namespace Sys2Proof.Machine

/-- X and Y are in canonical form. -/
def Copper.Canonical (c : Copper) : Prop := swf (fun _ => (0 : Word)) c.x = true ∧ swf (fun _ => (0 : Word)) c.y = true

theorem CanonicalOf.copper {v : Variant} {s : State} (h : CanonicalOf v s) : s.cop.Canonical := ⟨h.copX, h.copY⟩

theorem CanonicalOf.withCopper {v : Variant} {s : State} (h : CanonicalOf v s) {c : Copper} (hc : c.Canonical) :
    CanonicalOf v { s with cop := c } :=
  { h with copX := hc.1, copY := hc.2 }

namespace Copper.Canonical
variable {c e : Copper}

/-- Work on anything but the two memories keeps the form. -/
theorem frame (h : c.Canonical) (hx : e.x = c.x) (hy : e.y = c.y) : e.Canonical := ⟨hx ▸ h.1, hy ▸ h.2⟩

theorem ite {p : Prop} [Decidable p] (hc : c.Canonical) (he : e.Canonical) : (if p then c else e).Canonical := by
  split
  · exact hc
  · exact he

theorem foldl {α : Type} {f : Copper → α → Copper} (hf : ∀ (u : Copper) a, u.Canonical → (f u a).Canonical) (l : List α) (h : c.Canonical) :
    (l.foldl f c).Canonical :=
  List.foldlRecOn l f h fun u hu a _ => hf u a hu

theorem xPut (h : c.Canonical) (a : Nat) (w : Word) : (c.xPut a w).Canonical := ⟨swf_sput _ _ _ _ h.1, h.2⟩
theorem yPut (h : c.Canonical) (a : Nat) (w : Word) : (c.yPut a w).Canonical := ⟨h.1, swf_sput _ _ _ _ h.2⟩

/-! ### An instruction -/

theorem writeCode (h : c.Canonical) (r : Nat) (w : Word) : (c.writeCode r w).Canonical := by
  unfold Copper.writeCode
  refine .ite h (.ite h (.ite h (.ite h (.ite h (.ite h ?_)))))
  split <;> exact h

theorem ioWrite (h : c.Canonical) (a : Nat) (w : Word) : (c.ioWrite a w).Canonical :=
  .ite h (.ite h (.ite h (.ite h (.ite h h))))

theorem land (h : c.Canonical) (f : Flight) : (c.land f).Canonical := by
  unfold Copper.land
  split
  · exact h.writeCode _ _
  · exact h.xPut _ _
  · exact h.yPut _ _
  · exact h.ioWrite _ _

theorem landAll (h : c.Canonical) : c.landAll.Canonical := (foldl (fun _ f hu => hu.land f) c.flights h).frame rfl rfl

theorem store (h : c.Canonical) (ef : Effect) : (c.store ef).Canonical :=
  (foldl (fun _ x hu => hu.writeCode x.1 x.2) ef.codes h).frame rfl rfl

theorem settle (h : c.Canonical) (ef : Effect) : (c.settle ef).Canonical := (h.landAll.store ef).frame rfl rfl

theorem advance (h : c.Canonical) (before : Copper) (ef : Effect) : (c.advance before ef).Canonical :=
  have hrest : (c.advance before ef).rest = c.rest := Copper.advance_rest c before ef
  h.frame (congrArg Copper.x hrest :) (congrArg Copper.y hrest :)

theorem finish (h : c.Canonical) (ef : Effect) : (c.finish ef).Canonical := (h.settle ef).advance c ef

theorem carryOut (h : c.Canonical) (ef : Effect) : (c.carryOut ef).Canonical := by
  unfold Copper.carryOut
  split
  · exact .ite (h.settle {}) (h.finish ef)
  · exact h.finish ef

/-! ### Interrupts, traps and frames -/

theorem enter (h : c.Canonical) (k : Nat) : (c.enter k).Canonical := h.landAll
theorem trap (h : c.Canonical) : c.trap.Canonical := h.landAll
theorem endPass (h : c.Canonical) : c.endPass.Canonical := .ite h h

theorem handOver (h : c.Canonical) (f : Nat) : (c.handOver f).Canonical := h

theorem applyParam (h : c.Canonical) (p : Bool × Nat × Word) : (c.applyParam p).Canonical := by
  have hx : (c.xPut p.2.1 p.2.2).Canonical := h.xPut _ _
  unfold Copper.applyParam
  split
  · exact h.yPut _ _
  · extract_lets u
    split
    · exact .ite hx hx
    · exact hx

theorem applyParams (h : c.Canonical) : c.applyParams.Canonical := (foldl (fun _ p hu => hu.applyParam p) c.params h).frame rfl rfl

theorem fadeStep (h : c.Canonical) : c.fadeStep.Canonical := by
  unfold Copper.fadeStep
  split
  · exact h
  · exact ⟨swf_sputs _ _ _ _ h.1, h.2⟩

theorem beginPass (h : c.Canonical) : c.beginPass.Canonical := .ite h (.ite h (.ite (h.finish {}) h))

end Copper.Canonical

/-! ### The Copper's rows -/

theorem CanonicalOf.copperFrame {v : Variant} {s : State} (h : CanonicalOf v s) : CanonicalOf v s.copperFrame := by
  unfold State.copperFrame
  split
  · exact h
  · split
    · exact h
    · next f _ =>
      have hframe : CanonicalOf v (s.atFrame f) := h.frame rfl
      have hpass : CanonicalOf v { s.atFrame f with cop := (s.atFrame f).cop.endPass.handOver f } :=
        hframe.withCopper (hframe.copper.endPass.handOver f)
      have hlatched : CanonicalOf v (State.latchInputs { s.atFrame f with cop := (s.atFrame f).cop.endPass.handOver f } f).coresLeave :=
        hpass.frame rfl
      exact hlatched.withCopper hlatched.copper.applyParams.fadeStep.beginPass

theorem CanonicalOf.copperInterrupt {v : Variant} {s : State} (h : CanonicalOf v s) : CanonicalOf v s.copperInterrupt := by
  unfold State.copperInterrupt
  split
  · exact h
  · split
    · exact h.withCopper (h.copper.enter _)
    · exact h

theorem CopperInstr.ok {i : Instr} (hi : CopperInstr i) : copperOk i = true := by
  obtain ⟨w, hw⟩ := hi
  unfold decodeCopper at hw
  split at hw
  · split at hw
    · next hok =>
      cases hw
      exact hok
    · cases hw
  · cases hw

/-- A command that a program word spells has the row of an instruction. -/
theorem exec_copperInstr {i : Instr} (hi : CopperInstr i) (s : State) : ∃ eff, exec i s = s.copperRow i eff := by
  have hok : copperOk i = true := hi.ok
  cases i with
  | cNop | cMpy | cMac | cMsu | cCmpy | cCmac | cCmsu | cCmacj | cAdd | cSub | cAdds | cSubs | cAnd | cOr | cXor | cAbs | cSha
  | cShl | cAadd | cAsub | cAsh | cRnd | cClr | cCmp | cTsta | cMaxi | cMini | cMvc
  | cLdi | cMv | cLdx | cLdy | cStx | cSty | cLdio | cStio | cPush | cPop
  | cBr | cCall | cRet | cReti | cLoop | cRep | cWfr =>
    dsimp only [exec]
    exact ⟨_, rfl⟩
  | _ => exact absurd hok Bool.false_ne_true

/-- Settles O6: each of the rows does work that keeps the form. -/
theorem memoriesStayCanonical : Obligations.MemoriesStayCanonical := by
  intro i s t hs hexec hi
  have h : CanonicalOf s.part.variant s := (canonical_iff s).1 hs
  obtain hi | ⟨a, w, rfl⟩ | ⟨k, rfl⟩ | rfl | rfl | rfl | ⟨a, w, bad, rfl⟩ | ⟨a, w, bad, rfl⟩ | ⟨b, rfl⟩ | ⟨b, rfl⟩ | rfl := hi
  · obtain ⟨eff, hrow⟩ := exec_copperInstr hi s
    exact canonical_of_done (.ite (h.withCopper (h.copper.carryOut _)) h) (hrow.symm.trans hexec)
  · exact canonical_of_done (h.hostWord _ _) hexec
  · exact canonical_of_done (h.hostWord _ _) hexec
  · exact canonical_of_done h.copperFrame hexec
  · exact canonical_of_done h.copperInterrupt hexec
  · exact canonical_of_done (.ite (h.withCopper h.copper.trap) h) hexec
  · exact canonical_of_done (h.atomic _ _ _ _).hear hexec
  · exact canonical_of_done (h.atomic _ _ _ _).hear hexec
  · exact canonical_of_done (CanonicalOf.ite ((h.loseBank b).bankUp b) h).hear hexec
  · refine canonical_of_done (CanonicalOf.hear ?_) hexec
    refine .ite h ?_
    split
    · exact h.bankUp b
    · refine .loseBank ?_ b
      exact h.frame rfl
    · exact h
  · refine canonical_of_done (.beginReset ?_ _ _ _) hexec
    exact h.frame rfl

end Sys2Proof.Machine
end

section
/-! What a response and an event that find room leave, written out field by field (R375, R387, R396). -/
namespace Sys2Proof.Machine

/-- A state after a response of `n` payload words, with the mailbox `mb` (R375, R387). -/
def State.answered (s : State) (n : Nat) (mb : Sparse Word) : State :=
  { s with
    host.mailbox := mb
    host.rspHead := (s.host.rspHead + n + 1) % 2048
    host.irqStatus := setBit s.host.irqStatus 0
    fw.seenRspTail := s.host.rspTail
    fw.replies := [] }

/-- A state after an event of `n` words of its own, with the mailbox `mb` (R375, R396). -/
def State.posted (s : State) (n : Nat) (mb : Sparse Word) : State :=
  { s with
    host.mailbox := mb
    host.evtHead := (s.host.evtHead + (n + 2) + 1) % 2048
    host.irqStatus := setBit s.host.irqStatus 1
    fw.seenEvtTail := s.host.evtTail
    fw.evtSeq := (s.fw.evtSeq + 1) % 256 }

theorem putResponse_answered {s : State} (h : tailLegal s.fw.seenRspTail s.host.rspTail s.host.rspHead = true) (op session seq : Nat)
    (ws : List Word) : ∃ mb, ({ s.putResponse op session seq ws with fw.replies := [] } : State) = s.answered ws.length mb := by
  obtain ⟨mb, hmb⟩ := ringWrite_host { s with fw.seenRspTail := s.host.rspTail } 4096 2048 s.host.rspHead
    (header op session seq ws.length :: ws)
  refine ⟨mb, ?_⟩
  unfold State.putResponse
  rw [checkRspTail_legal s h]
  dsimp only
  rw [hmb]
  rfl

/-- A response that finds its origin's queue empty and RSP_TAIL legal is posted at once, and no more than its ring changes. -/
theorem respond_answered {s : State} (h : ClearToAnswer s) (op : Nat) (m : Msg) {ws : List Word} (hl : ws.length < 2047) :
    ∃ mb, s.respond (cmdOf op m) ws = s.answered ws.length mb ∧ Responds s (s.answered ws.length mb) op m ws
      ∧ OnlyResponds s (s.answered ws.length mb) ws.length := by
  have hposted := responds_respond s s op m ws h (SameRings.refl s) hl
  have hclear := respond_clear s (cmdOf op m) ws h.1 rfl
  obtain ⟨mb, hmb⟩ := putResponse_answered (s := { s with fw.replies := [Reply.mk op m.session m.seq .ring (some ws) none] }) h.2
    op m.session m.seq ws
  have heq : s.respond (cmdOf op m) ws = s.answered ws.length mb := hclear.trans hmb
  rw [heq] at hposted
  exact ⟨mb, heq, hposted⟩

/-- An event that finds room behind no dropped one is posted at once, and no more than its ring changes. -/
theorem event_posted {s : State} {ws : List Word} (h : ClearToPost s ws.length) (code session : Nat) :
    ∃ mb, s.event code session ws = s.posted ws.length mb ∧ Posts s (s.posted ws.length mb) code session ws
      ∧ OnlyPosts s (s.posted ws.length mb) ws.length := by
  have hposted := event_posts s code session ws h
  obtain ⟨hready, hdropped, htail, hroom⟩ := h
  obtain ⟨mb, hmb⟩ := ringWrite_host { s with fw.seenEvtTail := s.host.evtTail } 6144 2048 s.host.evtHead
    (header code session s.fw.evtSeq (ws.length + 2) :: (timeWords s.time ++ ws))
  have hchecked : s.checkEvtTail = { s with fw.seenEvtTail := s.host.evtTail } := if_pos htail
  have hnone : ({ s with fw.seenEvtTail := s.host.evtTail } : State).postOverflow = { s with fw.seenEvtTail := s.host.evtTail } :=
    if_pos (.inl hdropped)
  have hfits : decide (({ s with fw.seenEvtTail := s.host.evtTail } : State).evtFree < ws.length + 3) = false :=
    decide_eq_false (Nat.not_lt.2 hroom)
  have heq : s.event code session ws = s.posted ws.length mb := by
    unfold State.event
    rw [if_neg (by simp [hready]), hchecked, hnone]
    dsimp only
    rw [hfits, if_neg (by simp [hdropped])]
    unfold State.putEvent
    dsimp only
    rw [hmb]
    rfl
  rw [heq] at hposted
  exact ⟨mb, heq, hposted⟩

/-- The words of a response stay where only the event ring is written. -/
theorem Responds.of_onlyPosts {s t u : State} {op n : Nat} {m : Msg} {ws : List Word} (h : Responds s t op m ws) (hp : OnlyPosts t u n)
    (hirq : u.host.irqStatus.getLsbD 0 = true) : Responds s u op m ws := by
  obtain ⟨hwords, hhead, -⟩ := h
  obtain ⟨hother, hrsp, -⟩ := hp
  refine ⟨fun i hi => ?_, hrsp.trans hhead, hirq⟩
  rw [hother _ fun j _ => by omega]
  exact hwords i hi

/-- The words of an event stay where only the response ring is written. -/
theorem Posts.of_onlyResponds {s t u : State} {code session n : Nat} {ws : List Word} (h : Posts s t code session ws)
    (hr : OnlyResponds t u n) : Posts s u code session ws := by
  obtain ⟨hwords, hhead, hseq, hirq⟩ := h
  obtain ⟨hother, hstatus, -, hevt, -, hcount, -⟩ := hr
  refine ⟨fun i hi => ?_, hevt.trans hhead, hcount.trans hseq, ?_⟩
  · rw [hother _ fun j _ => by omega]
    exact hwords i hi
  · rw [hstatus]
    simp [setBit, hirq]

end Sys2Proof.Machine
end

section
/-! Messages that the checks of R394 refuse, and messages that are not taken (R384, R388, R394, R411). -/
namespace Sys2Proof.Machine

/-! ### The rows of the command ring -/

/-- A row of the command ring takes its message as the ring does; DIAG_START alone may raise messages in its work. -/
theorem exec_messageRow (s : State) (rd : List PageFault) (m : Msg) : ∀ p ∈ messageRows rd,
    exec (p.1 m) s = s.done (s.takeCmd rd (cmdOf p.2 m)) ∨ exec (p.1 m) s = s.ends (s.takeCmd rd (cmdOf p.2 m)) := by
  simp only [messageRows, List.forall_mem_append, List.forall_mem_cons, List.not_mem_nil, false_implies, implies_true, and_true]
  refine ⟨⟨?protocolAndTasks, ?content⟩, ?copper1, ?copper2, ?copper3, ?diagStart, ?services⟩
  case diagStart => exact .inr rfl
  all_goals and_intros <;> exact .inl rfl

theorem exec_messageRow_next {s t : State} {rd : List PageFault} {m : Msg} {p : (Msg → Instr) × Nat} (hp : p ∈ messageRows rd)
    (ht : s.takeCmd rd (cmdOf p.2 m) = t) (hraised : t.kiln.raised = []) (hpending : t.pending = s.pending) (hpart : t.part = s.part) :
    exec (p.1 m) s = .next t := by
  rcases exec_messageRow s rd m p hp with h | h
  · rw [h, ht]
    exact done_same s t hpending hpart
  · rw [h, ht]
    exact ends_quiet s t hraised hpending hpart

/-! ### Taken or not -/

theorem takeCmd_untaken {s : State} (rd : List PageFault) {c : Cmd} (ho : c.origin = .ring)
    (h : s.canTake = false ∨ s.responseRoom = false) : s.takeCmd rd c = s := by
  unfold State.takeCmd State.takeWith
  rw [if_pos]
  rcases h with h | h <;> simp [h, ho]

theorem takeCmd_refused {s : State} (rd : List PageFault) {c : Cmd} {st : Nat} (htake : s.canTake = true) (hroom : s.responseRoom = true)
    (hrefused : s.refusal c = some st) : s.takeCmd rd c = s.answer c st 0 := by
  unfold State.takeCmd State.takeWith
  rw [if_neg (by simp [htake, hroom]), hrefused]

theorem takeCmd_works {s : State} (rd : List PageFault) {c : Cmd} (h : Takes s c) (ho : c.origin = .ring) :
    s.takeCmd rd c = workOf rd c.opcode c s :=
  takeWith_takes s c _ h ho

theorem messageRow_refused {s : State} {rd : List PageFault} {m : Msg} {st : Nat} {p : (Msg → Instr) × Nat} (hp : p ∈ messageRows rd)
    (hquiet : s.kiln.raised = []) (htake : s.canTake = true) (hroom : s.responseRoom = true) (hclear : ClearToAnswer s)
    (hrefused : s.refusal (cmdOf p.2 m) = some st) : Answers s (p.1 m) p.2 m [statusWord st 0] s := by
  obtain ⟨mb, heq, hresponds, honly⟩ := respond_answered hclear p.2 m (ws := [statusWord st 0]) (by simp)
  exact ⟨_, exec_messageRow_next hp ((takeCmd_refused rd htake hroom hrefused).trans heq) hquiet rfl rfl, rfl, hresponds, honly⟩

/-! ### The order of the checks (R394) -/

section Order
variable {s : State} {c : Cmd} {r : CmdRule}

theorem length_fits_iff : ¬ (c.words.length < r.lenLo ∨ r.lenHi < c.words.length) ↔ r.lenLo ≤ c.words.length ∧ c.words.length ≤ r.lenHi := by
  omega

theorem session_fits_iff : ¬ (!s.sessionOpen c.session || (r.sess0 && c.session != 0)) = true
    ↔ s.sessionOpen c.session = true ∧ (r.sess0 = true → c.session = 0) := by
  cases s.sessionOpen c.session <;> cases r.sess0 <;> simp

theorem hello_fits_iff : ¬ (!s.fw.helloDone && !r.safe) = true ↔ s.fw.helloDone = true ∨ r.safe = true := by
  cases s.fw.helloDone <;> cases r.safe <;> simp

theorem safe_fits_iff : ¬ (s.kiln.safe && !r.safe) = true ↔ s.kiln.safe = false ∨ r.safe = true := by
  cases s.kiln.safe <;> cases r.safe <;> simp

end Order

/-- Settles O5: a row answers what its checks refuse, is idle where nothing is taken, and the checks stand in the order of R394. -/
theorem checksInOrder : Obligations.ChecksInOrder := by
  refine ⟨fun s rd m st p hp hquiet htake hroom hclear => messageRow_refused hp hquiet htake hroom hclear, fun s rd m p hp hquiet h => ?untaken,
    fun s c => ⟨fun hnone => ?opcode, fun r hr => ?order⟩⟩
  case untaken => exact exec_messageRow_next hp (takeCmd_untaken rd rfl h) hquiet rfl rfl
  case opcode =>
    unfold State.refusal
    rw [hnone]
    rfl
  case order =>
    simp only [State.refusal, hr]
    rw [← length_fits_iff (c := c) (r := r), ← session_fits_iff, ← hello_fits_iff, ← safe_fits_iff]
    refine ⟨fun hl => ?_, fun hl hs => ?_, fun hl hs hh => ?_, fun hl hs hh hk => ?_, fun hl hs hh hk hf => ?_, fun h hl hs hh hk hf hhalf hown => ?_⟩
    · rw [if_pos (not_not.1 hl)]; rfl
    · rw [if_neg hl, if_pos (not_not.1 hs)]; rfl
    · rw [if_neg hl, if_neg hs, if_pos (not_not.1 hh)]; rfl
    · rw [if_neg hl, if_neg hs, if_neg hh, if_pos (not_not.1 hk)]; rfl
    · rw [if_neg hl, if_neg hs, if_neg hh, if_neg hk, if_pos hf]; rfl
    · rw [if_neg hl, if_neg hs, if_neg hh, if_neg hk, if_neg (by simp [hf]), hhalf, if_pos (by simp [hown])]; rfl

end Sys2Proof.Machine
end

section
/-! HELLO and the session commands (R399 to R405): the agreed set bit by bit, the agreement that HELLO's response carries, session numbers. -/
namespace Sys2Proof.Machine

/-! ### The agreed set (R400) -/

/-- What a feature needs besides being offered by both (R400). -/
def featureNeeds (k : Nat) : List Nat :=
  if k = 0 then [6] else if k = 6 then [0] else if k = 10 then [1] else if k = 11 then [4, 5] else if k = 12 ∨ k = 14 then [5] else []

/-- A set of which one bit stays only where the bits `req` stand. -/
def needBit (a : Word) (k : Nat) (req : List Nat) : Word := if req.all fun j => a.getLsbD j then a else a &&& ~~~(1#32 <<< k)

/-- Bits 0 and 6 of a set stay only together. -/
def pairBits (a : Word) : Word := if a.getLsbD 0 && a.getLsbD 6 then a else a &&& ~~~0x41#32

theorem agreedSet_eq (offered host : Word) :
    agreedSet offered host = needBit (needBit (needBit (needBit (pairBits (offered &&& host)) 10 [1]) 11 [4, 5]) 12 [5]) 14 [5] := rfl

theorem needBit_getLsbD (a : Word) {k : Nat} (req : List Nat) (hk : k < 32) (j : Nat) :
    (needBit a k req).getLsbD j = (a.getLsbD j && (!decide (j = k) || req.all fun i => a.getLsbD i)) := by
  unfold needBit
  by_cases hreq : (req.all fun i => a.getLsbD i) = true
  · rw [if_pos hreq, hreq, Bool.or_true, Bool.and_true]
  · have hbit : (1#32 <<< k).getLsbD j = decide (k = j) := by
      rw [← BitVec.twoPow_eq, BitVec.getLsbD_twoPow, decide_eq_true hk, Bool.true_and]
    rw [if_neg hreq, Bool.eq_false_of_not_eq_true hreq, Bool.or_false, BitVec.getLsbD_and, BitVec.getLsbD_not, hbit]
    by_cases hj : j < 32
    · simp [hj, eq_comm]
    · simp [BitVec.getLsbD_of_ge _ _ (Nat.not_lt.1 hj)]

theorem pairBits_getLsbD (a : Word) (j : Nat) :
    (pairBits a).getLsbD j = (a.getLsbD j && (!decide (j = 0 ∨ j = 6) || a.getLsbD 0 && a.getLsbD 6)) := by
  unfold pairBits
  by_cases hboth : (a.getLsbD 0 && a.getLsbD 6) = true
  · rw [if_pos hboth, hboth, Bool.or_true, Bool.and_true]
  · rw [if_neg hboth, Bool.eq_false_of_not_eq_true hboth, Bool.or_false, BitVec.getLsbD_and, BitVec.getLsbD_not]
    by_cases hj : j < 32
    · have hmask : ∀ i < 32, (0x41#32).getLsbD i = decide (i = 0 ∨ i = 6) := by decide
      rw [hmask j hj, decide_eq_true hj, Bool.true_and]
    · simp [BitVec.getLsbD_of_ge _ _ (Nat.not_lt.1 hj)]

/-- A feature is agreed where both offer it and what it needs (R400). -/
theorem agreedSet_getLsbD (offered host : Word) (k : Nat) : (agreedSet offered host).getLsbD k =
    ((offered &&& host).getLsbD k && (featureNeeds k).all fun j => (offered &&& host).getLsbD j) := by
  rw [agreedSet_eq]
  simp only [needBit_getLsbD _ _ (show 10 < 32 by decide), needBit_getLsbD _ _ (show 11 < 32 by decide),
    needBit_getLsbD _ _ (show 12 < 32 by decide), needBit_getLsbD _ _ (show 14 < 32 by decide), pairBits_getLsbD, List.all_cons, List.all_nil]
  generalize offered &&& host = a
  unfold featureNeeds
  split_ifs with h0 h6 h10 h11 h12
  · simp [h0]
  · simp [h6, Bool.and_left_comm, Bool.and_comm]
  · simp [h10]
  · simp [h11]
  · rcases h12 with rfl | rfl <;> simp
  · rw [not_or] at h12
    simp [h0, h6, h10, h11, h12]

theorem agreedSet_iff (offered host : Word) (k : Nat) : (agreedSet offered host).getLsbD k = true ↔
    (offered.getLsbD k = true ∧ host.getLsbD k = true) ∧ ∀ j ∈ featureNeeds k, offered.getLsbD j = true ∧ host.getLsbD j = true := by
  simp only [agreedSet_getLsbD, BitVec.getLsbD_and, Bool.and_eq_true, List.all_eq_true]

/-- A feature that needs no other is agreed where both offer it. -/
theorem agreedSet_plain {offered host : Word} {k : Nat} (hneeds : featureNeeds k = []) (ho : offered.getLsbD k = true)
    (hh : host.getLsbD k = true) : (agreedSet offered host).getLsbD k = true := by
  rw [agreedSet_iff, hneeds]
  exact ⟨⟨ho, hh⟩, by simp⟩

/-- What an agreed feature needs is agreed, where that needs no other. -/
theorem agreedSet_needs {offered host : Word} {k j : Nat} (h : (agreedSet offered host).getLsbD k = true) (hj : j ∈ featureNeeds k)
    (hneeds : featureNeeds j = []) : (agreedSet offered host).getLsbD j = true :=
  have hboth := ((agreedSet_iff offered host k).1 h).2 j hj
  agreedSet_plain hneeds hboth.1 hboth.2

theorem agreedSets : Says.AgreedSet := by
  intro offered host a has
  refine ⟨fun k h => ((agreedSet_iff offered host k).1 h).1, ?pair, fun h => agreedSet_needs h (by decide) rfl,
    fun h => ⟨agreedSet_needs h (by decide) rfl, agreedSet_needs h (by decide) rfl⟩, fun h => agreedSet_needs h (by decide) rfl,
    fun h => agreedSet_needs h (by decide) rfl, fun k hk => agreedSet_plain ?plain⟩
  case pair =>
    have h0 : featureNeeds 0 = [6] := rfl
    have h6 : featureNeeds 6 = [0] := rfl
    show (agreedSet offered host).getLsbD 0 = true ↔ (agreedSet offered host).getLsbD 6 = true
    simp only [agreedSet_iff, h0, h6, List.forall_mem_singleton]
    exact and_comm
  case plain =>
    have hnone : ∀ k ∈ [1, 2, 3, 4, 5, 7, 8, 9, 13, 15], featureNeeds k = [] := by decide
    exact hnone k hk

/-! ### HELLO (R399 to R403) -/

theorem ringWrite_withReplies (s : State) (l : List Reply) (base n i : Nat) (ws : List Word) :
    ({ s with fw.replies := l } : State).ringWrite base n i ws = { s.ringWrite base n i ws with fw.replies := l } := by
  induction ws generalizing s i with
  | nil => rfl
  | cons w ws ih => exact ih (s.setMbx (base + i % n) w) ((i + 1) % n)

/-- What waits in the queue of responses plays no part in posting one whose tail is legal. -/
theorem putResponse_withReplies {s : State} (h : tailLegal s.fw.seenRspTail s.host.rspTail s.host.rspHead = true) (l : List Reply)
    (op session seq : Nat) (ws : List Word) :
    ({ s with fw.replies := l } : State).putResponse op session seq ws = { s.putResponse op session seq ws with fw.replies := l } := by
  unfold State.putResponse
  rw [checkRspTail_legal s h, checkRspTail_legal { s with fw.replies := l } h]
  dsimp only
  rw [ringWrite_withReplies { s with fw.seenRspTail := s.host.rspTail }]
  rfl

/-- The one waiting response, formed, is posted with the agreement that it carries (R387, R402). -/
theorem flushReplies_single {s : State} {r : Reply} {ws : List Word} (h : s.fw.replies = [r]) (hws : r.words = some ws) :
    s.flushReplies = { s.postReply r ws with fw.replies := [] } := by
  unfold State.flushReplies
  rw [h]
  simp [hws]

theorem respond_putResponse {s : State} (h : ClearToAnswer s) {c : Cmd} (ho : c.origin = .ring) (ws : List Word) :
    s.respond c ws = { s.putResponse c.opcode c.session c.seq ws with fw.replies := [] } := by
  rw [respond_clear s c ws h.1 ho, putResponse_withReplies h.2]

/-- A formed response that carries an agreement goes out as any other would from the state in which the agreement stands (R402). -/
theorem flushReplies_agreeing {s : State} (h : ClearToAnswer s) (op : Nat) (m : Msg) (ws : List Word) (a : Word) :
    ({ s with fw.replies := s.fw.replies ++ [Reply.mk op m.session m.seq .ring (some ws) (some a)] } : State).flushReplies
      = (s.agree a).respond (cmdOf op m) ws := by
  have hagreed : ClearToAnswer (s.agree a) := h
  rw [flushReplies_single (r := Reply.mk op m.session m.seq .ring (some ws) (some a)) (by rw [h.1]; rfl) rfl,
    respond_putResponse hagreed rfl]
  have hposted := putResponse_withReplies hagreed.2 (s.fw.replies ++ [Reply.mk op m.session m.seq .ring (some ws) (some a)]) op m.session m.seq ws
  exact congrArg (fun t : State => { t with fw.replies := [] }) hposted

/-- Where no agreed bit that is locked now falls, HELLO answers with its agreement (R400 to R403). -/
theorem cmdHello_agrees {s : State} {m : Msg} (hclear : ClearToAnswer s) (hversion : bits (payload m 0) 16 16 = 1) (hfeature : payload m 2 = 0)
    (hfree : s.fw.helloDone = true → ∀ k < 16, s.agrees k = true →
      (agreedSet s.part.variant.features (nthW m.words 1)).getLsbD k = false → s.locked k = false) :
    State.cmdHello (cmdOf 0x01 m) s = (s.agree (agreedSet s.part.variant.features (nthW m.words 1))).respond (cmdOf 0x01 m)
      [okWord, 0x00010000, s.part.variant.features, 0, agreedSet s.part.variant.features (nthW m.words 1), 0, Config.fwVersion] := by
  have hunlocked : ¬ (s.fw.helloDone && (List.range 16).any fun k =>
      s.agrees k && !(agreedSet s.part.variant.features (nthW m.words 1)).getLsbD k && s.locked k) = true := by
    simp only [Bool.and_eq_true, List.any_eq_true, List.mem_range, Bool.not_eq_true', not_and, not_exists]
    rintro hdone k hk ⟨hagreed, hdropped⟩
    simp [hfree hdone k hk hagreed hdropped]
  unfold State.cmdHello
  rw [cmdOf_w, cmdOf_w, if_neg (not_not_intro hversion), if_neg (not_not_intro hfeature)]
  exact (if_neg hunlocked).trans (flushReplies_agreeing hclear 0x01 m _ _)

/-! ### Sessions (R405) -/

/-- No session uses the number. -/
def State.sessionFree (s : State) (k : Nat) : Prop := (s.fw.sessions.getD k Session.closed).opened = false

theorem freeSession_some {s : State} {k : Nat} (hk : 1 ≤ k) (h31 : k ≤ 31) (hfree : s.sessionFree k)
    (hleast : ∀ j, 1 ≤ j → j < k → ¬ s.sessionFree j) : s.freeSession = some k := by
  unfold State.freeSession State.sessionFree at *
  rw [List.find?_range_eq_some]
  refine ⟨?_, List.mem_range.2 (by omega), fun j hj => ?_⟩
  · rw [hfree]
    simp
    omega
  · by_cases h0 : j = 0
    · simp [h0]
    · rw [Bool.eq_true_of_not_eq_false (hleast j (by omega) hj)]
      simp

theorem freeSession_none {s : State} (h : ∀ k, 1 ≤ k → k ≤ 31 → ¬ s.sessionFree k) : s.freeSession = none := by
  unfold State.freeSession State.sessionFree at *
  rw [List.find?_range_eq_none]
  intro j hj
  by_cases h0 : j = 0
  · simp [h0]
  · rw [Bool.eq_true_of_not_eq_false (h j (by omega) (by omega))]
    simp

section Sessions
variable {s : State} {c : Cmd} (hquota : bits (c.w 0) 16 16 ≤ s.part.variant.voices)
include hquota

theorem cmdSessionOpen_named {k : Nat} (hk : 1 ≤ k) (h31 : k ≤ 31) (hname : bits (c.w 0) 0 8 = k) (hfree : s.sessionFree k) :
    State.cmdSessionOpen c s = ({ s with fw.sessions := s.fw.sessions.set k (Session.ofWord (c.w 0)) } : State).ok c [w32 k] := by
  unfold State.sessionFree at hfree
  unfold State.cmdSessionOpen
  rw [hname]
  dsimp only
  rw [if_neg (Nat.not_lt.2 hquota), if_neg (by omega), hfree, if_neg (by simp; omega)]

theorem cmdSessionOpen_least {k : Nat} (hname : bits (c.w 0) 0 8 = 0) (hfree : s.freeSession = some k) :
    State.cmdSessionOpen c s = ({ s with fw.sessions := s.fw.sessions.set k (Session.ofWord (c.w 0)) } : State).ok c [w32 k] := by
  unfold State.cmdSessionOpen
  rw [hname, hfree]
  dsimp only
  rw [if_neg (Nat.not_lt.2 hquota), if_pos rfl]

theorem cmdSessionOpen_full (hname : bits (c.w 0) 0 8 = 0) (hfull : s.freeSession = none) :
    State.cmdSessionOpen c s = s.answer c stSessionLimit 0 := by
  unfold State.cmdSessionOpen
  rw [hname, hfull]
  dsimp only
  rw [if_neg (Nat.not_lt.2 hquota), if_pos rfl]

theorem cmdSessionSet_open (hname : bits (c.w 0) 0 8 ≠ 0) (hopen : s.sessionOpen (bits (c.w 0) 0 8) = true) :
    State.cmdSessionSet c s =
      ({ s with fw.sessions := s.fw.sessions.set (bits (c.w 0) 0 8) (Session.ofWord (c.w 0)) } : State).ok c [] := by
  unfold State.cmdSessionSet
  dsimp only
  rw [if_neg (by simp [hname, hopen]), if_neg (Nat.not_lt.2 hquota)]

end Sessions

theorem cmdSessionClose_open {s : State} {c : Cmd} (hname : bits (c.w 0) 0 8 ≠ 0) (hopen : s.sessionOpen (bits (c.w 0) 0 8) = true) :
    State.cmdSessionClose c s =
      ({ s with fw.sessions := s.fw.sessions.modify (bits (c.w 0) 0 8) fun (y : Session) => { y with closing := true } } : State).awaitReply c := by
  unfold State.cmdSessionClose
  dsimp only
  rw [if_neg (by simp [hname, hopen])]
  rfl

/-! ### The statement -/

theorem protocolSessions : Says.ProtocolSessions := by
  intro s m w free named x offered a
  refine ⟨fun ht hversion hfeature hfree => ?hello, fun ht => ?ping, fun ht hquota => ⟨fun k hk h31 hname hfree => ?opened, fun hname hfull => ?full⟩,
    fun ht hname hopen hquota => ?set, fun ht hname hopen => ?close⟩
  case hello =>
    exact answers_row s (s.agree a) _ _ m _ _ ht (exec_hello m s) (cmdHello_agrees ht.2 hversion hfeature hfree)
      (SameRings.refl s) (by simp)
  case ping => exact answers_row s s _ _ m _ _ ht (exec_ping m s) rfl (SameRings.refl s) (by simp)
  case opened =>
    refine answers_row s { s with fw.sessions := s.fw.sessions.set k x } _ _ m _ _ ht (exec_sessionOpen m s) ?_ (SameRings.refl s) (by simp)
    rcases hname with hname | ⟨hname, hleast⟩
    · exact cmdSessionOpen_named (c := cmdOf 0x03 m) hquota hk h31 hname.symm hfree
    · exact cmdSessionOpen_least (c := cmdOf 0x03 m) hquota hname (freeSession_some hk h31 hfree hleast)
  case full =>
    exact answers_refused (exec_sessionOpen m s) ht (cmdSessionOpen_full (c := cmdOf 0x03 m) hquota hname (freeSession_none hfull))
  case set =>
    exact answers_row s { s with fw.sessions := s.fw.sessions.set named x } _ _ m _ _ ht (exec_sessionSet m s)
      (cmdSessionSet_open (c := cmdOf 0x04 m) hquota hname hopen) (SameRings.refl s) (by simp)
  case close =>
    refine awaits_of s _ _ _ ?_ rfl rfl rfl rfl
    rw [exec_sessionClose, execSessionClose, run_row _ _ _ _ ht, cmdSessionClose_open (c := cmdOf 0x05 m) hname hopen]
    rfl

/-- Settles O12: each command's work once its checks have passed, and the agreed set by the needs of each feature. -/
theorem sessionCommands : Obligations.SessionCommands := ⟨protocolSessions, agreedSets⟩

end Sys2Proof.Machine
end

section
/-! IMAGE_WRITE and IMAGE_READ (R407, R408), and the words that act at taking: TMR_GSTART and DACd_PUSH (R521, R551). -/
namespace Sys2Proof.Machine

/-! ### Words that wait for the boundary -/

section Writes
variable {s : State} {c : Cmd} (hblock : imageSize (bits (c.w 0) 0 8) ≠ 0)
include hblock

theorem cmdImageWrite_rejected {i : Nat} (hfault : s.imageFault (bits (c.w 0) 0 8) (bits (c.w 0) 16 16) (c.words.drop 1) = some i) :
    State.cmdImageWrite c s = s.answer c stImageRejected i := by
  unfold State.cmdImageWrite
  dsimp only
  rw [if_neg hblock, hfault]

theorem cmdImageWrite_accepted (hfault : s.imageFault (bits (c.w 0) 0 8) (bits (c.w 0) 16 16) (c.words.drop 1) = none) :
    State.cmdImageWrite c s = (s.schedule (bits (c.w 0) 0 8) (writeWords (bits (c.w 0) 16 16) (c.words.drop 1))).ok c
      [if (writeWords (bits (c.w 0) 16 16) (c.words.drop 1)).any fun e => actsAtOnce (bits (c.w 0) 0 8) e.1 then 0xFFFFFFFF else w32 s.nextBlock] := by
  unfold State.cmdImageWrite
  dsimp only
  rw [if_neg hblock, hfault]

end Writes

theorem schedule_waiting {s : State} {b : Nat} {l : List (Nat × Word)} (h : ∀ e ∈ l, actsAtOnce b e.1 = false) :
    s.schedule b l = { s with fw.writes := s.fw.writes ++ l.map fun (e : Nat × Word) => PendingWrite.mk b e.1 e.2 s.nextBlock } := by
  have hnow : (l.filter fun e => actsAtOnce b e.1) = [] := List.filter_eq_nil_iff.2 fun e he => by simp [h e he]
  have hlater : (l.filter fun e => !actsAtOnce b e.1) = l := List.filter_eq_self.2 fun e he => by simp [h e he]
  unfold State.schedule
  rw [hnow, hlater]
  rfl

theorem schedule_acting (s : State) {b : Nat} {e : Nat × Word} (h : actsAtOnce b e.1 = true) : s.schedule b [e] = s.actNow b e := by
  have hnow : ([e].filter fun e => actsAtOnce b e.1) = [e] := by simp [h]
  have hlater : ([e].filter fun e => !actsAtOnce b e.1) = [] := by simp [h]
  unfold State.schedule
  rw [hnow, hlater]
  exact congrArg (fun l => ({ s.actNow b e with fw.writes := l } : State)) (List.append_nil (s.actNow b e).fw.writes)

/-! ### A global start (R551) -/

/-- Of the state no more than registers, timer units and timer clusters has changed. -/
def TimersOnly (s t : State) : Prop := ∃ r u k, t = { s with regs := r, tmr := u, tcl := k }

theorem TimersOnly.refl (s : State) : TimersOnly s s := ⟨s.regs, s.tmr, s.tcl, rfl⟩

theorem TimersOnly.trans {s t u : State} (h : TimersOnly s t) (k : TimersOnly t u) : TimersOnly s u := by
  obtain ⟨r, a, b, rfl⟩ := h
  obtain ⟨r', a', b', rfl⟩ := k
  exact ⟨r', a', b', rfl⟩

theorem TimersOnly.ite {s t u : State} {p : Prop} [Decidable p] (ht : TimersOnly s t) (hu : TimersOnly s u) :
    TimersOnly s (if p then t else u) := by
  split
  · exact ht
  · exact hu

theorem TimersOnly.foldl {α : Type} {f : State → α → State} (hf : ∀ s a, TimersOnly s (f s a)) (l : List α) (s : State) :
    TimersOnly s (l.foldl f s) := by
  induction l generalizing s with
  | nil => exact .refl s
  | cons a l ih => exact (hf s a).trans (ih (f s a))

theorem setReg_timersOnly (s : State) (b o : Nat) (w : Word) : TimersOnly s (s.setReg b o w) := ⟨_, _, _, rfl⟩

theorem releaseUnit_timersOnly (s : State) (u : Nat) : TimersOnly s (s.releaseUnit u) := ⟨_, _, _, rfl⟩

theorem takeHeld_timersOnly (s : State) (c : Nat) : TimersOnly s (s.takeHeld c) := by
  have ends (t : State) (h : TimersOnly s t) (k : List TimerCluster) : TimersOnly s { t with tcl := k } := h.trans ⟨_, _, _, rfl⟩
  unfold State.takeHeld
  refine ends _ ?_ _
  cases (s.cluster c).heldReload with
  | none =>
    cases (s.cluster c).heldDuty with
    | none => exact .refl s
    | some d => exact setReg_timersOnly ..
  | some x =>
    cases (s.cluster c).heldDuty with
    | none => exact setReg_timersOnly ..
    | some d => exact (setReg_timersOnly s ..).trans (setReg_timersOnly ..)

theorem releaseCluster_timersOnly (s : State) (c : Nat) : TimersOnly s (s.releaseCluster c) :=
  TimersOnly.trans (t := { (s.setReg bTIMER (tclReg c 0) (setBit (s.reg bTIMER (tclReg c 0)) 0)).setReg bTIMER (tclReg c 0xC) 0 with
    tcl := modAt s.tcl c fun k => { k with down := false } }) ⟨_, _, _, rfl⟩ (takeHeld_timersOnly _ c)

theorem globalStart_timersOnly (s : State) (mask : Nat) : TimersOnly s (s.globalStart mask) :=
  ((TimersOnly.foldl (fun t u => .ite (releaseUnit_timersOnly t u) (.refl t)) _ s).trans
    (TimersOnly.foldl (fun t c => .ite (releaseCluster_timersOnly t c) (.refl t)) _ _)).trans (setReg_timersOnly _ _ _ _)

theorem TimersOnly.sameRings {s t : State} (h : TimersOnly s t) : SameRings s t := by
  obtain ⟨r, u, k, rfl⟩ := h
  exact .refl s

/-- The state after a word of TMR_GSTART: the release waits for the link, or comes now (R551). -/
def State.startedBy (s : State) (v : Word) : State :=
  if v.getLsbD 8 then { s with chain.ownStart := some (s.chain.ownStart.getD 0 ||| bits v.toNat 0 7) }
  else s.globalStart (bits v.toNat 0 7)

theorem startedBy_sameRings (s : State) (v : Word) : SameRings s (s.startedBy v) := by
  unfold State.startedBy
  split
  · exact .refl s
  · exact (globalStart_timersOnly s _).sameRings

theorem actNow_start (s : State) (v : Word) : s.actNow bTIMER (0, v) = s.startedBy v := if_pos rfl

/-! ### A push of a DAC (R521) -/

/-- The state after a word of DACd_PUSH. -/
def State.pushed (s : State) (d : Nat) (v : Word) : State :=
  { s with dacs := s.dacs.modify d fun (x : DacState) => { x with queue := x.queue ++ [bits v.toNat 0 12] } }

theorem actsAtOnce_push (d : Nat) : actsAtOnce bDAC (0x18 + 0x20 * d) = true := by
  have hoff : (0x18 + 0x20 * d - 0x10) % 0x20 = 8 := by omega
  have hlow : 0x10 ≤ 0x18 + 0x20 * d := by omega
  simp [actsAtOnce, hoff, hlow]

theorem actNow_push (s : State) (d : Nat) (v : Word) : s.actNow bDAC (0x18 + 0x20 * d, v) = s.pushed d v := by
  have hdac : (0x18 + 0x20 * d - 0x10) / 0x20 = d := by omega
  unfold State.actNow State.pushed
  rw [if_neg (by decide)]
  dsimp only
  rw [hdac]
  rfl

/-! ### The words of an IMAGE_WRITE, at once or later -/

section Accepted
variable {s : State} {c : Cmd} (hblock : imageSize (bits (c.w 0) 0 8) ≠ 0)
  (hfault : s.imageFault (bits (c.w 0) 0 8) (bits (c.w 0) 16 16) (c.words.drop 1) = none)
include hblock hfault

/-- Words of which none acts at taking wait for the next boundary, which the answer names. -/
theorem cmdImageWrite_waiting (hwait : ∀ e ∈ writeWords (bits (c.w 0) 16 16) (c.words.drop 1), actsAtOnce (bits (c.w 0) 0 8) e.1 = false) :
    State.cmdImageWrite c s = ({ s with
      fw.writes := s.fw.writes
        ++ (writeWords (bits (c.w 0) 16 16) (c.words.drop 1)).map fun e => PendingWrite.mk (bits (c.w 0) 0 8) e.1 e.2 s.nextBlock
      } : State).ok c [w32 s.nextBlock] := by
  rw [cmdImageWrite_accepted hblock hfault, schedule_waiting hwait, if_neg (by simpa using hwait)]

/-- One word that acts at taking is answered without a boundary. -/
theorem cmdImageWrite_acting {u : State} {e : Nat × Word} (hone : writeWords (bits (c.w 0) 16 16) (c.words.drop 1) = [e])
    (hact : actsAtOnce (bits (c.w 0) 0 8) e.1 = true) (hu : s.actNow (bits (c.w 0) 0 8) e = u) :
    State.cmdImageWrite c s = u.ok c [0xFFFFFFFF] := by
  rw [cmdImageWrite_accepted hblock hfault, hone, schedule_acting s hact, hu, if_pos (by simp [hact])]

end Accepted

/-! ### IMAGE_READ (R408) -/

/-- The words that IMAGE_READ answers: whether a write of the block waits, then the registers as they read. -/
def State.imageWords (s : State) (b off n : Nat) : List Word :=
  w32 (if (s.fw.writes.any fun p => p.block == b) then 0x100 else 0) :: (List.range n).map fun i => s.liveReg b (off + 4 * i)

theorem cmdImageRead_inside {s : State} {c : Cmd} (hblock : imageSize (bits (c.w 0) 0 8) ≠ 0) (halign : bits (c.w 0) 16 16 % 4 = 0)
    (hlo : 1 ≤ c.w 1) (hhi : c.w 1 ≤ 254) (hend : bits (c.w 0) 16 16 + 4 * c.w 1 ≤ imageSize (bits (c.w 0) 0 8)) :
    State.cmdImageRead c s = s.respond c (s.imageWords (bits (c.w 0) 0 8) (bits (c.w 0) 16 16) (c.w 1)) := by
  unfold State.cmdImageRead State.imageWords
  dsimp only
  rw [if_neg hblock, if_neg (not_not_intro halign), if_neg (by omega), if_neg (by omega)]
  cases s.fw.writes.any fun p => p.block == bits (c.w 0) 0 8 <;> rfl

/-! ### The statement -/

/-- Settles O13: an IMAGE_WRITE by whether its words wait or act, an IMAGE_READ by the words it answers. -/
theorem imageCommands : Obligations.ImageCommands := by
  intro s m w b off ws n
  refine ⟨fun ht hblock hfault hwait => ?waiting, fun ht hblock i hfault => ?rejected, fun ht hblock halign hlo hhi hend => ?read,
    fun v ht hb hone hfault => ?start, fun v d ht hb _ hone hfault => ?push⟩
  case waiting =>
    exact answers_row s _ _ _ m _ _ ht (exec_imageWrite m s) (cmdImageWrite_waiting (c := cmdOf 0x06 m) hblock hfault hwait) (SameRings.refl s) (by simp)
  case rejected => exact answers_refused (exec_imageWrite m s) ht (cmdImageWrite_rejected (c := cmdOf 0x06 m) hblock hfault)
  case read =>
    refine answers_row s s _ _ m _ _ ht (exec_imageRead m s) (cmdImageRead_inside (c := cmdOf 0x07 m) hblock halign hlo hhi hend) (SameRings.refl s) ?_
    simp
    omega
  case start =>
    have hblock : imageSize b ≠ 0 := by rw [hb]; decide
    exact answers_row s (s.startedBy v) _ _ m _ _ ht (exec_globalStart m s)
      (cmdImageWrite_acting (c := cmdOf 0x06 m) hblock hfault hone (congrArg (fun x => actsAtOnce x 0) hb)
        ((congrArg (fun x => s.actNow x (0, v)) hb).trans (actNow_start s v)))
      (startedBy_sameRings s v) (by simp)
  case push =>
    have hblock : imageSize b ≠ 0 := by rw [hb]; decide
    exact answers_row s (s.pushed d v) _ _ m _ _ ht (exec_dacPush m s)
      (cmdImageWrite_acting (c := cmdOf 0x06 m) hblock hfault hone ((congrArg (fun x => actsAtOnce x (0x18 + 0x20 * d)) hb).trans (actsAtOnce_push d))
        ((congrArg (fun x => s.actNow x (0x18 + 0x20 * d, v)) hb).trans (actNow_push s d v)))
      (SameRings.refl s) (by simp)

end Sys2Proof.Machine
end

section
/-! FW_LOAD, FW_VERIFY, HANDOVER and FW_SELECT when taken (R411, R446 to R449): a response, and HANDOVER's event beside it. -/
namespace Sys2Proof.Machine

/-! ### A step of the handover beside a response -/

/-- The step of the handover and its result (R411). -/
def State.atStep (s : State) (step result : Nat) : State := { s with host.hoStep := step, host.hoResult := result }

theorem stepTo_off (s : State) (step result : Nat) : (s.stepTo step result).offRings = (s.atStep step result).offRings := event_off ..

/-- A step of the handover posts its event at once. -/
theorem stepTo_posted {s : State} (h : ClearToPost s 1) (step result : Nat) :
    ∃ mb, s.stepTo step result = (s.setHandoverStep step result).posted 1 mb
      ∧ Posts s ((s.setHandoverStep step result).posted 1 mb) 0x87 0 [w32 (step + 0x100 * result)]
      ∧ OnlyPosts s ((s.setHandoverStep step result).posted 1 mb) 1 :=
  event_posted (s := s.setHandoverStep step result) (ws := [w32 (step + 0x100 * result)]) h 0x87 0

/-- A response in the ring stays while a step of the handover posts its event behind it. -/
theorem Responds.stepTo {s t : State} {op : Nat} {m : Msg} {ws : List Word} (h : Responds s t op m ws) (hp : ClearToPost t 1)
    (step result : Nat) : Responds s (t.stepTo step result) op m ws := by
  have hirq : (t.setHandoverStep step result).host.irqStatus.getLsbD 0 = true := irq_keeps 7 h.2.2
  obtain ⟨mb, heq, -, honly⟩ := stepTo_posted hp step result
  rw [heq]
  refine h.of_onlyPosts honly ?_
  show (setBit (t.setHandoverStep step result).host.irqStatus 1).getLsbD 0 = true
  exact irq_keeps (s := t.setHandoverStep step result) 1 hirq

/-- The locks of a deferred command change the memories' own state alone. -/
theorem deferred_eq (s : State) (c : Cmd) : ∃ mem, s.deferred c = { s.withJob c with mem := mem } :=
  ⟨_, applyLocks_eq (s.withJob c)⟩

/-- A deferred command is answered ACCEPTED at once, and its job begins (R413). -/
theorem deferWork_answered {s : State} (h : ClearToAnswer s) (op : Nat) (m : Msg) :
    ∃ mb, s.deferWork (cmdOf op m) = (s.deferred (cmdOf op m)).answered 1 mb ∧ Responds s (s.deferWork (cmdOf op m)) op m [acceptedWord] := by
  obtain ⟨mb, heq, hresponds, -⟩ := respond_answered h op m (ws := [acceptedWord]) (by simp)
  have hwork : s.deferWork (cmdOf op m) = (s.deferred (cmdOf op m)).answered 1 mb := by
    show ({ s.respond (cmdOf op m) [acceptedWord] with
      fw.jobs := (s.respond (cmdOf op m) [acceptedWord]).fw.jobs ++ [Job.mk op m.session m.seq .ring m.words 0] } : State).applyLocks = _
    rw [heq, State.deferred, applyLocks_eq, applyLocks_eq]
    rfl
  refine ⟨mb, hwork, ?_⟩
  obtain ⟨mem, hmem⟩ := deferred_eq s (cmdOf op m)
  rw [hwork, hmem]
  exact hresponds

/-- A row ends in the state of its work where that differs only on the rings from one with the row's queue and part. -/
theorem exec_next_of_off {s t u : State} {i : Instr} (he : exec i s = s.done t) (hoff : t.offRings = u.offRings)
    (hpending : u.pending = s.pending) (hpart : u.part = s.part) : exec i s = .next t := by
  obtain ⟨hp, hq⟩ := offRings_part hoff
  rw [he]
  exact done_same s t (hq.trans hpending) (hp.trans hpart)

/-- A command that is deferred and moves STEP answers ACCEPTED and posts HANDOVER (R411, R413). -/
theorem answersPosting_deferred {s : State} {i : Instr} {op : Nat} {m : Msg} {work : Cmd → State → State} {step : Nat}
    (ht : TakenNow s op m) (hp : ClearToPost s 1) (he : exec i s = s.done (s.takeWith (cmdOf op m) work))
    (hw : work (cmdOf op m) s = (s.deferWork (cmdOf op m)).stepTo step 0) :
    AnswersPosting s i op m [acceptedWord] 0x87 0 [w32 step] ((s.deferred (cmdOf op m)).atStep step 0) := by
  obtain ⟨mb, hwork, hresponds⟩ := deferWork_answered ht.2 op m
  obtain ⟨mem, hmem⟩ := deferred_eq s (cmdOf op m)
  have hrun : exec i s = s.done ((s.deferWork (cmdOf op m)).stepTo step 0) := by rw [he, run_row _ _ _ _ ht, hw]
  have hoff : ((s.deferWork (cmdOf op m)).stepTo step 0).offRings = ((s.deferred (cmdOf op m)).atStep step 0).offRings := by
    rw [stepTo_off, hwork]
    rfl
  have hclear : ClearToPost (s.deferWork (cmdOf op m)) 1 := by
    rw [hwork, hmem]
    exact hp
  have hsame : SameEvents s (s.deferWork (cmdOf op m)) := by
    rw [hwork, hmem]
    exact SameEvents.refl s
  obtain ⟨mb', heq, hposts, -⟩ := stepTo_posted hclear step 0
  refine ⟨_, exec_next_of_off hrun hoff ?_ ?_, hoff, hresponds.stepTo hclear step 0, ?_⟩
  · rw [hmem]
    rfl
  · rw [hmem]
    rfl
  · rw [heq]
    exact posts_same hsame hposts

/-! ### The commands -/

section Load
variable {s : State} {c : Cmd} (haddr : c.w 1 % 4096 = 0) (hend : c.w 1 < 458752) (hcount : bulkCountOk (c.w 2) = true)
include haddr hend hcount

theorem cmdFwLoad_loading (h : s.host.hoStep = 1) (hkept : (s.deferWork c).host.hoStep = s.host.hoStep) :
    State.cmdFwLoad c s = s.deferWork c := by
  unfold State.cmdFwLoad
  rw [if_neg (by omega), if_neg (by simp [hcount])]
  exact if_pos (hkept.trans h)

theorem cmdFwLoad_anew (h : s.host.hoStep ≠ 1) (hkept : (s.deferWork c).host.hoStep = s.host.hoStep) :
    State.cmdFwLoad c s = (s.deferWork c).stepTo 1 0 := by
  unfold State.cmdFwLoad
  rw [if_neg (by omega), if_neg (by simp [hcount])]
  exact if_neg (by rwa [hkept])

end Load

theorem deferWork_hoStep {s : State} (h : ClearToAnswer s) (op : Nat) (m : Msg) :
    (s.deferWork (cmdOf op m)).host.hoStep = s.host.hoStep := by
  obtain ⟨mb, hwork, -⟩ := deferWork_answered h op m
  obtain ⟨mem, hmem⟩ := deferred_eq s (cmdOf op m)
  rw [hwork, hmem]
  rfl

/-- HANDOVER is accepted: its response waits, and no further command is taken (R411 step 4, R448). -/
theorem cmdHandover_accepted {s : State} (c : Cmd) (hstep : s.host.hoStep = 3) (hjobs : s.fw.jobs = []) (hupdate : s.fw.update = 0) :
    State.cmdHandover c s = (s.awaitReply c).stepTo 4 0 := by
  unfold State.cmdHandover
  rw [if_neg (not_not_intro hstep), if_neg (by simp [hjobs, hupdate])]

theorem handover_accepted {s : State} {m : Msg} (ht : TakenNow s 0x72 m) (hp : ClearToPost s 1) (hstep : s.host.hoStep = 3)
    (hjobs : s.fw.jobs = []) (hupdate : s.fw.update = 0) :
    ∃ t, exec (.handover m) s = .next t ∧ t.offRings = (s.atStep 4 0).offRings
      ∧ t.fw.replies = [Reply.mk 0x72 m.session m.seq .ring none none] ∧ Posts s t 0x87 0 [w32 4] := by
  have hrun : exec (.handover m) s = s.done ((s.awaitReply (cmdOf 0x72 m)).stepTo 4 0) := by
    rw [exec_handover, execHandover, run_row _ _ _ _ ht, cmdHandover_accepted _ hstep hjobs hupdate]
  have hoff : ((s.awaitReply (cmdOf 0x72 m)).stepTo 4 0).offRings = (s.atStep 4 0).offRings := stepTo_off ..
  obtain ⟨mb, heq, hposts, -⟩ := stepTo_posted (s := s.awaitReply (cmdOf 0x72 m)) hp 4 0
  refine ⟨_, exec_next_of_off hrun hoff rfl rfl, hoff, ?_, ?_⟩
  · rw [heq]
    show s.fw.replies ++ _ = _
    rw [ht.2.1]
    rfl
  · rw [heq]
    exact hposts

/-- The anchor that FW_SELECT writes: the other slot, the next generation, mirrors where they lie now (R259, R449). -/
def State.selectAnchor (s : State) : Anchor :=
  { s.store.anchor with generation := (s.store.anchor.generation + 1) % 2 ^ 32, fwSlot := 1 - s.host.activeSlot, mirrorM1 := !s.m0Only }

/-- The state whose firmware anchor has been replaced, with the flash content `f`. -/
def State.selected (s : State) (f : Sparse Byte) : State := { s with store.flash := f, store.anchor := s.selectAnchor }

section Select
variable {s : State} {f : Sparse Byte} (hf : (s.writeAnchor s.selectAnchor).store.flash = f) (hnext : s.store.nextAnchor = none)
include hf hnext

theorem writeFwAnchor_selected : s.writeFwAnchor s.inactiveSlot = s.selected f := by
  unfold State.writeFwAnchor
  rw [hnext]
  exact congrArg (fun t : State => ({ t with store.anchor := s.selectAnchor } : State)) ((writeAnchor_only s s.selectAnchor).eq hf)

theorem cmdFwSelect_selected (c : Cmd) (hstep : s.host.hoStep = 3) : State.cmdFwSelect c s = ((s.selected f).stepTo 0 0).ok c [] := by
  unfold State.cmdFwSelect
  rw [if_neg (not_not_intro hstep), writeFwAnchor_selected hf hnext]

/-- FW_SELECT posts its step first and then answers OK (R449). -/
theorem fwSelect_selected {m : Msg} (ht : TakenNow s 0x73 m) (hp : ClearToPost s 1) (hstep : s.host.hoStep = 3) :
    AnswersPosting s (.fwSelect m) 0x73 m [okWord] 0x87 0 [w32 0] ((s.selected f).atStep 0 0) := by
  obtain ⟨mb, heq, hposts, -⟩ := stepTo_posted (s := s.selected f) hp 0 0
  have hclear : ClearToAnswer ((s.selected f).stepTo 0 0) := by
    rw [heq]
    exact ht.2
  obtain ⟨mb', hanswer, hresponds, honly⟩ := respond_answered hclear 0x73 m (ws := [okWord]) (by simp)
  have hrun : exec (.fwSelect m) s = s.done (((s.selected f).stepTo 0 0).answered 1 mb') := by
    rw [exec_fwSelect, execFwSelect, run_row _ _ _ _ ht, cmdFwSelect_selected hf hnext _ hstep]
    exact congrArg s.done hanswer
  have hoff : (((s.selected f).stepTo 0 0).answered 1 mb').offRings = ((s.selected f).atStep 0 0).offRings :=
    (rfl : _ = ((s.selected f).stepTo 0 0).offRings).trans (stepTo_off ..)
  rw [← heq] at hposts
  refine ⟨_, exec_next_of_off hrun hoff rfl rfl, hoff, ?_, hposts.of_onlyResponds honly⟩
  rw [heq] at hresponds ⊢
  exact hresponds

end Select

/-! ### The statement -/

/-- Settles O27: each command's work once its checks have passed, by the step at which the update stands. -/
theorem firmwareCommands : Obligations.FirmwareCommands := by
  intro s m w c spare b
  refine ⟨fun ht haddr hend hlo hhi halign => ⟨fun hstep => ?loading, fun hstep hp => ?anew⟩, fun ht hp => ?verify,
    fun ht hstep hjobs hupdate hp => ?handover, fun ht hstep => ?early, fun ht hstep hnext hp => ?select, fun ht hstep => ?unready⟩
  case loading =>
    exact answers_deferred s s _ _ m _ ht (exec_fwLoad m s)
      (cmdFwLoad_loading (c := cmdOf 0x70 m) haddr hend (bulkCountOk_of hlo hhi halign) hstep (deferWork_hoStep ht.2 0x70 m)) (SameRings.refl s)
  case anew =>
    exact answersPosting_deferred ht hp (exec_fwLoad m s)
      (cmdFwLoad_anew (c := cmdOf 0x70 m) haddr hend (bulkCountOk_of hlo hhi halign) hstep (deferWork_hoStep ht.2 0x70 m))
  case verify => exact answersPosting_deferred ht hp (exec_fwVerify m s) rfl
  case handover => exact handover_accepted ht hp hstep hjobs hupdate
  case early => exact answers_refused (exec_handover m s) ht (if_pos hstep)
  case select => exact fwSelect_selected rfl hnext ht hp hstep
  case unready => exact answers_refused (exec_fwSelect m s) ht (if_pos hstep)

end Sys2Proof.Machine
end

section
/-! After a boundary: SHEDDING_CEILING (R674), REGION_IN_SERVICE (R402), STANDBY_ENTRY (R617, R618, R620). -/
namespace Sys2Proof.Machine

/-! ### The shedding ceiling (R674) -/

theorem nonSafety_silent {s : State} (h : s.mash.voices = []) (r : Nat) : s.nonSafety r = 0 := by
  unfold State.nonSafety
  rw [h]
  rfl

/-- Where no voice sounds no region lies above its ceiling. -/
theorem shedAll_silent {s : State} (n : Nat) (h : s.mash.voices = []) : s.shedAll n = s := by
  unfold State.shedAll
  refine foldl_keeps _ s _ fun r _ => ?_
  unfold State.shed
  split
  · rfl
  · rw [nonSafety_silent h, if_pos (Nat.zero_le _)]

/-- The state whose regions have taken their next ceilings. -/
def State.ceiled (s : State) : State :=
  { s with
    mash.shedAt := s.lastBlock
    mash.regions := s.mash.regions.zipIdx.map fun (g : Region × Nat) =>
      { g.1 with ceiling := ((List.range 2).map fun r => if r < s.part.variant.regionCount then s.nextCeiling r else none).getD g.2 none } }

theorem sheddingCeiling_due {s : State} (hready : s.isReady = true) (hdue : s.lastBlock % 1024 = 0) (honce : s.mash.shedAt ≠ s.lastBlock)
    (hsilent : s.mash.voices = []) : exec .sheddingCeiling s = .next s.ceiled := by
  have hbegun : s.periodBegun = false := by
    unfold State.periodBegun
    rw [hsilent]
    rfl
  rw [exec_sheddingCeiling]
  unfold execSheddingCeiling
  rw [if_neg (by simp [hready, hdue, honce]), hbegun, if_neg Bool.false_ne_true]
  refine (congrArg s.done (?_ : State.shedAll _ _ = s.ceiled)).trans (done_same s _ rfl rfl)
  exact shedAll_silent (s := s.ceiled) s.lastBlock hsilent

theorem sheddingCeiling_idle {s : State} (h : s.lastBlock % 1024 ≠ 0 ∨ s.mash.shedAt = s.lastBlock) : exec .sheddingCeiling s = .next s := by
  rw [exec_sheddingCeiling]
  unfold execSheddingCeiling
  rw [if_pos (by rcases h with h | h <;> simp [h])]
  exact done_same s s rfl rfl

theorem ceiled_region {s : State} (hpart : s.part.variant = .qk2048a) (hregions : s.mash.regions.length = 2) {r : Nat} (hr : r < 2) :
    s.ceiled.mash.regions.getD r (Region.reset false)
      = { s.mash.regions.getD r (Region.reset false) with ceiling := s.nextCeiling r } := by
  obtain ⟨a, b, hab⟩ := List.length_eq_two.1 hregions
  have htwo : s.part.variant.regionCount = 2 := by rw [hpart]; rfl
  unfold State.ceiled
  simp only [hab, htwo]
  match r, hr with
  | 0, _ => rfl
  | 1, _ => rfl

theorem nextCeiling_unceiled {s : State} {r : Nat} (h : s.ceilingOf r = none) :
    s.nextCeiling r = if 120 ≤ s.hottest then some (s.nonSafety r - 64) else none := by
  unfold State.nextCeiling
  rw [h]

theorem nextCeiling_ceiled {s : State} {r c : Nat} (h : s.ceilingOf r = some c) :
    s.nextCeiling r = if 120 ≤ s.hottest then some (c - 64)
      else if 115 ≤ s.hottest then some c else if 1024 ≤ c + 64 then none else some (c + 64) := by
  unfold State.nextCeiling
  rw [h]
  dsimp only
  by_cases hwarm : 115 ≤ s.hottest
  · rw [if_pos hwarm, if_neg (Int.not_lt.2 hwarm)]
  · rw [if_neg hwarm, if_pos (Int.not_le.1 hwarm)]

/-! ### Region 1 (R402) -/

theorem regionInService_eq {s : State} (hready : s.isReady = true) : exec .regionInService s = s.done (s.regionOne (s.lastBlock + 1)) := by
  rw [exec_regionInService]
  unfold execRegionInService
  rw [if_pos hready]
  rfl

/-! ### Standby (R617, R618, R620) -/

theorem standbyEntry_enters {s : State} (hready : s.isReady = true) (hasked : s.pwr.standbyReq = true) (hjobs : s.fw.jobs = [])
    (hupdate : s.fw.update = 0) : exec .standbyEntry s = .next (s.enterStandby (s.lastBlock + 1)) := by
  rw [exec_standbyEntry]
  unfold execStandbyEntry
  rw [if_pos (by simp [hready, hasked, hjobs, hupdate])]
  exact done_same s _ rfl rfl

theorem standbyEntry_waits {s : State} (h : s.pwr.standbyReq = false ∨ s.fw.jobs ≠ [] ∨ s.fw.update ≠ 0) :
    exec .standbyEntry s = .next s := by
  rw [exec_standbyEntry]
  unfold execStandbyEntry
  rw [if_neg]
  · exact done_same s s rfl rfl
  · rcases h with h | h | h <;> simp [h]

/-- Of the registers standby keeps those of the timers (R618). -/
theorem enterStandby_timerReg (s : State) (n : Nat) {o : Nat} (ho : o < 0x10000) : (s.enterStandby n).reg bTIMER o = s.reg bTIMER o := by
  have hblock : regKey bTIMER o / 0x10000 = bTIMER := by
    unfold regKey
    omega
  exact (sget_filter _ s.regs (fun k => k / 0x10000 == bTIMER) _).trans (if_pos (by simp [hblock]))

/-- The comparators that wake the part are the armed thresholds of the channels in use (R620). -/
theorem mem_wakers (s : State) {c k : Nat} (hc : c < 8) (hk : k < 2) :
    WakeComp.mk c k ∈ s.wakers ↔ s.senseOn c = true ∧ bit (s.thrCfg c k) 0 = true ∧ bit (s.thrCfg c k) 3 = true := by
  unfold State.wakers
  simp only [List.mem_map, List.mem_filter, List.mem_range, Bool.and_eq_true, WakeComp.mk.injEq]
  constructor
  · rintro ⟨i, ⟨-, ⟨hon, hentry⟩, hflag⟩, rfl, rfl⟩
    exact ⟨hon, hentry, hflag⟩
  · rintro ⟨hon, hentry, hflag⟩
    have hdiv : (2 * c + k) / 2 = c := by omega
    have hmod : (2 * c + k) % 2 = k := by omega
    exact ⟨2 * c + k, ⟨by omega, by simp [hdiv, hmod, hon, hentry, hflag]⟩, hdiv, hmod⟩

/-! ### The statement -/

/-- Settles O33: what each row finds due, and what it leaves where nothing is. -/
theorem afterBoundary : Obligations.AfterBoundary := by
  intro s hready hot
  refine ⟨fun hdue honce hsilent hpart hregions => ?ceilings, sheddingCeiling_idle, fun b hb => ⟨fun hnow => ?serves, fun hlater => ?waits⟩,
    fun hasked hjobs hupdate => ?enters, standbyEntry_waits⟩
  case ceilings =>
    refine ⟨s.ceiled, sheddingCeiling_due hready hdue honce hsilent, rfl, by simp [State.ceiled, hregions], fun r hr => ?_⟩
    intro g next
    rw [ceiled_region hpart hregions hr]
    cases hc : g.ceiling with
    | none =>
      have hnext : next = if 120 ≤ hot then some (s.nonSafety r - 64) else none := by simp only [next, hc]
      rw [hnext, nextCeiling_unceiled hc]
      rfl
    | some c =>
      have hnext : next = if 120 ≤ hot then some (c - 64) else if 115 ≤ hot then some c else if 1024 ≤ c + 64 then none else some (c + 64) := by
        simp only [next, hc]
      rw [hnext, nextCeiling_ceiled hc]
      rfl
  case serves =>
    rw [regionInService_eq hready]
    unfold State.regionOne
    rw [hb]
    dsimp only
    rw [if_pos hnow]
    rfl
  case waits =>
    rw [regionInService_eq hready]
    unfold State.regionOne
    rw [hb]
    dsimp only
    rw [if_neg (by omega)]
    rfl
  case enters =>
    exact ⟨_, standbyEntry_enters hready hasked hjobs hupdate, rfl, rfl, rfl, rfl, rfl, rfl, fun o ho => enterStandby_timerReg s _ ho,
      rfl, rfl, rfl, rfl, rfl, rfl, rfl, rfl, rfl, fun c hc k hk => mem_wakers s hc hk⟩

end Sys2Proof.Machine
end

section
/-! Taking from the command ring (R325, R384 to R390): TAKE_DOORBELL, TAKING_RESUME, and OVERFLOW of the event ring (R397). -/
namespace Sys2Proof.Machine

/-! ### The message at CMD_TAIL (R383, R385) -/

def State.tailLen (s : State) : Nat := bits (s.mbx s.host.cmdTail).toNat 0 8

def State.tailCmd (s : State) : Cmd := s.ringCmd (s.mbx s.host.cmdTail).toNat (s.host.cmdTail + 1) s.tailLen

def State.tailMsg (s : State) : Msg := ⟨s.tailCmd.session, s.tailCmd.seq, s.tailCmd.words⟩

/-- CMD_TAIL stands at the head that was read. -/
def State.emptied (s : State) : State := { s with host.cmdTail := s.fw.limit }

/-- The ring holds one message up to the head that was read, and every word of it reads well. -/
structure OneMessage (s : State) (bad : List Nat) : Prop where
  tail  : s.host.cmdTail < 4096
  limit : s.fw.limit = (s.host.cmdTail + s.tailLen + 1) % 4096
  reads : ∀ i, i ≤ s.tailLen → (s.host.cmdTail + i) % 4096 ∉ bad

/-- A message may be taken and answered at once. -/
structure MayTake (s : State) : Prop where
  takes : s.canTake = true
  clear : ClearToAnswer s
  room  : s.responseRoom = true

section Taking
variable {s : State} {bad : List Nat} {rd : List PageFault}

theorem tailLen_lt (s : State) : s.tailLen < 256 := Nat.mod_lt _ (by decide)

theorem takeMessage_whole (h : OneMessage s bad) : s.takeMessage bad rd = s.emptied.takeCmd rd s.tailCmd := by
  obtain ⟨htail, hlimit, hreads⟩ := h
  have hlen := tailLen_lt s
  have hroom : (s.fw.limit + 4096 - s.host.cmdTail) % 4096 = s.tailLen + 1 := by omega
  have hhead : bad.contains s.host.cmdTail = false := by
    have h0 := hreads 0 (Nat.zero_le _)
    rw [Nat.add_zero, Nat.mod_eq_of_lt htail] at h0
    simpa using h0
  have hwords : ((List.range s.tailLen).map fun k => (s.host.cmdTail + 1 + k) % 4096).find? bad.contains = none := by
    simp only [List.find?_eq_none, List.mem_map, List.mem_range]
    rintro w ⟨k, hk, rfl⟩
    have hword := hreads (k + 1) hk
    rw [show s.host.cmdTail + (k + 1) = s.host.cmdTail + 1 + k by omega] at hword
    simpa using hword
  unfold State.takeMessage
  dsimp only
  rw [show bits (s.mbx s.host.cmdTail).toNat 0 8 = s.tailLen from rfl, hhead, if_neg Bool.false_ne_true, hroom, if_neg (Nat.lt_irrefl _),
    hwords, ← hlimit]
  rfl

/-- Nothing is taken at the head that was read, or while the firmware takes nothing or the response ring has no room (R384, R388). -/
theorem takeMessages_idle (h : s.fw.limit = s.host.cmdTail ∨ s.canTake = false ∨ s.responseRoom = false) (fuel : Nat) :
    s.takeMessages bad rd fuel = s := by
  cases fuel with
  | zero => rfl
  | succ fuel =>
    refine if_pos ?_
    rcases h with h | h | h <;> simp [h]

/-- A message whose taking brings CMD_TAIL to the head that was read is the last one. -/
theorem takeMessages_last {t : State} (h : MayTake s) (hleft : s.fw.limit ≠ s.host.cmdTail) (ht : s.takeMessage bad rd = t)
    (hlast : t.fw.limit = t.host.cmdTail) (fuel : Nat) : s.takeMessages bad rd (fuel + 1) = t := by
  have hgoes : ¬ (s.host.cmdTail = s.fw.limit ∨ (!s.canTake) = true ∨ (!s.responseRoom) = true) := by
    simp [h.takes, h.room, Ne.symm hleft]
  exact (if_neg hgoes).trans (ht ▸ takeMessages_idle (.inl hlast) fuel)

/-- One message whose taking ends in an answer: CMD_TAIL passes it and its response stands in the ring. -/
theorem takeMessages_answers {op : Nat} {ws : List Word} (h : MayTake s) (hone : OneMessage s bad) (hl : ws.length < 2047)
    (hwork : s.emptied.takeCmd rd s.tailCmd = s.emptied.respond (cmdOf op s.tailMsg) ws) (fuel : Nat) :
    ∃ mb, s.takeMessages bad rd (fuel + 1) = s.emptied.answered ws.length mb ∧ Responds s (s.emptied.answered ws.length mb) op s.tailMsg ws := by
  obtain ⟨mb, heq, hresponds, -⟩ := respond_answered (s := s.emptied) h.clear op s.tailMsg hl
  have hleft : s.fw.limit ≠ s.host.cmdTail := by
    have htail := hone.tail
    have hlen := tailLen_lt s
    rw [hone.limit]
    omega
  exact ⟨mb, takeMessages_last h hleft ((takeMessage_whole hone).trans (hwork.trans heq)) rfl fuel, hresponds⟩

/-- A message that the checks refuse is answered by their status. -/
theorem takeMessages_refused {st : Nat} (h : MayTake s) (hone : OneMessage s bad) (hrefused : s.refusal s.tailCmd = some st) (fuel : Nat) :
    ∃ mb, s.takeMessages bad rd (fuel + 1) = s.emptied.answered 1 mb
      ∧ Responds s (s.emptied.answered 1 mb) s.tailCmd.opcode s.tailMsg [statusWord st 0] :=
  takeMessages_answers (ws := [statusWord st 0]) h hone (by simp) (takeCmd_refused (s := s.emptied) rd h.takes h.room hrefused) fuel

/-- A PING that passes its checks is answered by device time (R404). -/
theorem takeMessages_ping (h : MayTake s) (hone : OneMessage s bad) (hpass : s.refusal s.tailCmd = none) (hop : s.tailCmd.opcode = 0x02)
    (fuel : Nat) : ∃ mb, s.takeMessages bad rd (fuel + 1) = s.emptied.answered 3 mb
      ∧ Responds s (s.emptied.answered 3 mb) 0x02 s.tailMsg (okWord :: timeWords s.time) := by
  have hcmd : s.tailCmd = cmdOf 0x02 s.tailMsg := by
    rw [← hop]
    rfl
  refine takeMessages_answers (ws := okWord :: timeWords s.time) h hone (by simp [timeWords]) ?_ fuel
  rw [takeCmd_works (s := s.emptied) rd ⟨h.takes, h.room, hpass⟩ rfl, hop, hcmd]
  rfl

/-! ### A header that cannot be read (R325, R386) -/

/-- The message of a ring word that reads as uncorrectable: MEM_UNCORRECTABLE of memory 14 (R325). -/
def ringLost (w : Nat) : BitVec 64 := mkMsg 2 0 kMemUncorrectable 1 (14 * 256) w

theorem takeMessages_unread (h : MayTake s) (hleft : s.fw.limit ≠ s.host.cmdTail) (hbad : s.host.cmdTail ∈ bad)
    (hheard : Heard s (ringLost s.host.cmdTail)) (fuel : Nat) :
    ∃ mb, s.takeMessages bad rd (fuel + 1) = (s.emptied.answered 1 mb).report (ringLost s.host.cmdTail) 3 1
      ∧ Responds s (s.emptied.answered 1 mb) 0 ⟨0, 0, []⟩ [statusWord 0x18 0] := by
  obtain ⟨mb, heq, hresponds, -⟩ := respond_answered (s := s.emptied.report (ringLost s.host.cmdTail) 3 1)
    (by rw [Heard.report_eq (s := s.emptied) hheard]; exact h.clear) 0 ⟨0, 0, []⟩ (ws := [statusWord 0x18 0]) (by simp)
  have hreport : (s.emptied.report (ringLost s.host.cmdTail) 3 1).answered 1 mb
      = (s.emptied.answered 1 mb).report (ringLost s.host.cmdTail) 3 1 := by
    rw [Heard.report_eq (s := s.emptied) hheard, Heard.report_eq (s := s.emptied.answered 1 mb) hheard]
    rfl
  have htaken : s.takeMessage bad rd = (s.emptied.answered 1 mb).report (ringLost s.host.cmdTail) 3 1 := by
    unfold State.takeMessage
    dsimp only
    rw [if_pos (List.contains_iff_mem.2 hbad), ← hreport]
    exact heq
  rw [Heard.report_eq (s := s.emptied) hheard] at hresponds
  refine ⟨mb, takeMessages_last h hleft htaken ?_ fuel, hresponds⟩
  rw [Heard.report_eq (s := s.emptied.answered 1 mb) hheard]
  rfl

/-! ### Ends of the rows that take from the ring -/

/-- A row that ends in what is taken from the ring of `b` answers as the taking does. -/
theorem exec_answered {i : Instr} {b : State} {n op : Nat} {m : Msg} {ws : List Word} (he : exec i s = s.ends (b.takeMessages bad rd 4096))
    (hquiet : b.kiln.raised = []) (hpending : b.pending = s.pending) (hpart : b.part = s.part)
    (h : ∃ mb, b.takeMessages bad rd 4096 = b.emptied.answered n mb ∧ Responds b (b.emptied.answered n mb) op m ws) :
    ∃ t, exec i s = .next t ∧ t.offRings = b.emptied.offRings ∧ Responds b t op m ws := by
  obtain ⟨mb, heq, hresponds⟩ := h
  rw [he, heq]
  exact ⟨_, ends_quiet s _ hquiet hpending hpart, rfl, hresponds⟩

theorem Responds.captured {t : State} {op : Nat} {m : Msg} {ws : List Word} (h : Responds s t op m ws) (msg : BitVec 64)
    (master access : Nat) : Responds s (t.captured msg master access) op m ws :=
  ⟨h.1, h.2.1, irq_keeps 5 h.2.2⟩

/-- A row that ends in the loss of a header captures its message and answers RING_ERROR (R325, R328, R386). -/
theorem exec_unread {i : Instr} {b : State} (he : exec i s = s.ends (b.takeMessages bad rd 4096)) (hpending : b.pending = s.pending)
    (hpart : b.part = s.part) (h : MayTake b) (hleft : b.fw.limit ≠ b.host.cmdTail) (hbad : b.host.cmdTail ∈ bad) (hheard : Heard b (ringLost b.host.cmdTail))
    (hfree : FreeSet b (ringLost b.host.cmdTail)) :
    ∃ t, exec i s = .next t
      ∧ t.offRings = (b.emptied.captured (ringLost b.host.cmdTail) 3 1).offRings ∧ Responds b t 0 ⟨0, 0, []⟩ [statusWord 0x18 0] := by
  obtain ⟨mb, heq, hresponds⟩ := takeMessages_unread (rd := rd) h hleft hbad hheard 4095
  have hclass : msgClass (ringLost b.host.cmdTail) = 1 := msgClass_mkMsg ..
  rw [he, heq]
  exact ⟨_, ends_report_captured (u := b.emptied.answered 1 mb) 3 1 hheard (.inl hclass) hfree hpending hpart, rfl,
    hresponds.captured _ _ _⟩

end Taking

/-! ### TAKE_DOORBELL (R384, R390) -/

/-- The state in which TAKE_DOORBELL begins to take: the doorbell is acknowledged and the head is read. -/
def State.rung (s : State) : State :=
  { s with
    host.bellCmd := false
    host.bellBulk := [false, false]
    host.irqStatus := setBit s.host.irqStatus 2
    fw.limit := s.host.cmdHead }

theorem lineFramesTaken_none {s : State} (rd : List PageFault) (h : ∀ u ∈ s.uarts, u.ready = []) : s.lineFramesTaken rd = s := by
  have hready (x : Nat) : (s.uart x).ready = [] := by
    unfold State.uart
    by_cases hx : x < s.uarts.length
    · rw [List.getD_eq_getElem _ _ hx]
      exact h _ (List.getElem_mem hx)
    · rw [List.getD_eq_default _ _ (Nat.not_lt.1 hx)]
      rfl
  unfold State.lineFramesTaken
  exact foldl_keeps _ s _ fun x _ => by rw [hready]; rfl

theorem exec_takeDoorbell_rung {s : State} (bad : List Nat) (rd : List PageFault) (htake : s.canTake = true) (hbell : s.host.bellCmd = true)
    (hlines : ∀ u ∈ s.uarts, u.ready = []) : exec (.takeDoorbell bad rd) s = s.ends (s.rung.takeMessages bad rd 4096) := by
  rw [exec_takeDoorbell]
  unfold execTakeDoorbell State.takeDoorbell
  rw [if_neg (by simp [htake]), lineFramesTaken_none rd hlines]
  exact congrArg s.ends (if_pos hbell)

theorem takeDoorbell : Says.TakeDoorbell := by
  intro s bad rd head tail h n c m b done answers lost hquiet htake hbell hlines
  have hexec := exec_takeDoorbell_rung bad rd htake hbell hlines
  refine ⟨fun hempty => ?empty, fun hclear hroom htail hhead hreads => ?one, fun hclear hroom hleft hbad hheard hfree => ?unread⟩
  case empty =>
    rw [hexec, takeMessages_idle (.inl hempty)]
    exact ends_quiet s s.rung hquiet rfl rfl
  case one =>
    have hmay : MayTake s.rung := ⟨htake, hclear, hroom⟩
    have hone : OneMessage s.rung bad := ⟨htail, hhead, hreads⟩
    exact ⟨fun st hrefused => exec_answered hexec hquiet rfl rfl (takeMessages_refused hmay hone hrefused 4095),
      fun hpass hop => exec_answered hexec hquiet rfl rfl (takeMessages_ping hmay hone hpass hop 4095)⟩
  case unread => exact exec_unread hexec rfl rfl ⟨htake, hclear, hroom⟩ hleft hbad hheard hfree

/-! ### TAKING_RESUME and OVERFLOW (R388, R397) -/

/-- Once its words are free, OVERFLOW reports the events dropped before it, and their count begins again (R397). -/
theorem overflow_posts {s : State} (hdropped : s.fw.dropped ≠ 0)
    (htail : tailLegal s.fw.seenEvtTail s.host.evtTail s.host.evtHead = true) (hroom : 4 ≤ s.evtFree) :
    s.checkEvtTail.postOverflow
      = ({ s with fw.seenEvtTail := s.host.evtTail, fw.dropped := 0 } : State).putEvent 0x80 0 [w32 s.fw.dropped] := by
  have hchecked : s.checkEvtTail = { s with fw.seenEvtTail := s.host.evtTail } := if_pos htail
  rw [hchecked]
  exact if_neg (by rw [not_or, Nat.not_lt]; exact ⟨hdropped, hroom⟩)

theorem putEvent_dropped (s : State) (code session : Nat) (ws : List Word) : (s.putEvent code session ws).fw.dropped = s.fw.dropped := by
  obtain ⟨mb, hmb⟩ := ringWrite_host s 6144 2048 s.host.evtHead (header code session s.fw.evtSeq (ws.length + 2) :: (timeWords s.time ++ ws))
  unfold State.putEvent
  dsimp only
  rw [hmb]
  rfl

theorem exec_overflow_posts {s : State} (htakes : s.fwTakes = true) (hdropped : s.fw.dropped ≠ 0)
    (htail : tailLegal s.fw.seenEvtTail s.host.evtTail s.host.evtHead = true) (hroom : 4 ≤ s.evtFree) :
    ∃ t, exec .overflow s = .next t ∧ t.offRings = s.offRings ∧ t.fw.dropped = 0 ∧ Posts s t 0x80 0 [w32 s.fw.dropped] := by
  have hrun : exec .overflow s
      = s.done (({ s with fw.seenEvtTail := s.host.evtTail, fw.dropped := 0 } : State).putEvent 0x80 0 [w32 s.fw.dropped]) := by
    rw [exec_overflow, execOverflow, if_pos htakes, overflow_posts hdropped htail hroom]
  exact ⟨_, exec_next_of_off hrun (putEvent_off ..) rfl rfl, putEvent_off .., putEvent_dropped ..,
    (putEvent_posts { s with fw.seenEvtTail := s.host.evtTail, fw.dropped := 0 } 0x80 0 [w32 s.fw.dropped] (by simp)).1⟩

theorem resumeAndOverflow : Says.ResumeAndOverflow := by
  intro s bad rd h n c m done answers lost hquiet
  have hexec : exec (.takingResume bad rd) s = s.ends (s.takeMessages bad rd 4096) := rfl
  refine ⟨fun hidle => ?idle, fun htake hclear hroom htail hhead hreads => ?one, fun htake hclear hroom hbad hleft hheard hfree => ?unread,
    exec_overflow_posts⟩
  case idle =>
    rw [hexec, takeMessages_idle hidle]
    exact ends_quiet s s hquiet rfl rfl
  case one =>
    have hmay : MayTake s := ⟨htake, hclear, hroom⟩
    have hone : OneMessage s bad := ⟨htail, hhead, hreads⟩
    exact ⟨fun st hrefused => exec_answered hexec hquiet rfl rfl (takeMessages_refused hmay hone hrefused 4095),
      fun hpass hop => exec_answered hexec hquiet rfl rfl (takeMessages_ping hmay hone hpass hop 4095)⟩
  case unread => exact exec_unread hexec rfl rfl ⟨htake, hclear, hroom⟩ hleft hbad hheard hfree

/-- Settles O11: what is taken from the ring, from the doorbell on and from a pause on, and the report of dropped events. -/
theorem commandTaking : Obligations.CommandTaking := ⟨takeDoorbell, resumeAndOverflow⟩

end Sys2Proof.Machine
end

section
/-! The Copper's program words (R482 to R486): what the fields of an encoded word read back as, format by format. -/
namespace Sys2Proof.Machine

/-! ### Format A -/

theorem opcode_encodeA (op : BitVec 6) (a : FmtA) : pfield (encodeA op a) 58 6 = op := by
  unfold pfield encodeA
  simp (disch := decide) only [Nat.reduceSub, BitVec.extractLsb'_append_eq_of_le, BitVec.extractLsb'_eq_self]

theorem encodeMv_fields (m : Mv) : (encodeMv m).extractLsb' 18 2 = m.k ∧ (encodeMv m).extractLsb' 16 2 = m.p
    ∧ (encodeMv m).extractLsb' 14 2 = m.m ∧ (encodeMv m).extractLsb' 10 4 = m.r ∧ (encodeMv m).extractLsb' 0 10 = 0 := by
  unfold encodeMv
  simp (disch := decide) only [Nat.reduceSub, BitVec.extractLsb'_append_eq_of_le, BitVec.extractLsb'_append_eq_of_add_le,
    BitVec.extractLsb'_eq_self, BitVec.ofNat_eq_ofNat, and_self]

theorem decodeFmtA_encodeA (op : BitVec 6) (a : FmtA) : decodeFmtA (encodeA op a) = a := by
  unfold decodeFmtA decodeMv
  simp only [Nat.reduceAdd]
  unfold pfield encodeA
  simp (disch := decide) only [Nat.reduceSub, BitVec.extractLsb'_append_eq_of_le, BitVec.extractLsb'_append_eq_of_add_le,
    BitVec.extractLsb'_eq_self, encodeMv_fields]

theorem rsvA_encodeA (op : BitVec 6) (a : FmtA) : rsvA (encodeA op a) = true := by
  unfold rsvA pfield encodeA
  simp (disch := decide) only [Nat.reduceSub, BitVec.extractLsb'_append_eq_of_le, BitVec.extractLsb'_append_eq_of_add_le,
    encodeMv_fields, beq_self_eq_true, Bool.and_self]

theorem decodeRaw_encodeA {op : BitVec 6} (a : FmtA) (h : op.toNat < 0x20) : decodeRaw (encodeA op a) = decodeA op.toNat a := by
  unfold decodeRaw
  rw [opcode_encodeA, if_pos h, if_pos (rsvA_encodeA op a), decodeFmtA_encodeA]

/-! ### Format M -/

section FormatM
variable (op reg : BitVec 6) (addr : BitVec 16) (imm : Word)

theorem opcode_encodeM : pfield (encodeM op reg addr imm) 58 6 = op := by
  unfold pfield encodeM
  simp (disch := decide) only [Nat.reduceSub, BitVec.extractLsb'_append_eq_of_le, BitVec.extractLsb'_eq_self]

theorem reg_encodeM : pfield (encodeM op reg addr imm) 52 6 = reg := by
  unfold pfield encodeM
  simp (disch := decide) only [Nat.reduceSub, BitVec.extractLsb'_append_eq_of_le, BitVec.extractLsb'_append_eq_of_add_le,
    BitVec.extractLsb'_eq_self]

theorem rsvM_encodeM : rsvM (encodeM op reg addr imm) = true := by
  unfold rsvM pfield encodeM
  simp (disch := decide) only [Nat.reduceSub, BitVec.extractLsb'_append_eq_of_le, BitVec.extractLsb'_append_eq_of_add_le,
    BitVec.extractLsb'_eq_self, BitVec.ofNat_eq_ofNat, beq_self_eq_true]

theorem addr_encodeM : pfield (encodeM op reg addr imm) 32 16 = addr := by
  unfold pfield encodeM
  simp (disch := decide) only [Nat.reduceSub, BitVec.extractLsb'_append_eq_of_le, BitVec.extractLsb'_append_eq_of_add_le,
    BitVec.extractLsb'_eq_self]

theorem imm_encodeM : pfield (encodeM op reg addr imm) 0 32 = imm := by
  unfold pfield encodeM
  simp (disch := decide) only [BitVec.extractLsb'_append_eq_of_add_le, BitVec.extractLsb'_eq_self]

theorem src_encodeM (q : BitVec 6) : pfield (encodeM op reg addr (0#26 ++ q)) 0 6 = q ∧ pfield (encodeM op reg addr (0#26 ++ q)) 6 26 = 0 := by
  unfold pfield encodeM
  simp (disch := decide) only [Nat.reduceSub, BitVec.extractLsb'_append_eq_of_le, BitVec.extractLsb'_append_eq_of_add_le,
    BitVec.extractLsb'_eq_self, BitVec.ofNat_eq_ofNat, and_self]

theorem io_encodeM (io : BitVec 12) : pfield (encodeM op reg (0#4 ++ io) imm) 32 12 = io ∧ pfield (encodeM op reg (0#4 ++ io) imm) 44 4 = 0 := by
  unfold pfield encodeM
  simp (disch := decide) only [Nat.reduceSub, BitVec.extractLsb'_append_eq_of_le, BitVec.extractLsb'_append_eq_of_add_le,
    BitVec.extractLsb'_eq_self, BitVec.ofNat_eq_ofNat, and_self]

variable {op}

theorem decodeRaw_encodeM (h : 0x20 ≤ op.toNat ∧ op.toNat < 0x30) :
    decodeRaw (encodeM op reg addr imm) = decodeM op.toNat (encodeM op reg addr imm) := by
  unfold decodeRaw
  rw [opcode_encodeM, if_neg (Nat.not_lt.2 h.1), if_pos h.2, if_pos (rsvM_encodeM ..)]

end FormatM

/-! ### Format B -/

section FormatB
variable (op : BitVec 6) (cond : BitVec 4) (target : BitVec 14) (count : BitVec 16)

theorem opcode_encodeB : pfield (encodeB op cond target count) 58 6 = op := by
  unfold pfield encodeB
  simp (disch := decide) only [Nat.reduceSub, BitVec.extractLsb'_append_eq_of_le, BitVec.extractLsb'_eq_self]

theorem cond_encodeB : pfield (encodeB op cond target count) 54 4 = cond := by
  unfold pfield encodeB
  simp (disch := decide) only [Nat.reduceSub, BitVec.extractLsb'_append_eq_of_le, BitVec.extractLsb'_append_eq_of_add_le,
    BitVec.extractLsb'_eq_self]

theorem target_encodeB : pfield (encodeB op cond target count) 36 14 = target := by
  unfold pfield encodeB
  simp (disch := decide) only [Nat.reduceSub, BitVec.extractLsb'_append_eq_of_le, BitVec.extractLsb'_append_eq_of_add_le,
    BitVec.extractLsb'_eq_self]

theorem count_encodeB : pfield (encodeB op cond target count) 16 16 = count := by
  unfold pfield encodeB
  simp (disch := decide) only [Nat.reduceSub, BitVec.extractLsb'_append_eq_of_le, BitVec.extractLsb'_append_eq_of_add_le,
    BitVec.extractLsb'_eq_self]

theorem rsvB_encodeB : rsvB (encodeB op cond target count) = true := by
  unfold rsvB pfield encodeB
  simp (disch := decide) only [Nat.reduceSub, BitVec.extractLsb'_append_eq_of_le, BitVec.extractLsb'_append_eq_of_add_le,
    BitVec.extractLsb'_eq_self, BitVec.ofNat_eq_ofNat, beq_self_eq_true, Bool.and_self]

variable {op}

theorem decodeRaw_encodeB (h : 0x30 ≤ op.toNat) :
    decodeRaw (encodeB op cond target count) = decodeB op.toNat (encodeB op cond target count) := by
  unfold decodeRaw
  rw [opcode_encodeB, if_neg (by omega), if_neg (by omega), if_pos (rsvB_encodeB ..)]

end FormatB

/-! ### The instruction of an encoded word -/

theorem decodeRaw_encodeCopper {i : Instr} (h : copperOk i = true) : decodeRaw (encodeCopper i) = some i := by
  cases i with
  | cNop a | cMpy a | cMac a | cMsu a | cCmpy a | cCmac a | cCmsu a | cCmacj a | cAdd a | cSub a | cAdds a | cSubs a | cAnd a | cOr a
  | cXor a | cAbs a | cSha a | cShl a | cAadd a | cAsub a | cAsh a | cRnd a | cClr a | cCmp a | cTsta a | cMaxi a | cMini a | cMvc a =>
    exact decodeRaw_encodeA a (by decide)
  | cLdi r imm =>
    refine (decodeRaw_encodeM r 0 imm (by decide)).trans ?_
    simp [decodeM, reg_encodeM, imm_encodeM]
  | cMv r q =>
    refine (decodeRaw_encodeM r 0 _ (by decide)).trans ?_
    simp [decodeM, reg_encodeM, src_encodeM]
  | cLdx r ad | cStx r ad | cLdy r ad | cSty r ad =>
    refine (decodeRaw_encodeM r ad 0 (by decide)).trans ?_
    simp [decodeM, reg_encodeM, addr_encodeM]
  | cLdio r io | cStio r io =>
    refine (decodeRaw_encodeM r _ 0 (by decide)).trans ?_
    simp [decodeM, reg_encodeM, io_encodeM]
  | cPush r | cPop r =>
    refine (decodeRaw_encodeM r 0 0 (by decide)).trans ?_
    simp [decodeM, reg_encodeM]
  | cBr c t =>
    refine (decodeRaw_encodeB c t 0 (by decide)).trans ?_
    simp [decodeB, cond_encodeB, target_encodeB]
  | cCall t =>
    refine (decodeRaw_encodeB 0 t 0 (by decide)).trans ?_
    simp [decodeB, cond_encodeB, target_encodeB]
  | cRet | cReti | cWfr => exact decodeRaw_encodeB 0 0 0 (by decide)
  | cLoop t n =>
    refine (decodeRaw_encodeB 0 t n (by decide)).trans ?_
    simp [decodeB, target_encodeB, count_encodeB]
  | cRep n =>
    refine (decodeRaw_encodeB 0 0 n (by decide)).trans ?_
    simp [decodeB, count_encodeB]
  | _ => exact absurd h Bool.false_ne_true

/-- Settles O7: the fields of each format's word read back, so the word spells its instruction. -/
theorem copperDecodesItsWords : Obligations.CopperDecodesItsWords := by
  intro i h
  unfold decodeCopper
  rw [decodeRaw_encodeCopper h]
  exact if_pos h

end Sys2Proof.Machine
end

section
/-! The Copper's arithmetic (R487 to R494): the d-register operations, the accumulators, the complex operations, and what sets flags alone. -/
namespace Sys2Proof.Machine

/-! ### Accepted codes -/

section Codes
variable {a : FmtA}

theorem isD_dst_of_ddd (h : ((mvOk a.x && mvOk a.y) && isD a.dst && isD a.s1 && isD a.s2) = true) : isD a.dst = true := by
  simp only [Bool.and_eq_true] at h
  obtain ⟨⟨⟨-, hdst⟩, -⟩, -⟩ := h
  exact hdst

theorem isA_dst_of_add2 {b c : Bool} (h : ((mvOk a.x && mvOk a.y) && isA a.dst && b && c) = true) : isA a.dst = true := by
  simp only [Bool.and_eq_true] at h
  obtain ⟨⟨⟨-, hdst⟩, -⟩, -⟩ := h
  exact hdst

theorem dst_of_dd {f : BitVec 4 → Bool} {b : Bool} (h : ((mvOk a.x && mvOk a.y) && f a.dst && b) = true) : f a.dst = true := by
  simp only [Bool.and_eq_true] at h
  obtain ⟨⟨-, hdst⟩, -⟩ := h
  exact hdst

theorem toNat_lt_of_isD {c : BitVec 4} (h : isD c = true) : c.toNat < 8 := by
  simpa [isD, BitVec.lt_def] using h

/-- The even register of a d pair has its odd one beside it. -/
theorem toNat_lt_of_isDp {c : BitVec 4} (h : isDp c = true) : c.toNat + 1 < 8 := by
  revert c
  decide

end Codes

/-! ### Instructions that write data registers at most -/

/-- The d registers after the codes of an effect. -/
def setCodes (d : List Word) (e : Effect) : List Word := e.codes.foldl (fun d x => d.set x.1 x.2) d

theorem store_codes (l : Copper) {e : Effect} (ha : e.accs = []) (hc : ∀ x ∈ e.codes, x.1 < 8) :
    l.store e = { l with d := setCodes l.d e, ptr := setPtrs l.ptr e } := by
  have hfold : ∀ (cs : List (Nat × Word)) (l : Copper), (∀ x ∈ cs, x.1 < 8) →
      cs.foldl (fun (c : Copper) x => c.writeCode x.1 x.2) l = { l with d := cs.foldl (fun d x => d.set x.1 x.2) l.d } := by
    intro cs
    induction cs with
    | nil => exact fun _ _ => rfl
    | cons x cs ih =>
      intro l h
      have hx : l.writeCode x.1 x.2 = { l with d := l.d.set x.1 x.2 } := if_pos (h x List.mem_cons_self)
      rw [List.foldl_cons, hx, ih _ fun y hy => h y (List.mem_cons_of_mem _ hy), List.foldl_cons]
  unfold Copper.store setCodes setPtrs
  rw [hfold e.codes l hc, ha]
  rfl

theorem CopperKeeps.congr {before after : Copper} {e m : Effect} (h : CopperKeeps before after e) (hp : e.ptrs = m.ptrs)
    (hf : e.flights = m.flights) : CopperKeeps before after m := by
  obtain ⟨hrest, hptr, hflights, hcycles⟩ := h
  unfold setPtrs at hptr
  rw [hp] at hptr
  exact ⟨hrest, hptr, hflights.trans hf, hcycles⟩

/-- An effect that goes on to the next address and writes no accumulator. -/
structure PlainEffect (e : Effect) : Prop where
  flow    : e.flow = .next
  restore : e.restore = none
  accs    : e.accs = []
  codes   : ∀ x ∈ e.codes, x.1 < 8

theorem PlainEffect.carryOut {e : Effect} (h : PlainEffect e) (c : Copper) :
    (c.carryOut e).d = setCodes c.landAll.d e ∧ (c.carryOut e).a = c.landAll.a ∧ CopperKeeps c (c.carryOut e) e
      ∧ (c.carryOut e).sr = e.flags.apply c.landAll.sr := by
  obtain ⟨hd, ha, hptr, hrest, hsr, hflights, -, hcycles⟩ := carryOut_plain c e (by rw [h.flow]; decide) h.restore
  have hstore := store_codes c.landAll h.accs h.codes
  rw [hstore] at hd ha hptr hrest hcycles
  exact ⟨hd, ha, ⟨hrest, hptr, hflights, hcycles.trans (by rw [Copper.landAll_cycles])⟩, hsr⟩

@[simp] theorem Copper.movesEffect_flow (c : Copper) (a : FmtA) : (c.movesEffect a).flow = .next := c.moveEffect_flow false a.x
@[simp] theorem Copper.movesEffect_restore (c : Copper) (a : FmtA) : (c.movesEffect a).restore = none := c.moveEffect_restore false a.x

/-- Codes and flags of an instruction beside its parallel moves. -/
theorem plainEffect_moves (c : Copper) (a : FmtA) {codes : List (Nat × Word)} (f : FlagOut) (h : ∀ x ∈ codes, x.1 < 8) :
    PlainEffect (Effect.also { codes := codes, flags := f } (c.movesEffect a)) where
  flow := rfl
  restore := rfl
  accs := by simp [Effect.also_accs]
  codes := by simpa [Effect.also_codes] using h

/-- A row of such an instruction: data registers by its codes, Z, N, C and V as its flags say, sticky bits of its moves. -/
theorem movesRow {s : State} {i : Instr} {a : FmtA} {codes : List (Nat × Word)} {f : FlagOut} (hcodes : ∀ x ∈ codes, x.1 < 8)
    (hgv : f.gv = false) (hss : f.ss = false) (hcp : f.cp = false)
    (he : exec i s = .next { s with cop := s.cop.carryOut (Effect.also { codes := codes, flags := f } (s.cop.movesEffect a)) }) :
    ∃ c, exec i s = .next { s with cop := c } ∧ c.d = codes.foldl (fun d x => d.set x.1 x.2) s.cop.landAll.d ∧ c.a = s.cop.landAll.a
      ∧ CopperKeeps s.cop c (s.cop.movesEffect a)
      ∧ SrIs s.cop.landAll.sr c.sr (f.z.getD (s.cop.landAll.sr.getLsbD 0)) (f.n.getD (s.cop.landAll.sr.getLsbD 1))
          (f.c.getD (s.cop.landAll.sr.getLsbD 2)) (f.v.getD (s.cop.landAll.sr.getLsbD 3)) false (s.cop.movesEffect a).flags.ss
          (s.cop.movesEffect a).flags.cp := by
  obtain ⟨hd, ha, hkeeps, hsr⟩ := (plainEffect_moves s.cop a f hcodes).carryOut s.cop
  refine ⟨_, he, ?_, ha, hkeeps.congr rfl rfl, ?_⟩
  · rw [hd]
    simp [setCodes, Effect.also_codes]
  · rw [hsr]
    have hflags := apply_srIs (Effect.also { codes := codes, flags := f } (s.cop.movesEffect a)).flags s.cop.landAll.sr
    simpa [Effect.also, hgv, hss, hcp] using hflags

/-- The moves alone are the moves beside no codes and no flags. -/
theorem movesEffect_alone (c : Copper) (a : FmtA) : c.movesEffect a = Effect.also { codes := [], flags := {} } (c.movesEffect a) := by
  have hloop : ∀ y m, (c.moveEffect y m).loop = none := by
    intro y m
    unfold Copper.moveEffect Copper.ptrEffect
    dsimp only
    repeat' split
    all_goals rfl
  simp [Copper.movesEffect, Effect.also, hloop]

/-! ### d registers (R489, R491) -/

theorem copperAddSub : Says.CopperAddSub := by
  intro s a x y sum diff
  refine ⟨fun h => ?add, fun h => ?sub, fun h => ?adds, fun h => ?subs, fun h => ?cmp⟩
  case add => exact dResult_writes s _ a _ (runs_cAdd a s h) (isD_dst_of_ddd h.ok) rfl rfl rfl rfl
  case sub => exact dResult_writes s _ a _ (runs_cSub a s h) (isD_dst_of_ddd h.ok) rfl rfl rfl rfl
  case adds => exact dResult_writes s _ a _ (runs_cAdds a s h) (isD_dst_of_ddd h.ok) rfl rfl rfl rfl
  case subs => exact dResult_writes s _ a _ (runs_cSubs a s h) (isD_dst_of_ddd h.ok) rfl rfl rfl rfl
  case cmp =>
    obtain ⟨c, he, hd, ha, hkeeps, hsr⟩ := movesRow (codes := []) (by simp) rfl rfl rfl (runs_cCmp a s h)
    exact ⟨c, he, ⟨hd, ha⟩, hkeeps, hsr⟩

/-- `abs` is the exact absolute value, clamped: only -1.0 has none in 1.31 (R491). -/
theorem absOut_clamp (x : Word) : (absOut x).1 = clamp32 (x.toInt.natAbs : Int) := by
  by_cases hmin : x = 0x80000000
  · subst hmin
    decide
  · have hne : x.toInt ≠ -0x80000000 := fun h => hmin (BitVec.eq_of_toInt_eq h)
    have hlo := x.le_toInt
    have hhi := x.toInt_lt
    have hfits : clamp32 (x.toInt.natAbs : Int) = w32i (x.toInt.natAbs : Int) := by
      unfold clamp32
      rw [if_neg (by omega), if_neg (by omega)]
    rw [hfits]
    have hsign : x.getLsbD 31 = decide (x.toInt < 0) := by rw [← BitVec.msb_eq_toInt, BitVec.msb_eq_getLsbD_last]
    unfold absOut w32i
    simp only [beq_false_of_ne hmin, Bool.false_eq_true, if_false, hsign, decide_eq_true_eq]
    by_cases hneg : x.toInt < 0
    · have habs : (x.toInt.natAbs : Int) = -x.toInt := by omega
      rw [if_pos hneg, habs, BitVec.ofInt_neg, BitVec.ofInt_toInt]
    · have habs : (x.toInt.natAbs : Int) = x.toInt := by omega
      rw [if_neg hneg, habs, BitVec.ofInt_toInt]

theorem copperLogicShift : Says.CopperLogicShift := by
  intro s a x y k
  refine ⟨fun h => ?and, fun h => ?or, fun h => ?xor, fun h => ?abs, fun h => ?sha, fun h => ?shl, fun h w ovf hw => ?rnd⟩
  case and => exact dResult_writes s _ a _ (runs_cAnd a s h) (isD_dst_of_ddd h.ok) rfl rfl rfl rfl
  case or => exact dResult_writes s _ a _ (runs_cOr a s h) (isD_dst_of_ddd h.ok) rfl rfl rfl rfl
  case xor => exact dResult_writes s _ a _ (runs_cXor a s h) (isD_dst_of_ddd h.ok) rfl rfl rfl rfl
  case abs =>
    rw [← absOut_clamp]
    exact dResult_writes s _ a _ (runs_cAbs a s h) (dst_of_dd h.ok) rfl rfl rfl rfl
  case sha => exact dResult_writes s _ a _ (runs_cSha a s h) (dst_of_dd h.ok) rfl rfl rfl rfl
  case shl => exact dResult_writes s _ a _ (runs_cShl a s h) (dst_of_dd h.ok) rfl rfl rfl rfl
  case rnd =>
    have hout : rndOut s.cop.sat (s.cop.opAOld a.s1) (a.aux.toNat % 8) = (w, { zn w with v := some ovf, ss := ovf && s.cop.sat }) := by
      unfold rndOut Copper.opAOld
      rw [hw]
    have hruns := runs_cRnd a s h
    rw [hout] at hruns
    exact dResult_writes s _ a _ hruns (dst_of_dd h.ok) rfl rfl rfl rfl

/-- Settles O35: the d-register operations, each by its row's result. -/
theorem copperArithmetic : Obligations.CopperArithmetic := ⟨copperAddSub, copperLogicShift⟩

/-! ### Accumulators (R487, R488, R494) -/

theorem copperAccumulate : Says.CopperAccumulate := by
  intro s a p acc u v
  refine ⟨fun h => ?mpy, fun h => ?mac, fun h => ?msu, fun h => ?aadd, fun h => ?asub, fun h => ?ash, fun h => ?clr⟩
  case mpy => exact aResult_writes s _ a _ _ (runs_cMpy a s h) (isA_dst_of_add2 h.ok) rfl rfl rfl rfl rfl rfl rfl rfl
  case mac => exact aResult_writes s _ a _ _ (runs_cMac a s h) (isA_dst_of_add2 h.ok) rfl rfl rfl rfl rfl rfl rfl rfl
  case msu => exact aResult_writes s _ a _ _ (runs_cMsu a s h) (isA_dst_of_add2 h.ok) rfl rfl rfl rfl rfl rfl rfl rfl
  case aadd => exact aResult_writes s _ a _ _ (runs_cAadd a s h) (isA_dst_of_add2 h.ok) rfl rfl rfl rfl rfl rfl rfl rfl
  case asub => exact aResult_writes s _ a _ _ (runs_cAsub a s h) (isA_dst_of_add2 h.ok) rfl rfl rfl rfl rfl rfl rfl rfl
  case ash => exact aResult_writes s _ a _ _ (runs_cAsh a s h) (dst_of_dd h.ok) rfl rfl rfl rfl rfl rfl rfl rfl
  case clr =>
    have hdst : isA a.dst = true := (Bool.and_eq_true_iff.1 (show (mvOk a.x && mvOk a.y && isA a.dst) = true from h.ok)).2
    exact aResult_writes s _ a 0 _ (runs_cClr a s h) hdst rfl rfl rfl rfl rfl rfl rfl rfl

theorem copperComplex : Says.CopperComplex := by
  intro s a xr xi yr yi ar ai re im
  refine ⟨fun h => ?cmpy, fun h => ?cmac, fun h => ?cmsu, fun h => ?cmacj⟩
  case cmpy => exact pair_writes s _ a false 0 1 re im (runs_cCmpy a s h) (by rw [zero_mul, zero_add, one_mul]; rfl) (by rw [zero_mul, zero_add, one_mul]; rfl)
  case cmac => exact pair_writes s _ a false 1 1 _ _ (runs_cCmac a s h) (by rw [one_mul, one_mul]; rfl) (by rw [one_mul, one_mul]; rfl)
  case cmsu => exact pair_writes s _ a false 1 (-1) _ _ (runs_cCmsu a s h) (by rw [one_mul, neg_one_mul, ← sub_eq_add_neg]; rfl) (by rw [one_mul, neg_one_mul, ← sub_eq_add_neg]; rfl)
  case cmacj => exact pair_writes s _ a true 1 1 _ _ (runs_cCmacj a s h) (by rw [one_mul, one_mul]; rfl) (by rw [one_mul, one_mul]; rfl)

/-- Settles O36: the exact results of the accumulators, single and in pairs. -/
theorem copperAccumulators : Obligations.CopperAccumulators := ⟨copperAccumulate, copperComplex⟩

/-! ### Flags, conditional moves and scans (R492, R493, R495) -/

/-- Settles O37: the moves beside flags alone, or beside the register that `mvc` writes where its condition holds. -/
theorem copperFlagsOnly : Obligations.CopperFlagsOnly := by
  intro s a x u m l
  refine ⟨fun h => ?nop, fun h => ?tsta, fun h => ?mvc⟩
  case nop =>
    obtain ⟨c, he, hd, ha, hkeeps, hsr⟩ := movesRow (codes := []) (f := {}) (by simp) rfl rfl rfl
      ((movesEffect_alone s.cop a) ▸ runs_cNop a s h)
    exact ⟨c, he, ⟨hd, ha⟩, hkeeps, hsr⟩
  case tsta =>
    obtain ⟨c, he, hd, ha, hkeeps, hsr⟩ := movesRow (codes := []) (by simp) rfl rfl rfl (runs_cTsta a s h)
    exact ⟨c, he, ⟨hd, ha⟩, hkeeps, hsr⟩
  case mvc =>
    have hdst : a.dst.toNat < 8 := by
      have hcodes : (((mvOk a.x && mvOk a.y) && isD a.dst && isD a.s1) && condOk (a.aux.extractLsb' 0 4)) = true := h.ok
      exact toNat_lt_of_isD (dst_of_dd (Bool.and_eq_true_iff.1 hcodes).1)
    have hruns := runs_cMvc a s h
    by_cases hcond : condHolds s.cop.sr (a.aux.extractLsb' 0 4) = true
    · rw [if_pos hcond] at hruns ⊢
      obtain ⟨c, he, hd, ha, hkeeps, hsr⟩ := movesRow (f := {}) (by simpa using hdst) rfl rfl rfl hruns
      exact ⟨c, he, ha, hkeeps, hd, hsr⟩
    · rw [if_neg hcond] at hruns ⊢
      obtain ⟨c, he, hd, ha, hkeeps, hsr⟩ := movesRow (codes := []) (f := {}) (by simp) rfl rfl rfl hruns
      exact ⟨c, he, ha, hkeeps, hd, hsr⟩

/-- The move field that a scan leaves to move. -/
def Copper.otherMove (c : Copper) (a : FmtA) : Effect := if a.aux.getLsbD 0 then c.moveEffect false a.x else c.moveEffect true a.y

/-- What a scan does beside the registers that it may write. -/
def Copper.scanMoves (c : Copper) (a : FmtA) : Effect :=
  let p := (memField a).p.toNat + if a.aux.getLsbD 0 then 4 else 0
  (c.ptrEffect p (c.modAmount p (memField a).m)).also (c.otherMove a)

theorem scanMoves_writes (c : Copper) (a : FmtA) : (c.scanMoves a).accs = [] ∧ (c.scanMoves a).codes = [] := by
  unfold Copper.scanMoves Copper.otherMove
  split <;> simp [Effect.also_accs, Effect.also_codes]

/-- A row that writes registers beside a scan's moves. -/
theorem scanRow_writes {s : State} {i : Instr} {a : FmtA} {codes : List (Nat × Word)} (hcodes : ∀ x ∈ codes, x.1 < 8) {e : Effect}
    (hfound : e = Effect.also { codes := codes } (s.cop.scanMoves a)) (he : exec i s = .next { s with cop := s.cop.carryOut e }) :
    ∃ c, exec i s = .next { s with cop := c } ∧ c.a = s.cop.landAll.a ∧ CopperKeeps s.cop c (s.cop.scanMoves a)
      ∧ c.d = codes.foldl (fun d x => d.set x.1 x.2) s.cop.landAll.d := by
  subst hfound
  obtain ⟨haccs, hnone⟩ := scanMoves_writes s.cop a
  have hplain : PlainEffect (Effect.also { codes := codes } (s.cop.scanMoves a)) :=
    ⟨rfl, rfl, haccs, by simpa [Effect.also_codes, hnone] using hcodes⟩
  obtain ⟨hd, ha, hkeeps, -⟩ := hplain.carryOut s.cop
  exact ⟨_, he, ha, hkeeps.congr rfl rfl, hd.trans (by simp [setCodes, Effect.also_codes, hnone])⟩

theorem Effect.also_assoc (e f g : Effect) : (e.also f).also g = e.also (f.also g) := by
  simp [Effect.also, Bool.or_assoc]

/-- A row of `maxi` or `mini`: the better of memory and register, with its address beside it (R495). -/
theorem scanRow {s : State} {i : Instr} {a : FmtA} {better : Word → Word → Bool} (hdst : isDp a.dst = true)
    (he : exec i s = .next { s with cop := s.cop.carryOut (s.cop.scanEffect a better) }) :
    let inY := a.aux.getLsbD 0
    let p := (memField a).p.toNat + if inY then 4 else 0
    let addr := s.cop.ptr.getD p 0
    let v := if inY then s.cop.yAt addr.toNat else s.cop.xAt addr.toNat
    ∃ c, exec i s = .next { s with cop := c } ∧ c.a = s.cop.landAll.a ∧ CopperKeeps s.cop c (s.cop.scanMoves a)
      ∧ c.d = if better v (s.cop.dReg a.dst.toNat) then (s.cop.landAll.d.set a.dst.toNat v).set (a.dst.toNat + 1) (addr.setWidth 32)
        else s.cop.landAll.d := by
  intro inY p addr v
  have hlt := toNat_lt_of_isDp hdst
  have hscan : s.cop.scanEffect a better = Effect.also (if better v (s.cop.dReg a.dst.toNat) then
      { codes := [(a.dst.toNat, v), (a.dst.toNat + 1, addr.setWidth 32)] } else {}) (s.cop.scanMoves a) := Effect.also_assoc ..
  by_cases hbetter : better v (s.cop.dReg a.dst.toNat) = true
  · rw [if_pos hbetter] at hscan ⊢
    exact scanRow_writes (by simp; omega) hscan he
  · rw [if_neg hbetter] at hscan ⊢
    exact scanRow_writes (codes := []) (by simp) hscan he

theorem isDp_dst_of_scan {a : FmtA} {b c : Bool} (h : ((mvOk a.x && mvOk a.y) && isDp a.dst && b && c) = true) : isDp a.dst = true := by
  simp only [Bool.and_eq_true] at h
  obtain ⟨⟨⟨-, hdst⟩, -⟩, -⟩ := h
  exact hdst

/-- Settles O38: `maxi` and `mini` are one scan, by what counts as better. -/
theorem copperScan : Obligations.CopperScan := by
  intro s a inY p addr v d other moves found
  refine ⟨fun h => ?maxi, fun h => ?mini⟩
  case maxi =>
    obtain ⟨c, he, ha, hkeeps, hd⟩ := scanRow (isDp_dst_of_scan h.ok) (runs_cMaxi a s h)
    simp only [decide_eq_true_eq] at hd
    exact ⟨c, he, ha, hkeeps, hd⟩
  case mini =>
    obtain ⟨c, he, ha, hkeeps, hd⟩ := scanRow (isDp_dst_of_scan h.ok) (runs_cMini a s h)
    simp only [decide_eq_true_eq] at hd
    exact ⟨c, he, ha, hkeeps, hd⟩

end Sys2Proof.Machine
end

section
/-! The Copper's transfers and its flow (R450, R452, R462, R464, R466 to R471, R485, R493, R496). -/
namespace Sys2Proof.Machine

/-! ### Transfers (R485, R493, R496) -/

/-- A word written at once into a data register or an accumulator. -/
theorem store_moveInto (l : Copper) {e : Effect} {r : Nat} {w : Word} (hc : e.codes = [(r, w)]) (ha : e.accs = []) (hr : 8 ≤ r) (h24 : r < 24) :
    l.store e = { l with a := l.a.set (r % 4) (putAccPart (l.acc (r % 4)) r w), ptr := setPtrs l.ptr e } := by
  have hwrite : l.writeCode r w = { l with a := l.a.set (r % 4) (putAccPart (l.acc (r % 4)) r w) } := by
    unfold Copper.writeCode
    rw [if_neg (Nat.not_lt.2 hr), if_pos h24]
  unfold Copper.store setPtrs
  rw [hc, ha, List.foldl_cons, hwrite]
  rfl

/-- A word moved into a register by code: at once below code 24, one instruction later from there on. -/
theorem moveRow {s : State} {i : Instr} {r : BitVec 6} {w : Word} {f : FlagOut}
    (he : exec i s = .next { s with cop := s.cop.carryOut (Effect.also (moveInto r w) { flags := f }) }) :
    ∃ c, exec i s = .next { s with cop := c } ∧ c.rest = s.cop.landAll.rest ∧ c.ptr = s.cop.landAll.ptr
      ∧ (r < 8 → c.d = s.cop.landAll.d.set r.toNat w ∧ c.a = s.cop.landAll.a ∧ c.flights = [])
      ∧ (8 ≤ r → r < 24 → c.d = s.cop.landAll.d
          ∧ c.a = s.cop.landAll.a.set (r.toNat % 4) (putAccPart (s.cop.landAll.acc (r.toNat % 4)) r.toNat w) ∧ c.flights = [])
      ∧ (24 ≤ r → NoArith s c ∧ c.flights = [⟨.reg r.toNat, w⟩]) := by
  simp only [BitVec.lt_def, BitVec.le_def, BitVec.reduceToNat]
  refine ⟨_, he, ?_⟩
  by_cases h24 : r < 24
  · have hmove : Effect.also (moveInto r w) { flags := f } = Effect.also { codes := [(r.toNat, w)] } { flags := f } := by
      rw [moveInto, if_pos h24]
    simp only [BitVec.lt_def, BitVec.reduceToNat] at h24
    rw [hmove]
    obtain ⟨hd, ha, hptr, hrest, -, hflights, -⟩ := carryOut_plain s.cop (Effect.also { codes := [(r.toNat, w)] } { flags := f }) nofun rfl
    by_cases h8 : r.toNat < 8
    · rw [store_d _ _ r.toNat w rfl rfl h8] at hd ha hptr hrest
      exact ⟨hrest, hptr, fun _ => ⟨hd, ha, hflights⟩, by omega, by omega⟩
    · rw [store_moveInto _ rfl rfl (by omega) h24] at hd ha hptr hrest
      exact ⟨hrest, hptr, by omega, fun _ _ => ⟨hd, ha, hflights⟩, by omega⟩
  · have hmove : Effect.also (moveInto r w) { flags := f } = Effect.also { flights := [⟨.reg r.toNat, w⟩] } { flags := f } := by
      rw [moveInto, if_neg h24]
    simp only [BitVec.lt_def, BitVec.reduceToNat] at h24
    rw [hmove]
    obtain ⟨hnone, ⟨hrest, hptr, hflights, -⟩, -⟩ := plain_keeps s (Effect.also { flights := [⟨.reg r.toNat, w⟩] } { flags := f }) rfl rfl nofun rfl
    exact ⟨hrest, hptr, by omega, by omega, fun _ => ⟨hnone, hflights⟩⟩

/-- A row that changes no register at once. -/
theorem laterRow {s : State} {i : Instr} {e : Effect} (hc : e.codes = []) (ha : e.accs = []) (hf : e.flow = .next) (hr : e.restore = none)
    (he : exec i s = .next { s with cop := s.cop.carryOut e }) :
    ∃ c, exec i s = .next { s with cop := c } ∧ NoArith s c ∧ c.rest = s.cop.landAll.rest ∧ c.ptr = setPtrs s.cop.landAll.ptr e
      ∧ c.flights = e.flights ∧ c.sr = e.flags.apply s.cop.landAll.sr := by
  obtain ⟨hnone, ⟨hrest, hptr, hflights, -⟩, hsr⟩ := plain_keeps s e hc ha (by rw [hf]; decide) hr
  exact ⟨_, he, hnone, hrest, hptr, hflights, hsr⟩

theorem copperLoads : Says.CopperLoads := by
  intro s r q imm addr io l into later
  refine ⟨fun h => ?ldi, fun h => ?mv, fun h => ?ldx, fun h => ?ldy, fun h => ?ldio, fun h => ?pop⟩
  case ldi =>
    have halone : moveInto r imm = Effect.also (moveInto r imm) { flags := {} } := by
      unfold moveInto
      split <;> rfl
    exact moveRow (halone ▸ runs_cLdi r imm s h)
  case mv => exact moveRow (runs_cMv r q s h)
  case ldx =>
    obtain ⟨c, he, hnone, hrest, hptr, hflights, -⟩ := laterRow rfl rfl rfl rfl (runs_cLdx r addr s h)
    exact ⟨c, he, hnone, hrest, hptr, hflights⟩
  case ldy =>
    obtain ⟨c, he, hnone, hrest, hptr, hflights, -⟩ := laterRow rfl rfl rfl rfl (runs_cLdy r addr s h)
    exact ⟨c, he, hnone, hrest, hptr, hflights⟩
  case ldio =>
    obtain ⟨c, he, hnone, hrest, hptr, hflights, -⟩ := laterRow rfl rfl rfl rfl (runs_cLdio r io s h)
    exact ⟨c, he, hnone, hrest, hptr, hflights⟩
  case pop =>
    obtain ⟨c, he, hnone, hrest, hptr, hflights, -⟩ := laterRow rfl rfl rfl rfl (runs_cPop r s h)
    exact ⟨c, he, hnone, hrest, hptr, hflights⟩

theorem copperStores : Says.CopperStores := by
  intro s r addr io l w later
  have hss : ∀ {e : Effect} {c : Copper}, e.flags.ss = (s.cop.readCode r.toNat).2 → c.sr = e.flags.apply s.cop.landAll.sr →
      c.sr.getLsbD 5 = (l.sr.getLsbD 5 || (s.cop.readCode r.toNat).2) := by
    intro e c hflag hsr
    obtain ⟨-, -, -, -, -, hsticky, -⟩ := apply_srIs e.flags s.cop.landAll.sr
    rw [hsr, hsticky, hflag]
  refine ⟨fun h => ?stx, fun h => ?sty, fun h => ?stio, fun h => ?push⟩
  case stx =>
    obtain ⟨c, he, hnone, hrest, hptr, hflights, hsr⟩ := laterRow rfl rfl rfl rfl (runs_cStx r addr s h)
    exact ⟨c, he, hnone, hrest, hptr, hflights, hss rfl hsr⟩
  case sty =>
    obtain ⟨c, he, hnone, hrest, hptr, hflights, hsr⟩ := laterRow rfl rfl rfl rfl (runs_cSty r addr s h)
    exact ⟨c, he, hnone, hrest, hptr, hflights, hss rfl hsr⟩
  case stio =>
    obtain ⟨c, he, hnone, hrest, hptr, hflights, hsr⟩ := laterRow rfl rfl rfl rfl (runs_cStio r io s h)
    exact ⟨c, he, hnone, hrest, hptr, hflights, hss rfl hsr⟩
  case push =>
    obtain ⟨c, he, hnone, hrest, hptr, hflights, hsr⟩ := laterRow rfl rfl rfl rfl (runs_cPush r s h)
    exact ⟨c, he, hnone, hrest, hptr, hflights, hss (Bool.or_false _) hsr⟩

theorem copperStoreLands : Says.CopperStoreLands := by
  intro c a w
  exact ⟨⟨sget_sput_same .., fun b hb => sget_sput_ne _ _ _ _ _ hb, fun _ => rfl⟩,
    sget_sput_same .., fun b hb => sget_sput_ne _ _ _ _ _ hb, fun _ => rfl⟩

/-- Settles O39: moves and loads, stores, and the word that a store lands in. -/
theorem copperTransfers : Obligations.CopperTransfers := ⟨copperLoads, copperStores, copperStoreLands⟩

/-! ### Branches, loops, repeats and the frame wait (R450, R452, R464, R467, R468, R471) -/

/-- A row without data results: what it leaves, and the address, branch, repeat and loop registers that its end gives. -/
theorem flowRow {s : State} {i : Instr} {e : Effect} (hc : e.codes = []) (ha : e.accs = []) (hf : e.flow ≠ .waitFrame) (hr : e.restore = none)
    (he : exec i s = .next { s with cop := s.cop.carryOut e }) :
    ∃ c, exec i s = .next { s with cop := c } ∧ NoArith s c ∧ c.rest = s.cop.landAll.rest ∧ c.ptr = setPtrs s.cop.landAll.ptr e
      ∧ c.flights = e.flights ∧ c.sr = e.flags.apply s.cop.landAll.sr
      ∧ c = { (s.cop.settle e).advance s.cop e with cycles := s.cop.cycles + 1 } := by
  obtain ⟨hnone, ⟨hrest, hptr, hflights, -⟩, hsr⟩ := plain_keeps s e hc ha hf hr
  exact ⟨_, he, hnone, hrest, hptr, hflights, hsr, carryOut_flow s.cop e hf⟩

/-- A branch that nothing precedes: the two delay slots are ahead. -/
theorem branchRow {s : State} {i : Instr} {e : Effect} {t : BitVec 14} (hplain : PlainFlow s.cop) (hc : e.codes = []) (ha : e.accs = [])
    (hf : e.flow = .branch t) (hr : e.restore = none) (he : exec i s = .next { s with cop := s.cop.carryOut e }) :
    ∃ c, exec i s = .next { s with cop := c } ∧ NoArith s c ∧ c.pc = s.cop.nextPc ∧ c.rest = s.cop.landAll.rest ∧ c.branch = some (t, 2)
      ∧ c.ptr = setPtrs s.cop.landAll.ptr e ∧ c.flights = e.flights ∧ c.sr = e.flags.apply s.cop.landAll.sr := by
  obtain ⟨c, he, hnone, hrest, hptr, hflights, hsr, rfl⟩ := flowRow hc ha (by rw [hf]; nofun) hr he
  obtain ⟨hpc, hbranch, -⟩ := advance_branch (s.cop.settle e) s.cop e t hplain hf
  exact ⟨_, he, hnone, hpc, hrest, hbranch, hptr, hflights, hsr⟩

theorem settle_branch_of_plain {c : Copper} {e : Effect} (h : PlainFlow c) (hc : e.codes = []) (ha : e.accs = []) : (c.settle e).branch = none := by
  obtain ⟨-, hbranch⟩ := h
  rw [settle_branch, store_none _ e hc ha]
  exact (landAll_branch c).trans hbranch

/-- `reti` gives `sr` back at once and branches (R471). -/
theorem retiRow {s : State} (hplain : PlainFlow s.cop) (h : CopperRuns s .cReti) :
    ∃ c, exec .cReti s = .next { s with cop := c } ∧ NoArith s c ∧ c.pc = s.cop.nextPc ∧ c.rest = s.cop.landAll.rest
      ∧ c.branch = some (s.cop.ipc, 2) ∧ c.ptr = s.cop.landAll.ptr ∧ c.sr = srPut s.cop.isr 10 false ∧ c.flights = [] := by
  obtain ⟨hpc, hbranch, -⟩ := advance_branch (s.cop.settle { restore := some (srPut s.cop.isr 10 false), flow := .branch s.cop.ipc }) s.cop
    { restore := some (srPut s.cop.isr 10 false), flow := .branch s.cop.ipc } s.cop.ipc hplain rfl
  refine ⟨_, runs_cReti s h, ?_⟩
  rw [carryOut_flow _ _ (by simp)]
  refine ⟨⟨?_, ?_⟩, hpc, ?_, hbranch, ?_, ?_, ?_⟩
  · simp [Copper.settle, store_none]
  · simp [Copper.settle, store_none]
  · show (Copper.advance _ _ _).rest = _
    simp [Copper.settle, store_none]
    rfl
  · simp [Copper.settle, store_none, setPtrs]
  · simp [Copper.settle, endSr]
  · simp [Copper.settle]

/-- A `wfr` that does not wait goes on to the next address (R452). -/
theorem advance_waitFrame_pc (c b : Copper) (e : Effect) (h : PlainFlow b) (hf : e.flow = .waitFrame) : (c.advance b e).pc = b.nextPc := by
  obtain ⟨hrep, hbranch⟩ := h
  unfold Copper.advance
  rw [hrep, hbranch, hf]
  exact loopStep_next b

theorem copperFlowRows : Says.CopperFlow := by
  intro s cond t n hplain l a3 runs
  refine ⟨fun h => ?br, fun h => ?call, fun h => ?ret, fun h => ?reti, fun h => ?loop, fun h => ?rep, fun h => ?wfr⟩
  case br =>
    by_cases hcond : condHolds s.cop.sr cond = true
    · obtain ⟨c, he, hnone, hpc, hrest, hbranch, hptr, hflights, hsr⟩ :=
        branchRow (t := t) hplain rfl rfl (if_pos hcond) rfl (runs_cBr cond t s h)
      exact ⟨c, he, hnone, hpc, hrest, hptr, hsr, hflights, by rw [if_pos hcond, hbranch]⟩
    · obtain ⟨c, he, hnone, hrest, hptr, hflights, hsr, rfl⟩ :=
        flowRow rfl rfl (by simp [hcond]) rfl (runs_cBr cond t s h)
      obtain ⟨hpc, hbranch, -⟩ := advance_next (s.cop.settle _) s.cop { flow := if condHolds s.cop.sr cond then .branch t else .next } hplain (if_neg hcond)
      exact ⟨_, he, hnone, hpc, hrest, hptr, hsr, hflights, (hbranch.trans (settle_branch_of_plain hplain rfl rfl)).trans (if_neg hcond).symm⟩
  case call =>
    obtain ⟨c, he, hnone, hpc, hrest, hbranch, hptr, hflights, -⟩ := branchRow hplain rfl rfl rfl rfl (runs_cCall t s h)
    exact ⟨c, he, hnone, hpc, hrest, hbranch, hptr, hflights⟩
  case ret =>
    obtain ⟨c, he, hnone, hpc, hrest, hbranch, hptr, hflights, -⟩ := branchRow hplain rfl rfl rfl rfl (runs_cRet s h)
    exact ⟨c, he, hnone, hpc, hrest, hflights, hbranch, hptr⟩
  case reti => exact retiRow hplain h
  case loop =>
    obtain ⟨c, he, hnone, hrest, hptr, -, hsr, rfl⟩ := flowRow rfl rfl (by simp) rfl (runs_cLoop t n s h)
    obtain ⟨hpc, -⟩ := advance_next (s.cop.settle _) s.cop { loop := some (n, s.cop.pc + 2, t) } hplain rfl
    obtain ⟨hlc, hls, hle⟩ := advance_loop (s.cop.settle _) s.cop { loop := some (n, s.cop.pc + 2, t) } n _ t hplain rfl rfl
    exact ⟨_, he, hnone, hpc, hrest, hsr, hptr, hlc, hls, hle⟩
  case rep =>
    obtain ⟨c, he, hnone, hrest, hptr, -, hsr, rfl⟩ := flowRow rfl rfl (by simp) rfl (runs_cRep n s h)
    obtain ⟨hzero, hmore⟩ := advance_repeat (s.cop.settle _) s.cop { flow := .repeatNext n.toNat } n.toNat hplain rfl
    have hn : n = 0 ↔ n.toNat = 0 := by rw [← BitVec.toNat_inj]; rfl
    exact ⟨_, he, hnone, hrest, hsr, hptr, fun h => hzero (hn.1 h), fun h => hmore (mt hn.2 h)⟩
  case wfr =>
    refine ⟨_, runs_cWfr s h, ?_⟩
    by_cases hmissed : s.cop.missed = 0
    · have hwait : s.cop.carryOut { flow := .waitFrame } = { s.cop.settle {} with wait := true } := if_pos hmissed
      rw [hwait]
      exact ⟨⟨rfl, rfl⟩, fun _ => ⟨rfl, rfl⟩, absurd hmissed⟩
    · have hgo : s.cop.carryOut { flow := .waitFrame }
          = { s.cop.finish { flow := .waitFrame } with missed := s.cop.missed - 1, cycles := s.cop.cycles + 1 } := if_neg hmissed
      rw [hgo]
      refine ⟨⟨?_, ?_⟩, fun h => absurd h hmissed, fun _ => ⟨rfl, ?_⟩⟩
      · simp [Copper.finish, Copper.settle, store_none]
      · simp [Copper.finish, Copper.settle, store_none]
      · exact advance_waitFrame_pc (s.cop.settle _) s.cop { flow := .waitFrame } hplain rfl

/-- Inside a repeat the instruction stays where it is (R467). -/
theorem advance_again {c b : Copper} {e : Effect} {n : Nat} (h : b.rep = some (n + 2)) : c.advance b e = { c with rep := some (n + 1) } := by
  unfold Copper.advance
  rw [h]

/-- The last time of a repeat goes on to the next address. -/
theorem advance_last {c b : Copper} {e : Effect} (hf : e.flow = .next) (hrep : b.rep = some 1) (hbranch : b.branch = none) :
    (c.advance b e).pc = b.nextPc ∧ (c.advance b e).rep = none := by
  unfold Copper.advance
  rw [hrep, hf, hbranch]
  exact ⟨loopStep_next b, rfl⟩

/-- A delay slot goes on to the next address, the second one to the branch's target (R464). -/
theorem advance_delay {c b : Copper} {e : Effect} {t : BitVec 14} {n : Nat} (hf : e.flow = .next) (hrep : b.rep = none)
    (hbranch : b.branch = some (t, n + 1)) :
    (n = 0 → (c.advance b e).branch = none ∧ (c.advance b e).pc = t)
      ∧ (∀ k, n = k + 1 → (c.advance b e).branch = some (t, k + 1) ∧ (c.advance b e).pc = b.nextPc) := by
  unfold Copper.advance
  rw [hrep, hf, hbranch]
  refine ⟨?_, ?_⟩
  · rintro rfl
    exact ⟨rfl, rfl⟩
  · rintro k rfl
    exact ⟨rfl, loopStep_next b⟩

theorem copperDelayAndRepeat : Says.CopperDelayAndRepeat := by
  intro s a h
  have hflow := s.cop.movesEffect_flow a
  have hstore : s.cop.landAll.store (s.cop.movesEffect a) = { s.cop.landAll with ptr := setPtrs s.cop.landAll.ptr (s.cop.movesEffect a) } :=
    store_none _ _ (by simp [Copper.movesEffect, Effect.also_codes]) (by simp [Copper.movesEffect, Effect.also_accs])
  refine ⟨_, runs_cNop a s h, ?_⟩
  rw [carryOut_flow _ _ (by rw [hflow]; decide)]
  refine ⟨fun n hrep => ?again, fun hrep hbranch => ?last, fun t hrep hbranch => ?first, fun t hrep hbranch => ?second⟩
  case again =>
    rw [advance_again hrep]
    simp only [Copper.settle, hstore, and_self]
  case last => exact (advance_last hflow hrep hbranch).symm
  case first => exact (advance_delay hflow hrep hbranch).2 0 rfl
  case second => exact (advance_delay hflow hrep hbranch).1 rfl

/-- Settles O40: where the instructions of format B lead, delay slots and repetition. -/
theorem copperFlow : Obligations.CopperFlow := ⟨copperFlowRows, copperDelayAndRepeat⟩

/-! ### Interrupts and traps (R466, R470, R471) -/

theorem copperInterruptEntry : Says.CopperInterruptEntry := by
  intro s k hready hhalted haccepts hsource
  have he : exec .copperInterrupt s = .next { s with cop := s.cop.enter k } := by
    show s.done s.copperInterrupt = _
    unfold State.copperInterrupt
    simp only [hready, hhalted, haccepts, hsource]
    rfl
  have hsr : ∀ i, (s.cop.enter k).sr.getLsbD i = if i = 10 then true else if i = 9 then false else s.cop.landAll.sr.getLsbD i := by
    intro i
    rw [show (s.cop.enter k).sr = srPut (srPut s.cop.landAll.sr 9 false) 10 true from rfl, srPut_get _ _ _ _ (by decide),
      srPut_get _ _ _ _ (by decide)]
  refine ⟨_, he, ⟨rfl, rfl⟩, rfl, rfl, rfl, rfl, hsr 9, hsr 10, fun i h9 h10 => ?_⟩
  rw [hsr, if_neg h10, if_neg h9]

theorem copperTraps : Says.CopperTraps := by
  intro s hready hhalted hruns hcurrent
  show s.done (if _ then _ else _) = _
  rw [if_pos (by simp [hready, hhalted, hruns, hcurrent])]
  rfl

/-- Settles O41: the entry of an interrupt and the trap. -/
theorem copperInterruptAndTrap : Obligations.CopperInterruptAndTrap := ⟨copperInterruptEntry, copperTraps⟩

end Sys2Proof.Machine
end

section
/-! COPPER_FRAME ends a Copper core's reset as well (R338), which the statement leaves out. -/
namespace Sys2Proof.Machine

/-- READY with the Copper on, and core 0 of the Copper under reset in block 0. -/
def coreUnderReset : State :=
  { State.reset with
    pwr.phase := .ready
    cop.on := true
    kiln.windows := [⟨2, true, 0⟩] }

theorem coreUnderReset_frame :
    coreUnderReset.cop.on = true ∧ coreUnderReset.kiln.halted = false ∧ coreUnderReset.frameTurn coreUnderReset.cop.frame = some 1
      ∧ coreUnderReset.cop.flights = [] := by
  decide +kernel

/-- The frame ends the core's reset. -/
theorem coreUnderReset_leaves : coreUnderReset.copperFrame.kiln.windows = [⟨2, false, 2⟩] := by
  decide +kernel

/-- Refutes O34: a Copper core's reset lasts one sample frame (R338), so COPPER_FRAME also ends the core's reset in the Kiln; the statement
lets only the time and the Copper change, with no premise that no core is under reset. The model does as R338 says. -/
theorem not_copperFrame : ¬ Obligations.CopperFrame := by
  intro h
  obtain ⟨hon, hhalted, hturn, hflights⟩ := coreUnderReset_frame
  obtain ⟨c, hexec, -⟩ := h coreUnderReset 1 hon hhalted hturn fun _ => hflights
  rw [exec_copperFrame, execCopperFrame, State.done] at hexec
  injection hexec with hstate
  have hwindows : coreUnderReset.copperFrame.kiln.windows = coreUnderReset.kiln.windows := (congrArg (fun u : State => u.kiln.windows) hstate :)
  rw [coreUnderReset_leaves] at hwindows
  exact absurd hwindows (by decide)

end Sys2Proof.Machine
end

section
/-! The part right after power-on reset (R457, R622, R626). -/
namespace Sys2Proof.Machine

/-- Settles O4: each clause is a value of the one state. -/
theorem afterPowerOnReset : Obligations.AfterPowerOnReset := by
  have hsessions : ∀ k < 32, State.reset.sessionOpen k = false := by decide
  have hidle : step State.reset = .next State.reset := rfl
  have hcanonical : State.reset.canonical = true := by decide
  exact ⟨hcanonical, rfl, rfl, rfl, rfl, rfl, rfl, rfl, rfl, rfl, rfl, rfl, hsessions, rfl, rfl, rfl, rfl, rfl, hidle⟩

end Sys2Proof.Machine
end

section
/-! Commands of the allocator, of the content services and of the log (R425 to R427, R429, R432 to R436, R443 to R445). -/
namespace Sys2Proof.Machine

/-! ### Allocator and status (R425 to R427) -/

section Allocator
variable {s : State} {c : Cmd}

theorem cmdAllocCfg_accepted (hr : bits (c.w 0) 0 1 < s.part.variant.regionCount) (hlo : 1 ≤ bits (c.w 0) 8 5) (hhi : bits (c.w 0) 8 5 ≤ 16) :
    State.cmdAllocCfg c s = ({ s with
      hop.fadeNext := (s.hop.fadeNext.filter fun (x : Nat × Nat) => x.1 != bits (c.w 0) 0 1) ++ [(bits (c.w 0) 0 1, bits (c.w 0) 8 5)]
      } : State).ok c [] :=
  if_neg (by omega)

theorem cmdHopperStatus_present (hr : bits (c.w 0) 0 1 < s.part.variant.regionCount) :
    State.cmdHopperStatus c s =
      let r := bits (c.w 0) 0 1
      let k := s.hop.counts.getD r RegionCounts.zero
      let late (i : Nat) : Word := w32 (nth k.lateMax (2 * i) + 0x10000 * nth k.lateMax (2 * i + 1))
      s.ok c [w32 s.hop.tasks.length, w32 k.carried, late 0, late 1, late 2, late 3, w32 k.orphans, w32 k.steals, w32 k.hardSteals,
        w32 k.streamSteals, w32 k.quotaSteals, w32 k.refusedVoice, w32 k.refusedQuota, w32 k.refusedStream, w32 (s.fadeBlocks r)] :=
  if_neg (Nat.not_le.2 hr)

end Allocator

/-- Six bits of a word, each with its weight. -/
theorem packBits_six (a b c d e f : Bool) :
    packBits [a, b, c, d, e, f] = b2n a + 2 * b2n b + 4 * b2n c + 8 * b2n d + 16 * b2n e + 32 * b2n f := by
  simp only [packBits, List.foldr_cons, List.foldr_nil]
  omega

theorem any_range_two (f : Nat → Bool) : (List.range 2).any f = (f 0 || f 1) := by simp [List.range_succ]

theorem Variant.regionCount_cases (v : Variant) : v.regionCount = 1 ∨ v.regionCount = 2 := by
  cases v <;> simp [Variant.regionCount]

/-- Settles O17: the words of each answer, the second region's where the part has one. -/
theorem allocatorAndStatus : Obligations.AllocatorAndStatus := by
  intro s m r k n late two pair here
  refine ⟨fun ht hr hlo hhi => ?alloc, fun ht hr => ?hopper, fun ht => ?device⟩
  case alloc =>
    exact answers_row s _ _ _ m _ _ ht (exec_allocCfg m s) (cmdAllocCfg_accepted (c := cmdOf 0x20 m) hr hlo hhi) (SameRings.refl s) (by simp)
  case hopper =>
    exact answers_row s s _ _ m _ _ ht (exec_hopperStatus m s) (cmdHopperStatus_present (c := cmdOf 0x21 m) hr) (SameRings.refl s) (by simp)
  case device =>
    refine answers_row s _ _ _ m _ _ ht (exec_deviceStatus m s) ?_ (SameRings.refl s) (by simp)
    show ({ s with cop.usedMax := 0 } : State).ok (cmdOf 0x22 m) _ = ({ s with cop.usedMax := 0 } : State).ok (cmdOf 0x22 m) _
    congr 1
    rcases s.part.variant.regionCount_cases with h | h
    · simp [h, packBits_six, any_range_two, perRegion, timeWords, two, pair, here]
    · simp [h, packBits_six, any_range_two, perRegion, timeWords, two, pair, here]

/-! ### Content without a job (R429, R432 to R436) -/

section Content
variable {c : Cmd} {s : State}

theorem cmdBankUnload_free (hnamed : s.slotNamed (bits (c.w 0) 0 2) = false) (hbank : s.fw.banks.getD (bits (c.w 0) 0 2) none ≠ none) :
    State.cmdBankUnload c s = ({ s with fw.banks := s.fw.banks.set (bits (c.w 0) 0 2) none } : State).ok c [] :=
  (if_neg (ne_true_of_eq_false hnamed)).trans (if_neg (mt Option.isNone_iff_eq_none.1 hbank))

theorem cmdWtUnload_unused (hresident : s.residentFrames (bits (c.w 0) 16 16) ≠ none) (hused : s.tableUsed (bits (c.w 0) 16 16) = false)
    (hnamed : s.tableNamed (bits (c.w 0) 16 16) = false) :
    State.cmdWtUnload c s = ({ s with
      fw.tables := s.fw.tables.map fun (t : Table) =>
        if t.object = bits (c.w 0) 16 16 ∧ t.gone = none then { t with gone := some s.nextBlock } else t } : State).ok c [] :=
  (if_neg (mt Option.isNone_iff_eq_none.1 hresident)).trans (if_neg (by simp [hused, hnamed]))

theorem cmdTbUpdate_taken (hmode : bits (s.regN bTIMEBASE (tbReg (bits (c.w 0) 0 2) 0)) 0 3 = 3)
    (hown : s.agrees 3 = true → bit (s.regN bCHAIN 0x14) (8 * bits (c.w 0) 0 2) = false) (hspeed : (signed 32 (c.w 5)).natAbs ≤ 1000 * 65536) :
    State.cmdTbUpdate c s = ({ s with fw.tbUpdates := s.fw.tbUpdates ++ [(bits (c.w 0) 0 2,
      TbUpdate.mk (c.w 1 + c.w 2 * 2 ^ 32) (bit (c.w 0) 8) (signed 32 (c.w 4) * 2 ^ 32 + (c.w 3 : Int)) (signed 32 (c.w 5))
        (signed 32 (c.w 6)) s.time)] } : State).ok c [] := by
  have hchain : (s.agrees 3 && bit (s.regN bCHAIN 0x14) (8 * bits (c.w 0) 0 2)) = false := by
    cases hagreed : s.agrees 3 with
    | false => rfl
    | true => exact hown hagreed
  exact (if_neg (by simp [hmode, hchain])).trans (if_neg (Nat.not_lt.2 hspeed))

theorem cmdGristAbort_open (h : s.fw.update = 0 ∨ s.fw.update = 1) : State.cmdGristAbort c s = ({ s with fw.update := 0 } : State).ok c [] :=
  if_neg (by omega)

end Content

/-- Settles O19: what each command does and answers. -/
theorem contentDirect : Obligations.ContentDirect := by
  intro s m w slot obj t shown
  refine ⟨fun ht hnamed hbank => ?bank, fun ht hres hused hnamed => ?table, fun ht => ?status, fun ht hmode hown hspeed => ?timebase,
    fun ht hopen => ?abort, fun ht => ?pages⟩
  case bank =>
    exact answers_row s _ _ _ m _ _ ht (exec_bankUnload m s) (cmdBankUnload_free (c := cmdOf 0x31 m) hnamed hbank) (SameRings.refl s) (by simp)
  case table =>
    exact answers_row s _ _ _ m _ _ ht (exec_wtUnload m s) (cmdWtUnload_unused (c := cmdOf 0x34 m) hres hused hnamed) (SameRings.refl s) (by simp)
  case status =>
    have hshown : ∀ k, (shown k).length = 3 := by
      intro k
      dsimp only [shown]
      split <;> rfl
    exact answers_row s s _ _ m _ State.cmdBankStatus ht (exec_bankStatus m s) rfl (SameRings.refl s) (by simp [hshown])
  case timebase =>
    exact answers_row s _ _ _ m _ _ ht (exec_tbUpdate m s) (cmdTbUpdate_taken (c := cmdOf 0x40 m) hmode hown hspeed) (SameRings.refl s) (by simp)
  case abort =>
    exact answers_row s _ _ _ m _ _ ht (exec_gristAbort m s) (cmdGristAbort_open (c := cmdOf 0x4C m) hopen) (SameRings.refl s) (by simp)
  case pages =>
    refine answers_row s s _ _ m _ State.cmdGristStatus ht (exec_gristStatus m s) rfl (SameRings.refl s) ?_
    simp
    omega

/-- A command that is taken now and leaves its response to a later boundary. -/
theorem awaits_row {s u : State} {i : Instr} {op : Nat} {m : Msg} {work : Cmd → State → State}
    (he : exec i s = s.done (s.takeWith (cmdOf op m) work)) (ht : TakenNow s op m) (hw : work (cmdOf op m) s = u.awaitReply (cmdOf op m))
    (hp : u.pending = s.pending) (hq : u.part = s.part) (hh : u.host = s.host) (hf : u.fw.replies = s.fw.replies) :
    AwaitsReply s i (cmdOf op m) u :=
  awaits_of s u i (cmdOf op m) (by rw [he, run_row _ _ _ _ ht, hw]) hp hq hh hf

/-! ### The fault log, resets and lifetime counters (R443 to R445) -/

section Log
variable {c : Cmd} {s : State}

/-- The records that FAULT_LOG_READ answers. -/
def State.logFrom (s : State) (first n : Nat) : List LogRec := (s.kiln.log.filter fun r => decide (first ≤ r.seq)).take n

theorem cmdFaultLogRead_found {r : LogRec} {rs : List LogRec} (h : s.logFrom (c.w 1) (bits (c.w 0) 0 5) = r :: rs) :
    State.cmdFaultLogRead c s = s.ok c (w32 r.seq :: (r :: rs).flatMap LogRec.wordsOf) := by
  have hn : bits (c.w 0) 0 5 ≠ 0 := by
    intro hzero
    rw [State.logFrom, hzero, List.take_zero] at h
    cases h
  unfold State.logFrom at h
  unfold State.cmdFaultLogRead
  simp only [if_neg hn, h]

theorem cmdFaultLogRead_none (hn : bits (c.w 0) 0 5 ≠ 0) (h : s.logFrom (c.w 1) (bits (c.w 0) 0 5) = []) :
    State.cmdFaultLogRead c s = ({ s with freeCount := s.freeCount + 1 } : State).ok c [w32 (Config.freeValue s.freeCount).toNat] := by
  unfold State.logFrom at h
  unfold State.cmdFaultLogRead
  simp only [if_neg hn, h]
  rfl

theorem LogRec.wordsOf_length (r : LogRec) : r.wordsOf.length = 8 := by
  unfold LogRec.wordsOf
  split <;> rfl

theorem cmdBlockReset_accepted (h : s.resetRefused (bits (c.w 0) 0 4) = none) :
    State.cmdBlockReset c s = ({ s with kiln.resetReq := s.kiln.resetReq ++ [bits (c.w 0) 0 4] } : State).awaitReply c := by
  unfold State.cmdBlockReset
  simp only [h]

theorem cmdBlockReset_refused {st : Nat} (h : s.resetRefused (bits (c.w 0) 0 4) = some st) : State.cmdBlockReset c s = s.answer c st 0 := by
  unfold State.cmdBlockReset
  simp only [h]

theorem cmdLifetimeSet_first (h : s.pwr.lifeSet = false) :
    State.cmdLifetimeSet c s = ({ s with
      pwr.lifeSet := true
      pwr.life := (List.range 16).map fun k => lifeMerge k (nth s.pwr.life k) (c.w k) } : State).ok c [] := by
  unfold State.cmdLifetimeSet
  rw [h]
  rfl

theorem cmdLifetimeSet_again (h : s.pwr.lifeSet = true) : State.cmdLifetimeSet c s = s.answer c stBadState 0 := if_pos h

end Log

/-- Settles O26: what each command reads or sets. -/
theorem logAndCounters : Obligations.LogAndCounters := by
  intro s m w found
  refine ⟨fun r rs ht h => ?records, fun ht hn h => ?empty, fun ht h => ?reset, fun st ht h => ?refused, fun ht h => ?lifeRead,
    fun ht h => ?lifeSet, fun ht h => ?lifeAgain⟩
  case records =>
    have hcount : (r :: rs).length < 32 := by
      rw [← h]
      have hn : bits (w 0) 0 5 < 32 := Nat.mod_lt _ (by decide)
      exact Nat.lt_of_le_of_lt (List.length_take_le _ _) hn
    refine answers_row s s _ _ m (okWord :: w32 r.seq :: (r :: rs).flatMap LogRec.wordsOf) _ ht (exec_faultLogRead m s)
      (cmdFaultLogRead_found (c := cmdOf 0x60 m) h) (SameRings.refl s) ?_
    have hwords : ((r :: rs).flatMap LogRec.wordsOf).length = 8 * (r :: rs).length := by
      rw [List.length_flatMap, List.map_congr_left fun x _ => x.wordsOf_length]
      simp
      omega
    rw [List.length_cons, List.length_cons, hwords]
    omega
  case empty =>
    exact answers_row s _ _ _ m _ _ ht (exec_faultLogRead m s) (cmdFaultLogRead_none (c := cmdOf 0x60 m) hn h) (SameRings.refl s) (by simp)
  case reset =>
    exact awaits_row (exec_blockReset m s) ht (cmdBlockReset_accepted (c := cmdOf 0x61 m) h) rfl rfl rfl rfl
  case refused => exact answers_refused (exec_blockReset m s) ht (cmdBlockReset_refused (c := cmdOf 0x61 m) h)
  case lifeRead =>
    refine answers_row s s _ _ m _ State.cmdLifetimeRead ht (exec_lifetimeRead m s) rfl (SameRings.refl s) ?_
    simp [h]
  case lifeSet =>
    exact answers_row s _ _ _ m _ _ ht (exec_lifetimeSet m s) (cmdLifetimeSet_first (c := cmdOf 0x69 m) h) (SameRings.refl s) (by simp)
  case lifeAgain => exact answers_refused (exec_lifetimeSet m s) ht (cmdLifetimeSet_again (c := cmdOf 0x69 m) h)

end Sys2Proof.Machine
end

section
/-! The Copper's commands (R437 to R439). -/
namespace Sys2Proof.Machine

section Commands
variable {s : State} {c : Cmd}

theorem cmdCopperSwap_loaded (hlen : bits (c.w 0) 0 16 ≤ 4096) (hloaded : s.cop.loaded = true) :
    State.cmdCopperSwap c s = ({ s with cop.loaded := false, cop.swapLen := some (bits (c.w 0) 0 16) } : State).awaitReply c :=
  (if_neg (Nat.not_lt.2 hlen)).trans (if_neg (by simp [hloaded]))

theorem cmdCopperSwap_empty (hlen : bits (c.w 0) 0 16 ≤ 4096) (hloaded : s.cop.loaded = false) :
    State.cmdCopperSwap c s = s.answer c stBadState 0 :=
  (if_neg (Nat.not_lt.2 hlen)).trans (if_pos (by simp [hloaded]))

theorem cmdCopperParam_inside (h : bits (c.w 0) 16 16 + (c.words.length - 1) ≤ 65536) :
    State.cmdCopperParam c s = ({ s with cop.params := s.cop.params
      ++ (List.range (c.words.length - 1)).map fun i => (bit (c.w 0) 0, bits (c.w 0) 16 16 + i, nthW c.words (i + 1)) } : State).ok c
        [w32 ((s.time / 256 + 1) * 256)] := by
  have hword : ∀ i, nthW (c.words.drop 1) i = nthW c.words (i + 1) := fun i => by simp [nthW]
  have hlen : (c.words.drop 1).length = c.words.length - 1 := List.length_drop
  refine (if_neg (by rw [hlen]; omega)).trans ?_
  simp only [hword, hlen]
  rfl

end Commands

section Load
variable {s : State} {rd : List PageFault} {j : Job} {b : List Byte} (hswap : s.cop.swapLen = none) (hjob : s.jobOf 0x50 = some j)
  (hfetch : s.fetchObject rd (bits (j.w 0) 16 16) 5 = (.ok b, s))
include hswap hjob hfetch

/-- A sound program goes into the inactive bank (R437). -/
theorem copperLoadDone_sound (hb : copperBad b = false) :
    s.copperLoadDone rd =
      let k := 1 - s.cop.active
      ({ s with
        cop.loaded := true
        cop.prog := s.cop.prog.set k (sputs (fun _ => fillWord) [] 0 (programWords (u32 b 8) (b.drop 0x40)))
        cop.pwords := s.cop.pwords.set k (u32 b 8)
        cop.prmBase := s.cop.prmBase.set k (u16 b 0xC)
        cop.prmVals := s.cop.prmVals.set k (bytesWords (u16 b 6) (b.drop (0x40 + 8 * u32 b 8))) } : State).complete j stOk [w32 (u32 b 8)] := by
  simp only [State.copperLoadDone, hswap, hjob, hfetch, hb]
  rfl

theorem copperLoadDone_bad (hb : copperBad b = true) : s.copperLoadDone rd = s.complete j stProgramInvalid [0] := by
  simp only [State.copperLoadDone, hswap, hjob, hfetch, hb]
  rfl

end Load

/-- Settles O23: the commands at taking, and the end of a load by whether a swap waits and whether its program is sound. -/
theorem copperCommands : Obligations.CopperCommands := by
  intro s m rd j b w k
  refine ⟨fun ht => ?load, fun ht hlen hloaded => ?swap, fun ht hlen hloaded => ?swapEmpty, fun ht hend => ?param,
    fun hswap hj hfetch hb => ?sound, fun hswap hj hfetch hb => ?bad, fun hswap hq => ?waits⟩
  case load => exact accepts_row (work := fun c t => t.deferWork c) (exec_copperLoad m s) ht rfl
  case swap => exact awaits_row (exec_copperSwap m s) ht (cmdCopperSwap_loaded (c := cmdOf 0x51 m) hlen hloaded) rfl rfl rfl rfl
  case swapEmpty => exact answers_refused (exec_copperSwap m s) ht (cmdCopperSwap_empty (c := cmdOf 0x51 m) hlen hloaded)
  case param =>
    exact answers_row s _ _ _ m _ _ ht (exec_copperParam m s) (cmdCopperParam_inside (c := cmdOf 0x52 m) hend) (SameRings.refl s) (by simp)
  case sound =>
    obtain ⟨hjob, hring, hclear, hq⟩ := hj
    exact finishes_of_ends s _ _ j _ _ hring
      ((exec_copperLoadDone rd s).trans (congrArg s.ends (copperLoadDone_sound hswap hjob hfetch hb))) hq hclear (SameEvents.refl s)
  case bad =>
    obtain ⟨hjob, hring, hclear, hq⟩ := hj
    exact finishes_of_ends s s _ j _ _ hring
      ((exec_copperLoadDone rd s).trans (congrArg s.ends (copperLoadDone_bad hswap hjob hfetch hb))) hq hclear (SameEvents.refl s)
  case waits =>
    have hstay : s.copperLoadDone rd = s := if_pos (Option.isSome_iff_ne_none.2 hswap)
    rw [exec_copperLoadDone, execCopperLoadDone, hstay]
    exact ends_quiet s s hq rfl rfl

end Sys2Proof.Machine
end

section
/-! The commands of diagnostics and of the capture (R440 to R442). -/
namespace Sys2Proof.Machine

/-! ### Settings that a step hands back (R529) -/

/-- A register that the step had replaced. -/
def State.settingBack (d : DiagJob) (s : State) (x : Nat × Nat × Word) : State := s.setReg x.1 x.2.1 (s.restored d x.1 x.2.1 x.2.2)

theorem settingsBack_eq (d : DiagJob) (saved : List (Nat × Nat × Word)) (s : State) :
    ∃ regs, saved.foldl (State.settingBack d) s = { s with regs := regs } := by
  induction saved generalizing s with
  | nil => exact ⟨s.regs, rfl⟩
  | cons x xs ih =>
    obtain ⟨regs, hregs⟩ := ih (s.settingBack d x)
    exact ⟨regs, hregs⟩

theorem settingsBack_frame (d : DiagJob) (saved : List (Nat × Nat × Word)) (s : State) (h : HostPort) (f : Firmware) :
    saved.foldl (State.settingBack d) { s with host := h, fw := f } = { saved.foldl (State.settingBack d) s with host := h, fw := f } := by
  induction saved generalizing s with
  | nil => rfl
  | cons x xs ih => exact ih (s.settingBack d x)

/-- What a step hands back lies in the registers, the sense channels, the Copper's exchange words and the clusters. -/
theorem restoreDiag_eq (s : State) (d : DiagJob) :
    ∃ regs sns xch tcl, s.restoreDiag d = { s with regs := regs, sns := sns, cop.xch := xch, tcl := tcl } := by
  obtain ⟨regs, hregs⟩ := settingsBack_eq d d.saved s
  unfold State.restoreDiag
  dsimp only
  rw [show (fun (s : State) (x : Nat × Nat × Word) => s.setReg x.1 x.2.1 (s.restored d x.1 x.2.1 x.2.2)) = State.settingBack d from rfl, hregs]
  exact ⟨_, _, _, _, rfl⟩

theorem restoreDiag_frame (s : State) (d : DiagJob) (h : HostPort) (f : Firmware) :
    ({ s with host := h, fw := f } : State).restoreDiag d = { s.restoreDiag d with host := h, fw := f } := by
  unfold State.restoreDiag
  dsimp only
  rw [show (fun (s : State) (x : Nat × Nat × Word) => s.setReg x.1 x.2.1 (s.restored d x.1 x.2.1 x.2.2)) = State.settingBack d from rfl,
    settingsBack_frame]
  rfl

/-! ### DIAG_START (R440) -/

/-- A deferred command is answered ACCEPTED at once, and of the rings nothing else changes. -/
theorem deferWork_posts {s : State} (h : ClearToAnswer s) (op : Nat) (m : Msg) :
    ∃ mb, s.deferWork (cmdOf op m) = (s.deferred (cmdOf op m)).answered 1 mb
      ∧ Responds s (s.deferWork (cmdOf op m)) op m [acceptedWord] ∧ OnlyResponds s (s.deferWork (cmdOf op m)) 1 := by
  obtain ⟨mb, hwork, hresponds⟩ := deferWork_answered h op m
  obtain ⟨mb', hanswer, -, honly⟩ := respond_answered h op m (ws := [acceptedWord]) (by simp)
  refine ⟨mb, hwork, hresponds, ?_⟩
  have hframe : s.deferWork (cmdOf op m) = ({ s.answered 1 mb' with
      fw.jobs := s.fw.jobs ++ [Job.mk op m.session m.seq .ring m.words 0] } : State).applyLocks := by
    show ({ s.respond (cmdOf op m) [acceptedWord] with
      fw.jobs := (s.respond (cmdOf op m) [acceptedWord]).fw.jobs ++ [Job.mk op m.session m.seq .ring m.words 0] } : State).applyLocks = _
    rw [hanswer]
    rfl
  rw [hframe, applyLocks_eq]
  exact honly

/-- A job that no other of its opcode precedes is found. -/
theorem jobOf_append {s : State} {op : Nat} {j : Job} (h : s.jobOf op = none) (hj : j.opcode = op) :
    (s.fw.jobs ++ [j]).find? (fun x => x.opcode == op) = some j := by
  unfold State.jobOf at h
  rw [List.find?_append, h, List.find?_cons_of_pos (by simp [hj])]
  rfl

section Start
variable {s t : State} {c : Cmd} {rd : List PageFault} {j : Job} {e : DirEntry} {p : List Byte}

/-- A sound profile of the right type starts the job. -/
theorem cmdDiagStart_sound (hwork : s.deferWork c = t) (hjob : t.jobOf 0x58 = some j)
    (hentry : t.loadEntry rd (bits (c.w 1) 0 16) = (.found e, t)) (htype : e.type = 6) (hsize : e.size = 832)
    (hload : t.loadObject rd e = (some p, t)) (hsound : profileFault p (bits (c.w 0) 16 16) = none) :
    State.cmdDiagStart rd c s = { t with fw.diag := some (DiagJob.start (bits (c.w 0) 0 1) (bits (c.w 0) 16 16) p) } := by
  simp only [State.cmdDiagStart, hwork, hjob, hentry, htype, hsize, hload, hsound, ne_eq, not_true_eq_false, or_self, if_false]

end Start

theorem diagStart_accepted {s : State} {m : Msg} {rd : List PageFault} {e : DirEntry} {p : List Byte} (hq : s.kiln.raised = [])
    (ht : TakenNow s 0x58 m) (hnone : s.jobOf 0x58 = none)
    (hentry : (s.deferWork (cmdOf 0x58 m)).loadEntry rd (bits (payload m 1) 0 16) = (.found e, s.deferWork (cmdOf 0x58 m)))
    (htype : e.type = 6) (hsize : e.size = 832)
    (hload : (s.deferWork (cmdOf 0x58 m)).loadObject rd e = (some p, s.deferWork (cmdOf 0x58 m)))
    (hsound : profileFault p (bits (payload m 0) 16 16) = none) :
    Answers s (.diagStart m rd) 0x58 m [acceptedWord]
      { s.deferred (cmdOf 0x58 m) with fw.diag := some (DiagJob.start (bits (payload m 0) 0 1) (bits (payload m 0) 16 16) p) } := by
  obtain ⟨mb, hwork, hresponds, honly⟩ := deferWork_posts ht.2 0x58 m
  obtain ⟨mem, hmem⟩ := deferred_eq s (cmdOf 0x58 m)
  have hjob : (s.deferWork (cmdOf 0x58 m)).jobOf 0x58 = some (Job.mk 0x58 m.session m.seq .ring m.words 0) := by
    rw [hwork, hmem]
    exact jobOf_append hnone rfl
  have hdone := cmdDiagStart_sound (c := cmdOf 0x58 m) rfl hjob hentry htype hsize hload hsound
  refine ⟨{ s.deferWork (cmdOf 0x58 m) with
    fw.diag := some (DiagJob.start (bits (payload m 0) 0 1) (bits (payload m 0) 16 16) p) }, ?_, ?_, hresponds, honly⟩
  · rw [exec_diagStart, execDiagStart, takeWith_takes _ _ _ ht.1 rfl, hdone, hwork, hmem]
    exact ends_quiet _ _ hq rfl rfl
  · rw [hwork]
    rfl

/-! ### DIAG_ABORT (R441) -/

/-- An aborted job's command ends with BAD_STATE and 32 words of 0 behind the answer. -/
theorem diagAbort_running {s : State} {m : Msg} {d : DiagJob} {j : Job} (ht : TakenNow s 0x5A m) (hd : s.fw.diag = some d)
    (hj : Outstanding s 0x58 32 j) :
    AnswersPosting s (.diagAbort m) 0x5A m [okWord] 0x81 j.session (completionWords j 0x1F (List.replicate 32 0))
      { s.restoreDiag d with fw.diag := none, fw.jobs := s.fw.jobs.erase j } := by
  obtain ⟨hjob, hring, hclear, -⟩ := hj
  obtain ⟨regs, sns, xch, tcl, hback⟩ := restoreDiag_eq s d
  obtain ⟨mb, hanswer, hresponds, -⟩ := respond_answered ht.2 0x5A m (ws := [okWord]) (by simp)
  let u : State := { s.restoreDiag d with fw.diag := none, fw.jobs := s.fw.jobs.erase j }
  have hu : u = { s with regs := regs, sns := sns, cop.xch := xch, tcl := tcl, fw.diag := none, fw.jobs := s.fw.jobs.erase j } := by
    dsimp only [u]
    rw [hback]
  have hrestored : (s.answered 1 mb).restoreDiag d = (s.restoreDiag d).answered 1 mb := by
    rw [show s.answered 1 mb = { s with host := (s.answered 1 mb).host, fw := (s.answered 1 mb).fw } from rfl, restoreDiag_frame, hback]
    rfl
  have hended : State.cmdDiagAbort (cmdOf 0x5A m) s = (u.answered 1 mb).event 0x81 j.session (completionWords j 0x1F (List.replicate 32 0)) := by
    have hok : s.ok (cmdOf 0x5A m) [] = s.answered 1 mb := hanswer
    have hdiag : (s.answered 1 mb).fw.diag = some d := hd
    have hjob' : ({ (s.restoreDiag d).answered 1 mb with fw.diag := none } : State).jobOf 0x58 = some j := by
      rw [hback]
      exact hjob
    have hjobs : (s.restoreDiag d).fw.jobs = s.fw.jobs := by rw [hback]
    unfold State.cmdDiagAbort State.endDiag
    rw [hd, hok]
    simp only [Option.isNone_some, Bool.false_eq_true, if_false, hdiag, hrestored, hjob']
    unfold State.complete
    rw [hring]
    dsimp only [State.answered, u]
    rw [hjobs]
    rfl
  have hsame : SameEvents s (u.answered 1 mb) := by
    rw [hu]
    exact SameEvents.refl s
  obtain ⟨mb', hevent, hposts, honly⟩ := event_posted (s := u.answered 1 mb) (ws := completionWords j 0x1F (List.replicate 32 0))
    (clearToPost_same hsame hclear) 0x81 j.session
  have hrun : exec (.diagAbort m) s = s.done ((u.answered 1 mb).posted 33 mb') := by
    rw [exec_diagAbort, execDiagAbort, run_row _ _ _ _ ht, hended, hevent]
    rfl
  have hresponds' : Responds s (u.answered 1 mb) 0x5A m [okWord] := by
    rw [hu]
    exact hresponds
  refine ⟨_, exec_next_of_off (u := u) hrun rfl ?_ ?_, rfl, hresponds'.of_onlyPosts honly ?_, posts_same hsame hposts⟩
  · rw [hu]
  · rw [hu]
  · exact irq_keeps (s := u.answered 1 mb) 1 hresponds'.2.2

/-! ### DIAG_READ and the capture (R441, R442) -/

section Rest
variable {s : State} {c : Cmd}

theorem cmdDiagRead_none (h : s.fw.diagLast = none) : State.cmdDiagRead c s = s.ok c (List.replicate 33 0) := by
  simp only [State.cmdDiagRead, h]

theorem cmdDiagRead_last {r : DiagResult} (h : s.fw.diagLast = some r) :
    State.cmdDiagRead c s = s.ok c (w32 (r.kind + 2 + 0x10000 * r.mask) :: r.words) := by
  simp only [State.cmdDiagRead, h]

theorem cmdDiagAbort_idle (h : s.fw.diag = none) : State.cmdDiagAbort c s = s.answer c stBadState 0 := if_pos (by simp [h])

theorem cmdCaptureStart_free (hmask : bits (c.w 0) 0 8 ≠ 0) (h0 : nthB s.host.own 0 = true) (h1 : nthB s.host.own 1 = true) :
    State.cmdCaptureStart c s = ({ s with
      fw.capture := some (Capture.mk (bits (c.w 0) 0 8) (if bits (c.w 0) 16 16 = 0 then none else some (bits (c.w 0) 16 16))
        s.nextBlock 0 0 s.nextBlock false) } : State).ok c [] :=
  (if_neg hmask).trans (if_neg (by simp [h0, h1]))

theorem cmdCaptureStop_running {k : Capture} (h : s.fw.capture = some k) :
    State.cmdCaptureStop c s = ({ s with fw.capture := some { k with stop := true } } : State).awaitReply c := by
  simp only [State.cmdCaptureStop, h]

theorem cmdCaptureStop_idle (h : s.fw.capture = none) : State.cmdCaptureStop c s = s.answer c stBadState 0 := by
  simp only [State.cmdCaptureStop, h]

end Rest

/-- Settles O24: the job starts and is aborted, its results are read; a capture starts and stops. -/
theorem diagAndCapture : Obligations.DiagAndCapture := by
  intro s m w
  refine ⟨fun rd e p hq ht hnone hentry htype hsize hload hsound => diagStart_accepted hq ht hnone hentry htype hsize hload hsound,
    fun ht h => ?readNone, fun r ht h hlen => ?readLast, fun ht h => ?abortIdle, fun d j ht hd hj => diagAbort_running ht hd hj,
    fun ht hmask h0 h1 => ?capture, fun k ht h => ?stop, fun ht h => ?stopIdle⟩
  case readNone =>
    exact answers_row s s _ _ m _ _ ht (exec_diagRead m s) (cmdDiagRead_none (c := cmdOf 0x59 m) h) (SameRings.refl s) (by simp)
  case readLast =>
    refine answers_row s s _ _ m _ _ ht (exec_diagRead m s) (cmdDiagRead_last (c := cmdOf 0x59 m) h) (SameRings.refl s) ?_
    simp only [List.length_cons]
    omega
  case abortIdle => exact answers_refused (exec_diagAbort m s) ht (cmdDiagAbort_idle (c := cmdOf 0x5A m) h)
  case capture =>
    exact answers_row s _ _ _ m _ _ ht (exec_captureStart m s) (cmdCaptureStart_free (c := cmdOf 0x5C m) hmask h0 h1) (SameRings.refl s) (by simp)
  case stop => exact awaits_row (exec_captureStop m s) ht (cmdCaptureStop_running (c := cmdOf 0x5D m) h) rfl rfl rfl rfl
  case stopIdle => exact answers_refused (exec_captureStop m s) ht (cmdCaptureStop_idle (c := cmdOf 0x5D m) h)

end Sys2Proof.Machine
end

section
/-! SPARGE_STAGE1_OUTPUT keeps 40 outputs of stage 3 (R503, R505), where the statement keeps 16. -/
namespace Sys2Proof.Machine

/-- READY with SPARGE in force and its channel 0 on without a limit on its steps, which has kept 16 outputs of stage 3. -/
def sixteenKept : State :=
  { State.reset with
    pwr.phase := .ready
    fw.unitAgreed := 0x20
    regs := [(regKey bSPARGE 0, 1), (regKey bSPARGE 0xC, 0)]
    sns := { SenseCh.reset with y := List.replicate 16 0 } :: List.replicate 7 SenseCh.reset }

/-- A stage-1 group of ones. -/
def onesGroup : List Bool := List.replicate sixteenKept.snsL1 true

theorem sixteenKept_runs :
    sixteenKept.snsRuns 0 = true ∧ sixteenKept.kiln.raised = [] ∧ onesGroup.length = sixteenKept.snsL1 ∧ sixteenKept.sns.length = 8
      ∧ (sixteenKept.sense 0).thr.length = 2 ∧ sixteenKept.thrDue 0 0 = false ∧ sixteenKept.thrDue 0 1 = false
      ∧ bits (sixteenKept.regN bSPARGE 0xC) 0 16 = 0
      ∧ 4 * sixteenKept.groupEnd 0 (sixteenKept.sense 0).groups ≤ (sixteenKept.lastBlock + 1) * 4096 := by
  decide +kernel

/-- The group's output is kept beside the sixteen. -/
theorem sixteenKept_keeps : ((sixteenKept.stage1 0 onesGroup false).hear.sense 0).y.length = 17 := by
  decide +kernel

theorem sixteenKept_y : (sixteenKept.sense 0).y.length = 16 := by
  decide +kernel

/-- The row ends in its work's sense channels. -/
theorem stage1_sense {s t : State} {c : Nat} {bs : List Bool} {overload : Bool} (h : exec (.spargeStage1Output c bs overload) s = .next t)
    (d : Nat) : t.sense d = (s.stage1 c bs overload).hear.sense d := by
  rw [exec_spargeStage1Output, execSpargeStage1Output, State.ends, State.done] at h
  injection h with h
  rw [← h]
  rfl

/-- Refutes O42: an output of stage 3 joins those kept before, of which the model holds 40 for the fine path's taps (R503, R505); the
statement cuts them at 16, so a channel that has kept 16 has 17 after the group, where the statement has 16. -/
theorem not_senseStageOne : ¬ Obligations.SenseStageOne := by
  rintro ⟨hstage, -⟩
  obtain ⟨hruns, hq, hlen, hsns, hthr, hdue0, hdue1, hstep, htick⟩ := sixteenKept_runs
  obtain ⟨t, hexec, -, -, hsense, -⟩ := hstage sixteenKept 0 onesGroup hruns hq hlen hsns hthr hdue0 hdue1 hstep htick
  have hlength : (t.sense 0).y.length = 17 := by rw [stage1_sense hexec, sixteenKept_keeps]
  have hy := congrArg SenseCh.y hsense
  dsimp only at hy
  rw [hy] at hlength
  split at hlength
  · rw [List.length_take] at hlength
    omega
  · rw [sixteenKept_y] at hlength
    omega

end Sys2Proof.Machine
end

section
/-! Fine values and thresholds of the sense chain (R499, R505, R507, R509, R510). -/
namespace Sys2Proof.Machine

/-! ### Thresholds of a channel -/

/-- The thresholds of a channel replaced. -/
def State.withThr (s : State) (c : Nat) (thr : List Threshold) : State := { s with sns := modAt s.sns c fun h => { h with thr := thr } }

section Thresholds
variable {s : State} {c : Nat}

theorem sense_withThr_same (hc : c < s.sns.length) (thr : List Threshold) : (s.withThr c thr).sense c = { s.sense c with thr := thr } := by
  simp [State.withThr, State.sense, modAt, List.getElem?_eq_getElem hc]

theorem sense_withThr_ne {d : Nat} (h : d ≠ c) (thr : List Threshold) : (s.withThr c thr).sense d = s.sense d := by
  simp [State.withThr, State.sense, modAt, Ne.symm h]

theorem withThr_self (hc : c < s.sns.length) : s.withThr c (s.sense c).thr = s := by
  have hmod : modAt s.sns c (fun h => { h with thr := (s.sense c).thr }) = s.sns := by
    refine List.ext_getElem (List.length_modify ..) fun i h1 h2 => ?_
    by_cases hi : c = i
    · subst hi
      simp [modAt, State.sense, List.getElem?_eq_getElem hc]
    · simp [modAt, hi]
  unfold State.withThr
  rw [hmod]

theorem setThr_eq (hc : c < s.sns.length) (k : Nat) (t : Threshold) : s.setThr c k t = s.withThr c ((s.sense c).thr.set k t) := by
  have hmod : modAt s.sns c (fun h => { h with thr := h.thr.set k t }) = modAt s.sns c (fun h => { h with thr := (s.sense c).thr.set k t }) := by
    refine List.ext_getElem (by simp [modAt]) fun i h1 h2 => ?_
    by_cases hi : c = i
    · subst hi
      simp [modAt, State.sense, List.getElem?_eq_getElem hc]
    · simp [modAt, hi]
  unfold State.setThr State.withThr
  rw [hmod]

/-- A threshold that is not due is evaluated without an event: its own dwell count alone changes (R509). -/
theorem thrEval_undue (hc : c < s.sns.length) {k : Nat} (hdue : s.thrDue c k = false) (coarse : Bool) (x : Int) (stamp : Nat) :
    ∃ thr, s.thrEval c coarse x stamp k = s.withThr c thr ∧ ∀ j, j ≠ k → thr.getD j Threshold.out = (s.sense c).thrOf j := by
  have hstay : s.thrChange c k = s := if_pos (by simp [hdue])
  have hset : ∀ t : Threshold, ∃ thr, s.setThr c k t = s.withThr c thr ∧ ∀ j, j ≠ k → thr.getD j Threshold.out = (s.sense c).thrOf j :=
    fun t => ⟨_, setThr_eq hc k t, fun j hj => by simp [SenseCh.thrOf, List.getElem?_set_ne (Ne.symm hj)]⟩
  unfold State.thrEval
  rw [hstay]
  dsimp only
  split
  · exact ⟨_, (withThr_self hc).symm, fun j _ => rfl⟩
  · split
    · exact hset _
    · exact hset _

/-- The thresholds on which a frame or a group counts differ in themselves alone. -/
theorem thrEval_both (hc : c < s.sns.length) (h0 : s.thrDue c 0 = false) (h1 : s.thrDue c 1 = false) (coarse : Bool) (x : Int) (stamp : Nat) :
    ∃ thr, (s.thrEval c coarse x stamp 0).thrEval c coarse x stamp 1 = s.withThr c thr := by
  obtain ⟨thr, heval, hother⟩ := thrEval_undue hc h0 coarse x stamp
  have hlen : c < (s.withThr c thr).sns.length := by simpa [State.withThr, modAt] using hc
  have hdue : (s.withThr c thr).thrDue c 1 = false := by
    have hthr : ((s.withThr c thr).sense c).thrOf 1 = (s.sense c).thrOf 1 := by
      rw [sense_withThr_same hc]
      exact hother 1 (by decide)
    unfold State.thrDue
    rw [hthr]
    exact h1
  obtain ⟨thr', heval', -⟩ := thrEval_undue hlen hdue coarse x stamp
  refine ⟨thr', ?_⟩
  rw [heval, heval']
  simp only [State.withThr, modAt, List.modify_modify_eq]
  rfl

end Thresholds

/-! ### The fine value (R505) -/

theorem rndDiv_mul {p : Int} (hp : 0 < p) (x n : Int) : rndDiv (p * x) (p * n) = rndDiv x n := by
  have hhalf : 2 * (p * (x % n)) > p * n ↔ 2 * (x % n) > n := by
    rw [Int.mul_left_comm]
    exact Int.mul_lt_mul_left hp
  have heven : 2 * (p * (x % n)) = p * n ↔ 2 * (x % n) = n := by
    rw [Int.mul_left_comm]
    exact Int.mul_eq_mul_left_iff hp.ne'
  unfold rndDiv
  simp only [Int.mul_ediv_mul_of_pos _ _ hp, Int.mul_emod_mul_of_pos _ _ hp, hhalf, heven]

/-- A frame on a kept output takes that output alone, by the largest tap. -/
theorem fineAt_on {s : State} {c f : Nat} (hon : s.senseOn c = true) (hfrac : (s.fineIndex c f).2 = 0) :
    s.fineAt c f = s.snsTrim c (sat31 (rndDiv (0x7FFFFFFF * s.keptAt (s.sense c) (s.fineIndex c f).1) (2 ^ 31))) := by
  have hp : (0 : Int) < max 1 (s.snsP : Int) := by omega
  have htaps : ∀ y : Nat → Int, (List.range 8).foldl (fun (acc : Int) k =>
      acc + (nthI (fineKernelPhase 0) k * max 1 (s.snsP : Int) + (nthI (fineKernelPhase 0) k - nthI (fineKernelPhase 0) k) * 0) * y k) 0
        = max 1 (s.snsP : Int) * (0x7FFFFFFF * y 3) := by
    intro y
    simp [fineKernelPhase, nthI, List.range_succ]
    ring
  have hat : (s.fineIndex c f).1 + ((3 : Nat) : Int) - 3 = (s.fineIndex c f).1 := by omega
  unfold State.fineAt
  rw [hon]
  simp only [Bool.not_true, Bool.false_eq_true, if_false, hfrac, Int.zero_mul, Int.zero_ediv, Int.zero_emod, if_true, Int.toNat_zero]
  rw [htaps, rndDiv_mul hp, hat]

theorem fineAt_atFrame (s : State) (c f g : Nat) : (s.atFrame g).fineAt c f = s.fineAt c f := rfl
theorem fineClean_atFrame (s : State) (c f g : Nat) : (s.atFrame g).fineClean c f = s.fineClean c f := rfl

theorem snsRuns_lt {s : State} {c : Nat} (h : s.snsRuns c = true) : c < 8 := by
  unfold State.snsRuns at h
  simp only [Bool.and_eq_true, decide_eq_true_eq] at h
  omega

theorem snsRuns_on {s : State} {c : Nat} (h : s.snsRuns c = true) : s.senseOn c = true := by
  unfold State.snsRuns at h
  simp only [Bool.and_eq_true] at h
  exact h.1.2

/-- The channel's value, validity and frame, beside the thresholds' own counts. -/
theorem spargeFineValue : Says.SpargeFineValue := by
  intro s c f hruns hq hturn hsns hthr hdue0 hdue1 hdiag h i
  have hc : c < s.sns.length := hsns ▸ snsRuns_lt hruns
  let u : State := (s.atFrame f).setSense c
    { h with fine := (s.atFrame f).fineAt c f, valid := h.valid || (s.atFrame f).fineClean c f, frame := f }
  have hsense : u.sense c = { h with fine := s.fineAt c f, valid := h.valid || s.fineClean c f, frame := f } := by
    show (s.sns.set c _).getD c SenseCh.reset = _
    simp [hc, fineAt_atFrame, fineClean_atFrame]
  have hwork : ∃ thr, s.fineValue c = u.withThr c thr := by
    have hframe : u.diagFrame c f = u := by
      unfold State.diagFrame State.diagStep
      rw [show u.fw.diag = none from hdiag]
    have hlen : c < u.sns.length := by simpa [u, State.setSense, State.atFrame] using hc
    have hsame : ∀ k, u.thrDue c k = s.thrDue c k := by
      intro k
      unfold State.thrDue
      rw [show (u.sense c).thrOf k = (s.sense c).thrOf k by rw [hsense]; rfl]
      rfl
    have hstep : s.fineValue c = if (h.valid || (s.atFrame f).fineClean c f) = true then
        (u.thrEval c false ((s.atFrame f).fineAt c f) (f * 256) 0).thrEval c false ((s.atFrame f).fineAt c f) (f * 256) 1 else u := by
      unfold State.fineValue
      simp only [hruns, hturn]
      rw [← hframe]
      rfl
    rw [hstep]
    split
    · exact thrEval_both hlen ((hsame 0).trans hdue0) ((hsame 1).trans hdue1) _ _ _
    · exact ⟨_, (withThr_self hlen).symm⟩
  obtain ⟨thr, hwork⟩ := hwork
  have hlen : c < u.sns.length := by simpa [u, State.setSense, State.atFrame] using hc
  have hend : (u.withThr c thr).sense c = { h with fine := s.fineAt c f, valid := h.valid || s.fineClean c f, frame := f, thr := thr } := by
    rw [sense_withThr_same hlen, hsense]
  refine ⟨u.withThr c thr, ?_, rfl, fun d hd => ?_, ?_, fun hfrac => ?_⟩
  · rw [exec_spargeFineValue, execSpargeFineValue, hwork]
    exact ends_quiet _ _ hq rfl rfl
  · rw [sense_withThr_ne hd]
    show (s.sns.set c _).getD d SenseCh.reset = s.sns.getD d SenseCh.reset
    simp [List.getElem?_set_ne (Ne.symm hd)]
  · rw [hend]
  · rw [hend, fineAt_on (snsRuns_on hruns) hfrac]

/-! ### A completed dwell (R509, R510) -/

section Change
variable {s : State} {c k : Nat}

/-- The registers that a change of state marks: the count of entries and the event bit (R510). -/
def State.thrMarked (s : State) (c k cfg : Nat) (entering : Bool) : State :=
  let s := if entering then s.countReg bSPARGE (0x58 + 0x20 * c) 16 16 1 else s
  if bit cfg 3 then s.setReg bSPARGE 0x34 (setBit (s.reg bSPARGE 0x34) (8 * k + c)) else s

theorem thrMarked_regs (cfg : Nat) (entering : Bool) : s.thrMarked c k cfg entering = { s with regs := (s.thrMarked c k cfg entering).regs } := by
  unfold State.thrMarked
  dsimp only
  cases entering <;> cases bit cfg 3 <;> rfl

/-- A change of state whose configuration names no message: what it marks, and the Hopper. -/
theorem thrEvent_eq {cfg : Nat} (hmsg : bit cfg 5 = false) (entering : Bool) (stamp : Nat) :
    s.thrEvent c k cfg entering stamp = { s.thrMarked c k cfg entering with
        hop.senses := if bit cfg 4 then s.hop.senses ++ [⟨c, k, entering, stamp⟩] else s.hop.senses } := by
  unfold State.thrEvent State.thrMarked
  rw [hmsg]
  dsimp only
  cases entering <;> cases bit cfg 3 <;> cases bit cfg 4 <;> rfl

theorem thrMarked_event {cfg : Nat} (hbit : bit cfg 3 = true) (hi : 8 * k + c < 32) (entering : Bool) :
    bit ((s.thrMarked c k cfg entering).regN bSPARGE 0x34) (8 * k + c) = true := by
  unfold State.thrMarked State.regN
  rw [if_pos hbit, State.reg_setReg, bit_toNat, setBit_getLsbD _ _ _ hi]
  simp

theorem thrMarked_count (cfg : Nat) (entering : Bool) :
    (s.thrMarked c k cfg entering).reg bSPARGE (0x58 + 0x20 * c)
      = if entering then countField (s.reg bSPARGE (0x58 + 0x20 * c)) 16 16 1 else s.reg bSPARGE (0x58 + 0x20 * c) := by
  have hcount : ∀ u : State, (if bit cfg 3 then u.setReg bSPARGE 0x34 (setBit (u.reg bSPARGE 0x34) (8 * k + c)) else u).reg bSPARGE (0x58 + 0x20 * c)
      = u.reg bSPARGE (0x58 + 0x20 * c) := by
    intro u
    split
    · exact State.reg_setReg_ne _ _ _ _ _ _ (by unfold regKey; omega)
    · rfl
  unfold State.thrMarked
  rw [hcount]
  cases entering with
  | true => exact State.reg_setReg ..
  | false => rfl

end Change

theorem thresholdChange : Says.ThresholdChange := by
  intro s c k hruns hq hk hsns hthr a cfg
  have hc : c < s.sns.length := hsns ▸ snsRuns_lt hruns
  refine ⟨fun hdue hmsg => ?_, fun hdue => ?_⟩
  · let u : State := s.setThr c k { a with isIn := !a.isIn, dwell := 0 }
    let w : State := { u.thrMarked c k cfg (!a.isIn) with
      hop.senses := if bit cfg 4 then s.hop.senses ++ [⟨c, k, !a.isIn, a.stamp⟩] else s.hop.senses }
    have hwork : s.thrChange c k = w :=
      (if_neg (by simp [hruns, hdue]; omega)).trans (thrEvent_eq (s := u) hmsg (!a.isIn) a.stamp)
    have hsense : u.sense c = { s.sense c with thr := (s.sense c).thr.set k ⟨!a.isIn, 0, a.stamp⟩ } := by
      dsimp only [u]
      rw [setThr_eq hc, sense_withThr_same hc]
    have hframe : w = { s with
        regs := w.regs
        sns := u.sns
        hop.senses := if bit cfg 4 then s.hop.senses ++ [⟨c, k, !a.isIn, a.stamp⟩] else s.hop.senses } := by
      dsimp only [w]
      rw [thrMarked_regs]
      rfl
    have hsns : w.sns = u.sns := (congrArg State.sns hframe :)
    refine ⟨w, ?_, ?_, ?_, hframe.trans (by rw [hsns]), fun hbit => thrMarked_event (s := u) hbit (by omega) (!a.isIn), ?_⟩
    · rw [exec_thresholdChange, execThresholdChange, hwork]
      rw [hframe]
      exact ends_quiet _ _ hq rfl rfl
    · rw [State.sense, hsns]
      show (u.sense c).thrOf k = _
      rw [hsense]
      simp [SenseCh.thrOf, hthr, hk]
    · rw [State.sense, hsns]
      show (u.sense c).thrOf (1 - k) = _
      rw [hsense]
      simp [SenseCh.thrOf, List.getElem?_set_ne (show k ≠ 1 - k by omega)]
    · refine (thrMarked_count (s := u) cfg (!a.isIn)).trans ?_
      cases a.isIn <;> rfl
  · have hstay : s.thrChange c k = s := if_pos (by simp [hdue])
    rw [exec_thresholdChange, execThresholdChange, hstay]
    exact ends_quiet s s hq rfl rfl

/-- Settles O43: the fine value of a frame, and the change of a threshold that is due. -/
theorem senseFineAndThresholds : Obligations.SenseFineAndThresholds := ⟨spargeFineValue, thresholdChange⟩

end Sys2Proof.Machine
end

section
/-! The end of a diagnostic step and of a job (R528, R529, R532 to R535). -/
namespace Sys2Proof.Machine

/-- The job after line `r` with more lines ahead: between two steps. -/
def DiagJob.between (d : DiagJob) (r : Nat × Word × Word) : DiagJob :=
  { d with
    results := d.results ++ [r]
    channel := d.channel + 1
    going := false
    saved := []
    begun := 0 }

theorem diagStep_going {s : State} {d : DiagJob} (hd : s.fw.diag = some d) (hgoing : d.going = true) : s.diagStep = some d := by
  simp only [State.diagStep, hd, hgoing, if_true]

theorem between_lines_isEmpty (d : DiagJob) (r : Nat × Word × Word) :
    (d.between r).lines.isEmpty = true ↔ ¬ ∃ c, d.channel < c ∧ c < 16 ∧ bit d.mask c = true := by
  simp only [DiagJob.lines, DiagJob.between, List.isEmpty_iff, List.filter_eq_nil_iff, List.mem_range, Bool.and_eq_true, not_exists, not_and]
  exact ⟨fun h c hlt hc hbit => h c hc hbit (decide_eq_true hlt), fun h c hc hbit hlt => h c (of_decide_eq_true hlt) hc hbit⟩

/-- A line's end with lines ahead: the result is kept, the settings go back. -/
theorem endLine_more {s : State} {d : DiagJob} {r : Nat × Word × Word} (hr : r.1 = d.channel)
    (hmore : ∃ c, d.channel < c ∧ c < 16 ∧ bit d.mask c = true) :
    s.endLine d r = { s.restoreDiag d with fw.diag := some (d.between r) } := by
  have hlines : (d.between r).lines.isEmpty = true → False := fun h => (between_lines_isEmpty d r).1 h hmore
  unfold State.endLine
  rw [hr]
  exact if_neg hlines

theorem endLine_last {s : State} {d : DiagJob} {r : Nat × Word × Word} (hr : r.1 = d.channel)
    (hlast : ¬ ∃ c, d.channel < c ∧ c < 16 ∧ bit d.mask c = true) : s.endLine d r = (s.restoreDiag d).finishDiag (d.between r) := by
  unfold State.endLine
  rw [hr]
  exact if_pos ((between_lines_isEmpty d r).2 hlast)

/-- A row that ends a line with lines ahead. -/
theorem endLine_goesOn {s t : State} {d : DiagJob} {r : Nat × Word × Word} (hr : r.1 = d.channel)
    (hmore : ∃ c, d.channel < c ∧ c < 16 ∧ bit d.mask c = true) (hp : t.pending = s.pending) (hq : t.part = s.part) :
    s.done (t.endLine d r) = .next { t.restoreDiag d with fw.diag := some (d.between r) } := by
  obtain ⟨regs, sns, xch, tcl, hback⟩ := restoreDiag_eq t d
  rw [endLine_more hr hmore]
  refine done_same _ _ ?_ ?_
  · rw [hback]
    exact hp
  · rw [hback]
    exact hq

/-! ### The end of a step -/

/-- A measured line's verdict and angle, and its magnitude (R532). -/
theorem lineResult_measured {s t : State} {d : DiagJob} {mag : Nat} {a : Int} (hpart : t.part = s.part) (hsums : t.sumsOf d = s.sumsOf d)
    (hovl : d.ovl = false) (hz : impedance d d.channel (s.sumsOf d) = some (mag, some a)) :
    t.lineResult d d.channel (t.sumsOf d)
      = (t, (d.channel, w32 (verdictOf d s.part.variant d.channel (s.sumsOf d) mag + (a % 65536).toNat * 65536), w32 mag)) := by
  simp only [State.lineResult, hovl, hsums, hz, hpart]
  rfl

section Steps
variable {s : State} {d : DiagJob} (hready : s.isReady = true) (hd : s.fw.diag = some d) (hgoing : d.going = true)
include hready hd hgoing

theorem diagStepEnd_undone (hend : s.stepEnd d < 4096 * (s.lastBlock + 1)) (hdone : s.diagDone d = false) :
    exec .diagStepEnd s = .next s := by
  have hstay : s.diagStepEnd = s := by
    simp only [State.diagStepEnd, diagStep_going hd hgoing, reach_of_lt hend, hdone]
    rfl
  rw [exec_diagStepEnd, execDiagStepEnd, if_pos hready, hstay]
  exact done_same s s rfl rfl

theorem diagStepEnd_measured {mag : Nat} {a : Int} (hend : s.stepEnd d < 4096 * (s.lastBlock + 1)) (hdone : s.diagDone d = true)
    (hovl : d.ovl = false) (hz : impedance d d.channel (s.sumsOf d) = some (mag, some a)) :
    exec .diagStepEnd s = s.done (({ s with time := max s.time (s.stepEnd d) } : State).endLine d
      (d.channel, w32 (verdictOf d s.part.variant d.channel (s.sumsOf d) mag + (a % 65536).toNat * 65536), w32 mag)) := by
  have hline := lineResult_measured (s := s) (t := { s with time := max s.time (s.stepEnd d) }) rfl rfl hovl hz
  rw [exec_diagStepEnd, execDiagStepEnd, if_pos hready]
  simp only [State.diagStepEnd, diagStep_going hd hgoing, reach_of_lt hend, hdone, hline]
  rfl

theorem diagDoneTimeout_late (hend : s.stepEnd d + 49152 < 4096 * (s.lastBlock + 1)) (hdone : s.diagDone d = false) :
    exec .diagDoneTimeout s = s.done (({ s with time := max s.time (s.stepEnd d + 49152) } : State).endLine d (d.channel, 15, 0)) := by
  have hreach : s.reach (s.stepEnd d + 192 * 256) = some { s with time := max s.time (s.stepEnd d + 49152) } := reach_of_lt hend
  rw [exec_diagDoneTimeout, execDiagDoneTimeout, if_pos hready]
  simp only [State.diagDoneTimeout, diagStep_going hd hgoing, hreach, hdone]
  rfl

theorem diagDoneTimeout_done (hend : s.stepEnd d + 49152 < 4096 * (s.lastBlock + 1)) (hdone : s.diagDone d = true) :
    exec .diagDoneTimeout s = .next s := by
  have hreach : s.reach (s.stepEnd d + 192 * 256) = some { s with time := max s.time (s.stepEnd d + 49152) } := reach_of_lt hend
  have hstay : s.diagDoneTimeout = s := by
    simp only [State.diagDoneTimeout, diagStep_going hd hgoing, hreach, hdone]
    rfl
  rw [exec_diagDoneTimeout, execDiagDoneTimeout, if_pos hready, hstay]
  exact done_same s s rfl rfl

end Steps

/-! ### The end of a job (R535) -/

/-- The result of line `c`, verdict 15 where none is kept (R535). -/
def DiagJob.resultOf (d : DiagJob) (c : Nat) : Nat × Word × Word := (d.results.find? fun r => r.1 == c).getD (c, 15, 0)

/-- The 32 result words of a job (R441). -/
def DiagJob.resultWords (d : DiagJob) : List Word := (List.range 16).flatMap fun c => [(d.resultOf c).2.1, (d.resultOf c).2.2]

theorem resultWords_length (d : DiagJob) : d.resultWords.length = 32 := by
  simp [DiagJob.resultWords, List.range_succ]

theorem resultWords_pair (d : DiagJob) {c : Nat} (hc : c < 16) :
    nthW d.resultWords (2 * c) = (d.resultOf c).2.1 ∧ nthW d.resultWords (2 * c + 1) = (d.resultOf c).2.2 := by
  have hall : ∀ c < 16, ∀ f : Nat → Word × Word, nthW ((List.range 16).flatMap fun c => [(f c).1, (f c).2]) (2 * c) = (f c).1
      ∧ nthW ((List.range 16).flatMap fun c => [(f c).1, (f c).2]) (2 * c + 1) = (f c).2 := by
    intro c hc f
    interval_cases c <;> exact ⟨rfl, rfl⟩
  exact hall c hc fun c => ((d.resultOf c).2.1, (d.resultOf c).2.2)

/-- The last result kept is the line's own, where none was kept before. -/
theorem resultOf_between {d : DiagJob} {x y : Word} (hnone : ∀ r ∈ d.results, r.1 ≠ d.channel) :
    (d.between (d.channel, x, y)).resultOf d.channel = (d.channel, x, y) := by
  have hfind : d.results.find? (fun r => r.1 == d.channel) = none := List.find?_eq_none.2 fun r hr => by simpa using hnone r hr
  simp [DiagJob.resultOf, DiagJob.between, List.find?_append, hfind]

theorem complete_off (s : State) (j : Job) (status : Nat) (ws : List Word) :
    (s.complete j status ws).offRings = ({ s with fw.jobs := s.fw.jobs.erase j } : State).offRings := by
  unfold State.complete
  dsimp only
  split
  · exact event_off ..
  · split
    · exact queueFrame_off { s with fw.jobs := s.fw.jobs.erase j } _ _
    · rfl

theorem finishDiag_off (s : State) (d : DiagJob) :
    ∃ pwr jobs, (s.finishDiag d).offRings
      = ({ s with pwr := pwr, fw.jobs := jobs, fw.diag := none, fw.diagLast := some ⟨d.kind, d.mask, d.resultWords⟩ } : State).offRings := by
  unfold State.finishDiag
  dsimp only
  rw [event_off]
  split
  · exact ⟨_, _, complete_off ..⟩
  · exact ⟨_, _, rfl⟩

/-- Settles O25: a step by whether its program is done and whether a line lies ahead. -/
theorem diagSteps : Obligations.DiagSteps := by
  intro s d hready hd hgoing at' sums more ends goesOn
  refine ⟨fun mag a hend hdone hovl hz hmore => ?_, fun hend hdone => diagStepEnd_undone hready hd hgoing hend hdone, fun hend hdone hmore => ?_,
    fun hend hdone => diagDoneTimeout_done hready hd hgoing hend hdone, fun hend hdone hlast hc hnone => ?_⟩
  · rw [diagStepEnd_measured hready hd hgoing hend hdone hovl hz]
    exact endLine_goesOn rfl hmore rfl rfl
  · rw [diagDoneTimeout_late hready hd hgoing hend hdone]
    exact endLine_goesOn rfl hmore rfl rfl
  · obtain ⟨regs, sns, xch, tcl, hback⟩ := restoreDiag_eq (at' (ends + 49152)) d
    obtain ⟨pwr, jobs, hoff⟩ := finishDiag_off ((at' (ends + 49152)).restoreDiag d) (d.between (d.channel, 15, 0))
    rw [hback] at hoff
    have hrun := (diagDoneTimeout_late hready hd hgoing hend hdone).trans (congrArg s.done (endLine_last rfl hlast))
    rw [hback] at hrun
    obtain ⟨h0, h1⟩ := resultWords_pair (d.between (d.channel, 15, 0)) hc
    rw [resultOf_between hnone] at h0 h1
    exact ⟨_, (d.between (d.channel, 15, 0)).resultWords, exec_next_of_off hrun hoff rfl rfl, (congrArg (fun u : State => u.fw.diag) hoff :),
      (congrArg (fun u : State => u.fw.diagLast) hoff :), resultWords_length _, h0, h1⟩

end Sys2Proof.Machine
end

section
/-! Timer units: steps, compares, captures and the standby tick (R537 to R541, R544, R545). -/
namespace Sys2Proof.Machine

theorem modAt_eq_set {α : Type} {l : List α} {i : Nat} (h : i < l.length) (d : α) (f : α → α) : modAt l i f = l.set i (f (l.getD i d)) := by
  refine List.ext_getElem (by simp [modAt]) fun j h1 h2 => ?_
  by_cases hj : i = j
  · subst hj
    simp [modAt, List.getElem?_eq_getElem h]
  · simp [modAt, hj]

theorem modAt_unit {s : State} {u : Nat} (hu : u < s.tmr.length) (f : TimerUnit → TimerUnit) : modAt s.tmr u f = s.tmr.set u (f (s.unit u)) :=
  modAt_eq_set hu _ f

/-! ### What a step of unit u leaves alone -/

/-- No event bit of TMR_EVENT clears, and unit u's count and the factory's facts stay. -/
structure StepKeeps (u : Nat) (s t : State) : Prop where
  events : ∀ i, bit (s.regN bTIMER 0xC) i = true → bit (t.regN bTIMER 0xC) i = true
  count  : t.tmrN u 8 = s.tmrN u 8
  part   : t.part = s.part

namespace StepKeeps
variable {u : Nat} {s t v : State}

theorem refl (s : State) : StepKeeps u s s := ⟨fun _ h => h, rfl, rfl⟩

theorem trans (h : StepKeeps u s t) (k : StepKeeps u t v) : StepKeeps u s v :=
  ⟨fun i hi => k.events i (h.events i hi), k.count.trans h.count, k.part.trans h.part⟩

theorem ite {p : Prop} [Decidable p] (ht : StepKeeps u s t) (hv : StepKeeps u s v) : StepKeeps u s (if p then t else v) := by
  split
  · exact ht
  · exact hv

theorem foldl {α : Type} {f : State → α → State} {l : List α} (hf : ∀ s, ∀ a ∈ l, StepKeeps u s (f s a)) (s : State) :
    StepKeeps u s (l.foldl f s) := by
  induction l generalizing s with
  | nil => exact .refl s
  | cons a l ih =>
    exact (hf s a List.mem_cons_self).trans (ih (fun s b hb => hf s b (List.mem_cons_of_mem _ hb)) (f s a))

/-- What changes no register. -/
theorem of_regs (hr : t.regs = s.regs) (hp : t.part = s.part) : StepKeeps u s t := by
  have hreg : ∀ b o, t.reg b o = s.reg b o := fun b o => by unfold State.reg; rw [hr, hp]
  exact ⟨fun i hi => by rw [State.regN, hreg]; exact hi, by simp only [State.tmrN, State.regN, hreg], hp⟩

theorem setReg (s : State) {b o : Nat} (he : regKey bTIMER 0xC ≠ regKey b o) (hc : regKey bTIMER (tmrReg u 8) ≠ regKey b o) (w : Word) :
    StepKeeps u s (s.setReg b o w) :=
  ⟨fun i hi => by rw [State.regN, State.reg_setReg_ne _ _ _ _ _ _ he]; exact hi,
    by simp only [State.tmrN, State.regN, State.reg_setReg_ne _ _ _ _ _ _ hc], rfl⟩

theorem timerEvent (s : State) (i : Nat) : StepKeeps u s (s.timerEvent i) := by
  refine ⟨fun j hj => ?_, ?_, rfl⟩
  · rw [State.regN, bit_toNat] at hj ⊢
    unfold State.timerEvent
    rw [State.reg_setReg, setBit, BitVec.getLsbD_or, hj, Bool.true_or]
  · have hkey : regKey bTIMER (tmrReg u 8) ≠ regKey bTIMER 0xC := by unfold regKey tmrReg; omega
    unfold State.timerEvent
    simp only [State.tmrN, State.regN, State.reg_setReg_ne _ _ _ _ _ _ hkey]

/-- A register of the DAC block. -/
theorem setDac (s : State) (hu : u < 4) {o : Nat} (ho : o < 0x10000) (w : Word) : StepKeeps u s (s.setReg bDAC o w) :=
  setReg s (by unfold regKey bTIMER bDAC; omega) (by unfold regKey bTIMER bDAC tmrReg; omega) w

end StepKeeps

section Kept
variable {u : Nat}

theorem setTcl_keeps (s : State) {c r : Nat} (hc : c < 3) (hr : r < 0x20) (hu : u < 4) (w : Word) :
    StepKeeps u s (s.setReg bTIMER (tclReg c r) w) :=
  .setReg s (by unfold regKey tclReg; omega) (by unfold regKey tclReg tmrReg; omega) w

theorem takeHeld_keeps (s : State) {c : Nat} (hc : c < 3) (hu : u < 4) : StepKeeps u s (s.takeHeld c) := by
  have hset : ∀ (t : State) (r : Nat), r < 0x20 → ∀ w, StepKeeps u t (t.setReg bTIMER (tclReg c r) w) := fun t r hr => setTcl_keeps t hc hr hu
  unfold State.takeHeld
  dsimp only
  cases (s.cluster c).heldReload with
  | none =>
    cases (s.cluster c).heldDuty with
    | none => exact .of_regs rfl rfl
    | some y => exact (hset s 8 (by decide) (w32 y)).trans (.of_regs rfl rfl)
  | some x =>
    cases (s.cluster c).heldDuty with
    | none => exact (hset s 4 (by decide) (w32 x)).trans (.of_regs rfl rfl)
    | some y => exact ((hset s 4 (by decide) (w32 x)).trans (hset _ 8 (by decide) (w32 y))).trans (.of_regs rfl rfl)

theorem clusterStep_keeps (s : State) {c : Nat} (hc : c < 3) (hu : u < 4) : StepKeeps u s (s.clusterStep c) := by
  have hset : ∀ (t : State) x, StepKeeps u t (t.setReg bTIMER (tclReg c 0xC) x) := fun t => setTcl_keeps t hc (by decide) hu
  have hturn : ∀ d, StepKeeps u s { s with tcl := modAt s.tcl c fun k => { k with down := d } } := fun d => .of_regs rfl rfl
  have hdown : StepKeeps u s (if s.tclN c 0xC - 1 = 0 then
      ((({ s with tcl := modAt s.tcl c fun k => { k with down := false } } : State).setReg bTIMER (tclReg c 0xC) (w32 0)).timerEvent (24 + c)).takeHeld c
      else ({ s with tcl := modAt s.tcl c fun k => { k with down := true } } : State).setReg bTIMER (tclReg c 0xC) (w32 (s.tclN c 0xC - 1))) :=
    .ite ((((hturn false).trans (hset _ _)).trans (.timerEvent _ _)).trans (takeHeld_keeps _ hc hu)) ((hturn true).trans (hset _ _))
  exact .ite hdown (.ite hdown ((hturn _).trans (hset _ _)))

theorem stepClusters_keeps (s : State) (hu : u < 4) (m : Nat) : StepKeeps u s (s.stepClusters u m) := by
  induction m generalizing s with
  | zero => exact .refl s
  | succ m ih =>
    exact (StepKeeps.foldl (fun t c hc => .ite (clusterStep_keeps t (List.mem_range.1 hc) hu) (.refl t)) s).trans (ih _)

theorem dacTick_keeps (s : State) {d : Nat} (hd : d < 4) (hu : u < 4) (tick : Nat) : StepKeeps u s (s.dacTick d tick) := by
  have hcount : ∀ t : State, StepKeeps u t (t.countReg bDAC (dacReg d 0xC) 16 16 1) :=
    fun t => .setDac t hu (by unfold dacReg; omega) _
  unfold State.dacTick
  dsimp only
  split
  · exact .of_regs rfl rfl
  · exact .of_regs rfl rfl
  · split
    · exact .of_regs rfl rfl
    · refine StepKeeps.trans ?_ (hcount _)
      exact .of_regs rfl rfl
  · exact .of_regs rfl rfl

theorem toDacs_keeps (s : State) (hu : u < 4) (evs : List Nat) : StepKeeps u s (s.toDacs evs) := by
  have hdac : ∀ d < 4, dacReg d 0x1C < 0x10000 := fun d hd => by unfold dacReg; omega
  refine StepKeeps.foldl (fun t ev _ => StepKeeps.foldl (fun v d hd => ?_) t) s
  have hd4 := List.mem_range.1 hd
  refine .ite (.refl v) ?_
  split
  · exact .ite (.setDac v hu (hdac d hd4) _) (dacTick_keeps v hd4 hu _)
  · exact dacTick_keeps v hd4 hu _

end Kept

/-! ### Compares (R540) -/

/-- The step from `old` to `new` does not reach a compare of value `c`. -/
def StepMisses (c old new : Nat) : Prop := ¬ (c + 2 * 2 ^ 32 - old - 1) % 2 ^ 32 < (new + 2 ^ 32 - old) % 2 ^ 32

section Compares
variable {s : State} {u old new : Nat}

theorem judgeStep_misses {k : Nat} (h : StepMisses (s.tmrN u (0x10 + 8 * k)) old new) : s.judgeStep u old new k = (s, false) := if_neg h

/-- A judged compare's state, and its event behind those before it. -/
def noteHit (evs : List Nat) (ev : Nat) (j : State × Bool) : State × List Nat := (j.1, if j.2 then evs ++ [ev] else evs)

theorem noteHit_fst (evs : List Nat) (ev : Nat) (j : State × Bool) : (noteHit evs ev j).1 = j.1 := rfl

/-- One compare judged, its event noted. -/
def State.judged (u old new : Nat) (acc : State × List Nat) (k : Nat) : State × List Nat :=
  noteHit acc.2 (4 * u + k) (acc.1.judgeStep u old new k)

theorem judged_fst (acc : State × List Nat) (k : Nat) : (State.judged u old new acc k).1 = (acc.1.judgeStep u old new k).1 := noteHit_fst ..

theorem judged_misses {ks : List Nat} (h : ∀ k ∈ ks, StepMisses (s.tmrN u (0x10 + 8 * k)) old new) :
    ks.foldl (State.judged u old new) (s, []) = (s, []) := by
  induction ks with
  | nil => rfl
  | cons k ks ih =>
    rw [List.foldl_cons, State.judged, judgeStep_misses (h k List.mem_cons_self)]
    exact ih fun j hj => h j (List.mem_cons_of_mem _ hj)

/-- What the step does to a compare of value `c` and interval `i` that it reaches: the event, the additions, what they overtook (R541, R542). -/
def State.compareHit (s : State) (u old new k c i : Nat) : State :=
  let s := s.timerEvent (4 * u + k)
  if i = 0 then s
  else
    let r := advance old new i 1000 c
    let s := s.setReg bTIMER (tmrReg u (0x10 + 8 * k)) (w32 r.1)
    if 1 < r.2 then s.countReg bTIMER (tmrReg u 0x30) 16 16 (r.2 - 1) else s

theorem judgeStep_hits {k : Nat} (h : ¬ StepMisses (s.tmrN u (0x10 + 8 * k)) old new) :
    s.judgeStep u old new k = (s.compareHit u old new k (s.tmrN u (0x10 + 8 * k)) (s.tmrN u (0x14 + 8 * k)), true) := by
  unfold State.judgeStep State.compareHit
  refine (if_pos (Decidable.not_not.1 h)).trans ?_
  split <;> rfl

variable {k : Nat} (hu : u < 4) (hk : k < 4)
include hu hk

omit hu in
theorem compareHit_after (s : State) (c i : Nat) : StepKeeps u (s.timerEvent (4 * u + k)) (s.compareHit u old new k c i) := by
  have hcompare : ∀ (t : State) w, StepKeeps u t (t.setReg bTIMER (tmrReg u (0x10 + 8 * k)) w) :=
    fun t => .setReg t (by unfold regKey tmrReg; omega) (by unfold regKey tmrReg; omega)
  have hcount : ∀ (t : State) n, StepKeeps u t (t.countReg bTIMER (tmrReg u 0x30) 16 16 n) :=
    fun t n => .setReg t (by unfold regKey tmrReg; omega) (by unfold regKey tmrReg; omega) _
  exact .ite (.refl _) (.ite ((hcompare _ _).trans (hcount _ _)) (hcompare _ _))

omit hu in
theorem judgeStep_keeps (s : State) : StepKeeps u s (s.judgeStep u old new k).1 := by
  by_cases h : StepMisses (s.tmrN u (0x10 + 8 * k)) old new
  · rw [judgeStep_misses h]
    exact .refl s
  · rw [judgeStep_hits h]
    exact (StepKeeps.timerEvent s _).trans (compareHit_after hk s _ _)

/-- A compare that the step reaches raises its event. -/
theorem judgeStep_event (h : ¬ StepMisses (s.tmrN u (0x10 + 8 * k)) old new) :
    bit ((s.judgeStep u old new k).1.regN bTIMER 0xC) (4 * u + k) = true := by
  rw [judgeStep_hits h]
  refine (compareHit_after hk s _ _).events _ ?_
  rw [State.regN, bit_toNat, State.timerEvent, State.reg_setReg, setBit_getLsbD _ _ _ (by omega)]
  simp

omit hu hk in
/-- Judging one compare leaves the others. -/
theorem judgeStep_compare (s : State) {j : Nat} (hj : j < 4) (h : j ≠ k) :
    (s.judgeStep u old new k).1.tmrN u (0x10 + 8 * j) = s.tmrN u (0x10 + 8 * j) := by
  have hset : ∀ (t : State) {o : Nat} w, regKey bTIMER (tmrReg u (0x10 + 8 * j)) ≠ regKey bTIMER o →
      (t.setReg bTIMER o w).tmrN u (0x10 + 8 * j) = t.tmrN u (0x10 + 8 * j) :=
    fun t o w hne => congrArg BitVec.toNat (State.reg_setReg_ne t _ _ _ _ w hne)
  by_cases hmiss : StepMisses (s.tmrN u (0x10 + 8 * k)) old new
  · rw [judgeStep_misses hmiss]
  · have hevent : (s.timerEvent (4 * u + k)).tmrN u (0x10 + 8 * j) = s.tmrN u (0x10 + 8 * j) := hset s _ (by unfold regKey tmrReg; omega)
    rw [judgeStep_hits hmiss]
    unfold State.compareHit
    dsimp only
    split
    · exact hevent
    · split
      · exact (hset _ _ (by unfold regKey tmrReg; omega)).trans ((hset _ _ (by unfold regKey tmrReg; omega)).trans hevent)
      · exact (hset _ _ (by unfold regKey tmrReg; omega)).trans hevent

omit hu hk in
theorem judged_keeps {ks : List Nat} (hks : ∀ k ∈ ks, k < 4) (acc : State × List Nat) :
    StepKeeps u acc.1 (ks.foldl (State.judged u old new) acc).1 := by
  induction ks generalizing acc with
  | nil => exact .refl _
  | cons k ks ih =>
    rw [List.foldl_cons]
    refine StepKeeps.trans ?_ (ih (fun j hj => hks j (List.mem_cons_of_mem _ hj)) (State.judged u old new acc k))
    rw [judged_fst]
    exact judgeStep_keeps (hks k List.mem_cons_self) acc.1

omit hk in
theorem judged_event {ks : List Nat} (hks : ∀ k ∈ ks, k < 4) (hk : k ∈ ks) (acc : State × List Nat)
    (h : ¬ StepMisses (acc.1.tmrN u (0x10 + 8 * k)) old new) :
    bit ((ks.foldl (State.judged u old new) acc).1.regN bTIMER 0xC) (4 * u + k) = true := by
  induction ks generalizing acc with
  | nil => cases hk
  | cons j ks ih =>
    have hj4 := hks j List.mem_cons_self
    have hks' : ∀ i ∈ ks, i < 4 := fun i hi => hks i (List.mem_cons_of_mem _ hi)
    rw [List.foldl_cons]
    by_cases hjk : k = j
    · subst hjk
      refine (judged_keeps hks' (State.judged u old new acc k)).events _ ?_
      rw [judged_fst]
      exact judgeStep_event hu hj4 h
    · refine ih hks' ((List.mem_cons.1 hk).resolve_left hjk) (State.judged u old new acc j) ?_
      rwa [judged_fst, judgeStep_compare acc.1 (hks k hk) hjk]

end Compares

theorem stepMisses_one {c old : Nat} (hc : c < 2 ^ 32) (hold : old < 2 ^ 32) : StepMisses c old ((old + 1) % 2 ^ 32) ↔ c ≠ (old + 1) % 2 ^ 32 := by
  unfold StepMisses
  omega

/-! ### A unit's step -/

section Unit
variable {s : State} {u : Nat}

/-- No cluster counts the steps of unit u. -/
def State.uncounted (s : State) (u : Nat) : Prop := ∀ c < 3, ¬ (bit (s.tclN c 0) 0 = true ∧ bits (s.tclN c 0) 1 2 = u)

theorem stepClusters_uncounted (h : s.uncounted u) (m : Nat) : s.stepClusters u m = s := by
  induction m with
  | zero => rfl
  | succ m ih =>
    have hfold : ∀ cs : List Nat, (∀ c ∈ cs, c < 3) →
        cs.foldl (fun (s : State) c => if bit (s.tclN c 0) 0 && bits (s.tclN c 0) 1 2 == u then s.clusterStep c else s) s = s := by
      intro cs hcs
      induction cs with
      | nil => rfl
      | cons c cs ihc =>
        have hskip := h c (hcs c List.mem_cons_self)
        rw [List.foldl_cons, if_neg (by simpa using hskip)]
        exact ihc fun d hd => hcs d (List.mem_cons_of_mem _ hd)
    rw [State.stepClusters, hfold _ fun c hc => List.mem_range.1 hc]
    exact ih

/-- A step of an enabled unit: its compares judged, its count, its clusters. -/
theorem unitStep_eq {m : Nat} (hm : m ≠ 0) (hen : bit (s.tmrN u 0) 0 = true) :
    s.unitStep u m =
      let j := (List.range 4).foldl (State.judged u (s.tmrN u 8) ((s.tmrN u 8 + m) % 2 ^ 32)) (s, [])
      ((j.1.setReg bTIMER (tmrReg u 8) (w32 ((s.tmrN u 8 + m) % 2 ^ 32))).stepClusters u m, j.2) := by
  unfold State.unitStep
  exact if_neg (by simp [hm, hen])

/-- Without a match and without a cluster the count alone changes. -/
theorem unitStep_quiet {m : Nat} (hm : m ≠ 0) (hen : bit (s.tmrN u 0) 0 = true)
    (hmiss : ∀ k < 4, StepMisses (s.tmrN u (0x10 + 8 * k)) (s.tmrN u 8) ((s.tmrN u 8 + m) % 2 ^ 32)) (hfree : s.uncounted u) :
    s.unitStep u m = (s.setReg bTIMER (tmrReg u 8) (w32 ((s.tmrN u 8 + m) % 2 ^ 32)), []) := by
  have hfree' : (s.setReg bTIMER (tmrReg u 8) (w32 ((s.tmrN u 8 + m) % 2 ^ 32))).uncounted u := by
    intro c hc
    have hctrl : (s.setReg bTIMER (tmrReg u 8) (w32 ((s.tmrN u 8 + m) % 2 ^ 32))).tclN c 0 = s.tclN c 0 :=
      congrArg BitVec.toNat (State.reg_setReg_ne s _ _ _ _ _ (by unfold regKey tmrReg tclReg; omega))
    rw [hctrl]
    exact hfree c hc
  rw [unitStep_eq hm hen, judged_misses fun k hk => hmiss k (List.mem_range.1 hk)]
  dsimp only
  rw [stepClusters_uncounted hfree']

/-- A compare that a unit's step reaches has its event, and the count is the new one. -/
theorem unitStep_event {m k : Nat} (hm : m ≠ 0) (hen : bit (s.tmrN u 0) 0 = true) (hu : u < 4) (hk : k < 4)
    (hhit : ¬ StepMisses (s.tmrN u (0x10 + 8 * k)) (s.tmrN u 8) ((s.tmrN u 8 + m) % 2 ^ 32)) :
    (s.unitStep u m).1.tmrN u 8 = (s.tmrN u 8 + m) % 2 ^ 32 ∧ bit ((s.unitStep u m).1.regN bTIMER 0xC) (4 * u + k) = true
      ∧ (s.unitStep u m).1.part = s.part := by
  rw [unitStep_eq hm hen]
  dsimp only
  generalize hj : (List.range 4).foldl (State.judged u (s.tmrN u 8) ((s.tmrN u 8 + m) % 2 ^ 32)) (s, []) = j
  have hevent : bit (j.1.regN bTIMER 0xC) (4 * u + k) = true := by
    rw [← hj]
    exact judged_event hu (fun i hi => List.mem_range.1 hi) (List.mem_range.2 hk) (s, []) hhit
  have hkept := stepClusters_keeps (j.1.setReg bTIMER (tmrReg u 8) (w32 ((s.tmrN u 8 + m) % 2 ^ 32))) hu m
  have hjudged := judged_keeps (u := u) (old := s.tmrN u 8) (new := (s.tmrN u 8 + m) % 2 ^ 32) (fun i hi => List.mem_range.1 hi) (s, [])
  rw [hj] at hjudged
  refine ⟨hkept.count.trans ?_, hkept.events _ ?_, (hkept.part.trans (State.setReg_part ..)).trans hjudged.part⟩
  · rw [State.tmrN, State.regN, State.reg_setReg]
    exact Nat.mod_eq_of_lt (Nat.mod_lt _ (by decide))
  · rw [State.regN, State.reg_setReg_ne _ _ _ _ _ _ (by unfold regKey tmrReg; omega)]
    exact hevent

end Unit

theorem regN_lt (s : State) (b o : Nat) : s.regN b o < 2 ^ 32 := (s.reg b o).isLt

/-! ### The prescaler (R537) -/

section Prescaler
variable {s : State} {u : Nat}

theorem unitInc_pos (s : State) (u : Nat) : 0 < s.unitInc u := by
  unfold State.unitInc
  dsimp only
  split
  · decide
  · omega

theorem unitInc_le (s : State) (u : Nat) : s.unitInc u ≤ 2 ^ 32 := by
  unfold State.unitInc
  dsimp only
  split
  · exact Nat.le_refl _
  · exact Nat.le_of_lt (regN_lt s _ _)

/-- The edges up to the next carry carry once. -/
theorem edgesToCarry_carries (hphase : (s.unit u).phase < 2 ^ 32) : ((s.unit u).phase + s.edgesToCarry u * s.unitInc u) / 2 ^ 32 = 1 := by
  have hpos := unitInc_pos s u
  have hle := unitInc_le s u
  unfold State.edgesToCarry
  generalize s.unitInc u = i at *
  generalize (s.unit u).phase = p at *
  have hlo := Nat.lt_div_mul_add hpos (a := 2 ^ 32 - p + i - 1)
  have hhi := Nat.div_mul_le_self (2 ^ 32 - p + i - 1) i
  omega

theorem prescale_on (hen : bit (s.tmrN u 0) 0 = true) (hu : u < s.tmr.length) (edges : Nat) :
    s.prescale u edges =
      ({ s with tmr := s.tmr.set u { s.unit u with phase := ((s.unit u).phase + edges * s.unitInc u) % 2 ^ 32 } },
        ((s.unit u).phase + edges * s.unitInc u) / 2 ^ 32) := by
  unfold State.prescale
  rw [if_pos hen]
  dsimp only
  rw [modAt_unit hu]

theorem feedUnit_off (hen : bit (s.tmrN u 0) 0 = false) (edges : Nat) : s.feedUnit u edges = s := by
  have hnone : s.prescale u edges = (s, 0) := if_neg (by simp [hen])
  unfold State.feedUnit
  rw [hnone]
  rfl

end Prescaler

theorem timerStep : Says.TimerStep := by
  intro s u hu hruns hen hsource hlen hphase new free phase
  let w : State := { s with tmr := s.tmr.set u { s.unit u with phase := phase } }
  have hfeed : exec (.timerStep u) s = s.done (w.stepUnit u 1) := by
    have hguard : (!s.timersRun || decide (3 < u) || decide (3 < bits (s.tmrN u 0) 1 3)) = false := by simp [hruns]; omega
    rw [exec_timerStep, execTimerStep, hguard, if_neg (by decide), State.feedUnit, prescale_on hen (hlen ▸ hu), edgesToCarry_carries hphase]
  refine ⟨fun hmiss hfree => ?_, fun k hk hreach => ?_⟩
  · have hquiet := unitStep_quiet (s := w) (m := 1) (by decide) hen
      (fun k hk => (stepMisses_one (regN_lt s _ _) (regN_lt s _ _)).2 (hmiss k hk)) hfree
    rw [hfeed, State.stepUnit, hquiet]
    exact done_same _ _ rfl rfl
  · have hhit : ¬ StepMisses (w.tmrN u (0x10 + 8 * k)) (w.tmrN u 8) ((w.tmrN u 8 + 1) % 2 ^ 32) :=
      fun h => (stepMisses_one (regN_lt s _ _) (regN_lt s _ _)).1 h hreach
    obtain ⟨hcount, hevent, hpart⟩ := unitStep_event (s := w) (by decide) hen hu hk hhit
    have hdacs : StepKeeps u (w.unitStep u 1).1 (w.stepUnit u 1) := toDacs_keeps _ hu _
    have hkept : StepKeeps u (w.unitStep u 1).1 { w.stepUnit u 1 with pending := s.pending, part := s.part } :=
      hdacs.trans (.of_regs rfl (hdacs.part.trans hpart).symm)
    exact ⟨_, hfeed, hkept.count.trans hcount, hkept.events _ hevent⟩

/-! ### Captures (R544, R545) -/

section Captures
variable {s : State} {u : Nat} {rising : Bool}

theorem captureOn_iff (hruns : s.timersRun = true) (hu : u < 4) :
    s.captureOn u rising = true ↔
      bits (s.tmrN u 0) 6 2 = 2 ∨ bits (s.tmrN u 0) 6 2 = 0 ∧ rising = true ∨ bits (s.tmrN u 0) 6 2 = 1 ∧ rising = false := by
  have hcode : bits (s.tmrN u 0) 6 2 < 4 := Nat.mod_lt _ (by decide)
  unfold State.captureOn
  rw [hruns, decide_eq_true hu]
  generalize bits (s.tmrN u 0) 6 2 = e at *
  interval_cases e <;> simp

theorem captureOn_lt (h : s.captureOn u rising = true) : u < 4 := by
  unfold State.captureOn at h
  simp only [Bool.and_eq_true, decide_eq_true_eq] at h
  exact h.1.2

theorem captureFeed_none {t : State} (h : bits (t.tmrN u 0) 1 3 ≠ 4) : t.captureFeed u = t := if_neg h

/-- The registers that a capture leaves. -/
theorem captureNow_regs (hu : u < 4) (late : Nat) :
    (s.captureNow u late).reg bTIMER (tmrReg u 0xC) = s.reg bTIMER (tmrReg u 8) - w32 late
      ∧ bit ((s.captureNow u late).regN bTIMER 0xC) (16 + u) = true
      ∧ bit ((s.captureNow u late).regN bTIMER 0xC) (20 + u) = (bit (s.regN bTIMER 0xC) (20 + u) || bit (s.regN bTIMER 0xC) (16 + u))
      ∧ (s.captureNow u late).tmrN u 0 = s.tmrN u 0 := by
  have hcapture : regKey bTIMER (tmrReg u 0xC) ≠ regKey bTIMER 0xC := by unfold regKey tmrReg; omega
  have hctrl : regKey bTIMER (tmrReg u 0) ≠ regKey bTIMER 0xC := by unfold regKey tmrReg; omega
  have hself : regKey bTIMER (tmrReg u 0) ≠ regKey bTIMER (tmrReg u 0xC) := by unfold regKey tmrReg; omega
  have hreg : ∀ b o, (s.captureNow u late).reg b o
      = (let t := (s.setReg bTIMER (tmrReg u 0xC) (s.reg bTIMER (tmrReg u 8) - w32 late)).timerEvent (16 + u)
         if bit (s.regN bTIMER 0xC) (16 + u) then t.timerEvent (20 + u) else t).reg b o := by
    intro b o
    unfold State.captureNow
    cases bit (s.regN bTIMER 0xC) (16 + u) <;> rfl
  have hevents : ∀ i, i < 32 → bit ((s.captureNow u late).regN bTIMER 0xC) i
      = (bit (s.regN bTIMER 0xC) i || decide (i = 16 + u) || (bit (s.regN bTIMER 0xC) (16 + u) && decide (i = 20 + u))) := by
    intro i hi
    rw [State.regN, hreg, bit_toNat, State.regN, bit_toNat, bit_toNat]
    dsimp only
    split
    · next h =>
      simp only [State.timerEvent, State.reg_setReg, State.reg_setReg_ne _ _ _ _ _ _ hcapture.symm, setBit_getLsbD _ _ _ (by omega : 16 + u < 32),
        setBit_getLsbD _ _ _ (by omega : 20 + u < 32), h, Bool.true_and]
    · next h =>
      simp only [State.timerEvent, State.reg_setReg, State.reg_setReg_ne _ _ _ _ _ _ hcapture.symm, setBit_getLsbD _ _ _ (by omega : 16 + u < 32),
        Bool.eq_false_iff.2 h, Bool.false_and, Bool.or_false]
  refine ⟨?_, ?_, ?_, congrArg BitVec.toNat ?_⟩
  · rw [hreg]
    dsimp only
    split <;> simp only [State.timerEvent, State.reg_setReg_ne _ _ _ _ _ _ hcapture, State.reg_setReg]
  · rw [hevents _ (by omega)]
    simp
  · rw [hevents _ (by omega)]
    simp
  · rw [hreg]
    dsimp only
    split <;> simp only [State.timerEvent, State.reg_setReg_ne _ _ _ _ _ _ hctrl, State.reg_setReg_ne _ _ _ _ _ _ hself]

theorem captureNow_eq (hu : u < s.tmr.length) (late : Nat) :
    s.captureNow u late = { s with regs := (s.captureNow u late).regs, tmr := s.tmr.set u { s.unit u with edges := 0 } } := by
  rw [← modAt_unit hu fun x => { x with edges := 0 }]
  unfold State.captureNow
  dsimp only
  cases bit (s.regN bTIMER 0xC) (16 + u) <;> rfl

end Captures

theorem timerCaptures : Says.TimerCaptures := by
  intro s u late rising hsource hlen div
  refine ⟨fun hruns hu => captureOn_iff hruns hu, fun hoff => ⟨?_, ?_⟩, fun hon => ⟨fun hedges => ?_, fun hedges hlate => ?_, fun hedges => ?_⟩⟩
  · rw [exec_captureInputEdge, execCaptureInputEdge, if_pos (by simp [hoff])]
    exact done_same s s rfl rfl
  · rw [exec_timerCapture, execTimerCapture, if_pos (by simp [hoff])]
    exact done_same s s rfl rfl
  · have hu : u < s.tmr.length := hlen ▸ captureOn_lt hon
    rw [exec_captureInputEdge, execCaptureInputEdge, if_neg (by simpa [hon] using hedges), captureFeed_none (by exact hsource), modAt_unit hu]
    exact done_same _ _ rfl rfl
  · have hu := captureOn_lt hon
    obtain ⟨hcap, hevent, hover, hctrl⟩ := captureNow_regs (s := s) hu late
    have heq := captureNow_eq (s := s) (hlen ▸ hu) late
    refine ⟨s.captureNow u late, ?_, hcap, hevent, hover, heq⟩
    rw [exec_timerCapture, execTimerCapture, if_neg (by simp [hon]; omega), captureFeed_none (by rwa [hctrl]), heq]
    exact done_same _ _ rfl rfl
  · rw [exec_timerCapture, execTimerCapture, if_pos (by simp [hon, show (s.unit u).edges < bits (s.tmrN u 0) 16 8 from hedges])]
    exact done_same s s rfl rfl

/-! ### The standby tick (R538) -/

/-- A unit that is off takes no part in an LF tick. -/
theorem lfUnit_off {s : State} {u : Nat} (hen : bit (s.tmrN u 0) 0 = false) (t0 : Nat) : s.lfUnit t0 u = s := by
  unfold State.lfUnit
  split
  · exact feedUnit_off hen _
  · exact feedUnit_off hen _
  · exact feedUnit_off hen _
  · rfl

/-- Units that are off leave the rest of an LF tick as it is. -/
theorem lfUnits_off {s : State} {t0 : Nat} {us : List Nat} (h : ∀ u ∈ us, bit (s.tmrN u 0) 0 = false) :
    us.foldl (fun (t : State) u => t.lfUnit t0 u) s = s := by
  induction us with
  | nil => rfl
  | cons u us ih =>
    rw [List.foldl_cons, lfUnit_off (h u List.mem_cons_self)]
    exact ih fun v hv => h v (List.mem_cons_of_mem _ hv)

/-- Unit 0 on ticks with the whole increment counts 750, where no compare lies within them and no cluster runs. -/
theorem lfUnit_ticks {s : State} (hlen : s.tmr.length = 4) (hen : bit (s.tmrN 0 0) 0 = true) (hsource : bits (s.tmrN 0 0) 1 3 = 0)
    (hinc : s.tmrN 0 4 = 0) (hphase : (s.unit 0).phase = 0)
    (hfar : ∀ k < 4, (s.tmrN 0 (0x10 + 8 * k) + 2 ^ 32 - s.tmrN 0 8 - 1) % 2 ^ 32 ≥ 750) (hfree : ∀ c < 3, bit (s.tclN c 0) 0 = false) (t0 : Nat) :
    ∃ tmr, s.lfUnit t0 0 = ({ s with tmr := tmr } : State).setReg bTIMER (tmrReg 0 8) (w32 ((s.tmrN 0 8 + 750) % 2 ^ 32)) := by
  have hfeed : s.lfUnit t0 0 = s.feedUnit 0 750 := by
    unfold State.lfUnit
    simp only [hsource]
  have hunit : s.unitInc 0 = 2 ^ 32 := if_pos hinc
  have hcarries : ((s.unit 0).phase + 750 * s.unitInc 0) / 2 ^ 32 = 750 := by
    rw [hphase, hunit]
    decide
  let w : State := { s with tmr := s.tmr.set 0 { s.unit 0 with phase := ((s.unit 0).phase + 750 * s.unitInc 0) % 2 ^ 32 } }
  have hquiet : w.unitStep 0 750 = (w.setReg bTIMER (tmrReg 0 8) (w32 ((w.tmrN 0 8 + 750) % 2 ^ 32)), []) := by
    refine unitStep_quiet (by decide) hen (fun k hk => ?_) fun c hc h => ?_
    · have hold : s.tmrN 0 8 < 2 ^ 32 := regN_lt s _ _
      have hk' := hfar k hk
      show StepMisses (s.tmrN 0 (0x10 + 8 * k)) (s.tmrN 0 8) ((s.tmrN 0 8 + 750) % 2 ^ 32)
      unfold StepMisses
      generalize s.tmrN 0 8 = old at *
      generalize s.tmrN 0 (0x10 + 8 * k) = c at *
      omega
    · exact absurd (h.1.symm.trans (hfree c hc)) (by decide)
  refine ⟨w.tmr, ?_⟩
  rw [hfeed, State.feedUnit, prescale_on hen (by omega), hcarries, State.stepUnit]
  dsimp only
  rw [hquiet]
  rfl

theorem standbyTick : Says.StandbyTick := by
  intro s
  refine ⟨fun h => ?_, fun hphase hoff => ?_, fun hphase hlen hoff hen hsource hinc hunit hfar hfree => ?_⟩
  · rw [exec_standbyLfTick, execStandbyLfTick, if_pos (by simpa using h)]
    exact done_same s s rfl rfl
  · rw [exec_standbyLfTick, execStandbyLfTick, if_neg (by simp [hphase]),
      lfUnits_off (s := { s with time := s.time + 750 }) fun u hu => hoff u (List.mem_range.1 hu)]
    exact done_same _ _ rfl rfl
  · let s' : State := { s with time := s.time + 750 }
    obtain ⟨tmr, hzero⟩ := lfUnit_ticks (s := s') hlen hen hsource hinc hunit hfar hfree s.time
    let w : State := ({ s' with tmr := tmr } : State).setReg bTIMER (tmrReg 0 8) (w32 ((s.tmrN 0 8 + 750) % 2 ^ 32))
    have hrest : [1, 2, 3].foldl (fun (t : State) u => t.lfUnit s.time u) w = w := by
      refine lfUnits_off fun u hu => ?_
      have hu' : 1 ≤ u ∧ u < 4 := by
        simp only [List.mem_cons, List.not_mem_nil, or_false] at hu
        omega
      have hctrl : w.tmrN u 0 = s.tmrN u 0 := congrArg BitVec.toNat (State.reg_setReg_ne _ _ _ _ _ _ (by unfold regKey tmrReg; omega))
      rw [hctrl]
      exact hoff u hu'.1 hu'.2
    have hall : (List.range 4).foldl (fun (t : State) u => t.lfUnit s.time u) s' = w := by
      rw [show List.range 4 = 0 :: [1, 2, 3] from rfl, List.foldl_cons, hzero]
      exact hrest
    refine ⟨w, ?_, rfl, ?_⟩
    · rw [exec_standbyLfTick, execStandbyLfTick, if_neg (by simp [hphase]), hall]
      exact done_same _ _ rfl rfl
    · rw [State.tmrN, State.regN, State.reg_setReg]
      exact Nat.mod_eq_of_lt (Nat.mod_lt _ (by decide))

/-- Settles O48: a unit's step, its captures, and the tick in standby. -/
theorem timerUnits : Obligations.TimerUnits := ⟨timerStep, timerCaptures, standbyTick⟩

end Sys2Proof.Machine
end

section
/-! Times over the chain link: a neighbour's time taken in ALIGN (R594), and global starts let go (R551, R552, R597). -/
namespace Sys2Proof.Machine

/-! ### CHAIN_STAT (R593) -/

section Link
variable (s : State)

theorem setLink_field {lo n : Nat} (h : lo + n ≤ 32) (x : Nat) : bits ((s.setLink lo n x).regN bCHAIN 0x30) lo n = x % 2 ^ n := by
  rw [State.regN, State.setLink, State.reg_setReg, bits_setField _ _ _ _ h]

theorem setLink_apart {lo n lo' n' : Nat} (x : Nat) (h : lo' + n' ≤ lo ∨ lo + n ≤ lo') (hw : lo' + n' ≤ 32) :
    bits ((s.setLink lo n x).regN bCHAIN 0x30) lo' n' = bits (s.regN bCHAIN 0x30) lo' n' := by
  rw [State.regN, State.setLink, State.reg_setReg, bits_setField_apart _ _ h hw]
  rfl

variable {s}

/-- A later entry to RUN changes the state of the link alone (R592). -/
theorem enterRun_again (h : s.chain.enteredRun = true) : s.enterRun = s.setLink 0 3 4 := by
  unfold State.enterRun
  exact if_pos h

/-- CHAIN_STAT after the first entry to RUN: the state, root or not, hops and N - 1. -/
def State.runLinked (s : State) : State :=
  (((s.setLink 0 3 4).setLink 3 1 (b2n (s.offer.id == ownId s))).setLink 4 2 (s.offer.hops % 4)).setLink 6 2 (s.offer.n % 4)

theorem runLinked_regs (s : State) : s.runLinked = { s with regs := s.runLinked.regs } := rfl

/-- The first entry to RUN fixes root, position and N (R592). -/
theorem enterRun_first (h : s.chain.enteredRun = false) :
    s.enterRun = { s.runLinked with chain.rootId := s.offer.id, chain.ringN := s.offer.n % 4, chain.enteredRun := true } := by
  unfold State.enterRun
  exact if_neg (by simp [State.setLink, h])

theorem runLinked_state (s : State) : s.runLinked.linkState = 4 := by
  rw [State.linkState, State.runLinked, setLink_apart _ _ (.inl (by decide)) (by decide), setLink_apart _ _ (.inl (by decide)) (by decide),
    setLink_apart _ _ (.inl (by decide)) (by decide), setLink_field _ (by decide)]
  decide

theorem runLinked_hops (s : State) : bits (s.runLinked.regN bCHAIN 0x30) 4 2 = s.offer.hops % 4 := by
  rw [State.runLinked, setLink_apart _ _ (.inl (by decide)) (by decide), setLink_field _ (by decide)]
  exact Nat.mod_mod _ 4

theorem runLinked_n (s : State) : bits (s.runLinked.regN bCHAIN 0x30) 6 2 = s.offer.n % 4 := by
  rw [State.runLinked, setLink_field _ (by decide)]
  exact Nat.mod_mod _ 4

/-- An entry to RUN changes CHAIN_STAT and what the first one fixes. -/
theorem enterRun_eq (s : State) :
    ∃ regs id n, s.enterRun = { s with regs := regs, chain.rootId := id, chain.ringN := n, chain.enteredRun := true } := by
  cases h : s.chain.enteredRun with
  | true =>
    have hset : s.setLink 0 3 4 = { s with regs := (s.setLink 0 3 4).regs } := rfl
    rw [enterRun_again h, hset]
    exact ⟨_, s.chain.rootId, s.chain.ringN, by rw [← h]⟩
  | false =>
    rw [enterRun_first h, runLinked_regs]
    exact ⟨_, _, _, rfl⟩

theorem enterRun_linkState (s : State) : s.enterRun.linkState = 4 := by
  cases h : s.chain.enteredRun with
  | true =>
    rw [enterRun_again h]
    exact setLink_field s (by decide) 4
  | false =>
    rw [enterRun_first h]
    exact runLinked_state s

theorem enterRun_position (h : s.chain.enteredRun = false) :
    bits (s.enterRun.regN bCHAIN 0x30) 4 2 = s.offer.hops % 4 ∧ bits (s.enterRun.regN bCHAIN 0x30) 6 2 = s.offer.n % 4 := by
  rw [enterRun_first h]
  exact ⟨runLinked_hops s, runLinked_n s⟩

end Link

/-! ### ALIGN_ADOPT (R594) -/

/-- The device time that the last received frame carries. -/
def State.rxTime (s : State) : Nat := (nthW s.chain.rxWords 1).toNat + (nthW s.chain.rxWords 2).toNat * 2 ^ 32

/-- The offer stands on the own ID, what was heard, and what is known of the ring (R591). -/
theorem offer_congr {s t : State} (hid : t.pwr.shadow = s.pwr.shadow) (hheard : t.chain.heard = s.chain.heard)
    (hn : t.chain.ringN = s.chain.ringN) (hrun : t.chain.enteredRun = s.chain.enteredRun) : t.offer = s.offer := by
  unfold State.offer ownId
  rw [hid, hheard, hn, hrun]

/-- The state that enters RUN: device time is the neighbour's, what waited for a time has moved with it. -/
theorem alignAdopt_eq (s : State) :
    ∃ v : State, s.alignAdopt = v.enterRun ∧ v.time = s.rxTime ∧ v.lastBlock = blockOf s.rxTime
      ∧ v.chain = { s.chain with
          hold := []
          starts := []
          realign := true
          txFrame := frameOf s.rxTime - 1
          rxFrame := frameOf s.rxTime - 1 }
      ∧ v.pwr.shadow = s.pwr.shadow ∧ v.host.mailbox = s.host.mailbox ∧ v.store.flash = s.store.flash ∧ v.mem = s.mem
      ∧ v.mash.voices = s.mash.voices ∧ v.pending = s.pending ∧ v.part = s.part :=
  ⟨_, rfl, rfl, rfl, rfl, rfl, rfl, rfl, rfl, rfl, rfl, rfl⟩

theorem alignAdopt_taken {s : State} (h : s.mayAdopt = true) :
    ∃ t, exec .alignAdopt s = .next t ∧ t.time = s.rxTime ∧ t.lastBlock = s.rxTime / 4096 ∧ t.linkState = 4 ∧ t.chain.enteredRun = true
      ∧ t.chain.txFrame = s.rxTime / 256 - 1 ∧ t.chain.rxFrame = s.rxTime / 256 - 1 ∧ t.chain.realign = true
      ∧ t.host.mailbox = s.host.mailbox ∧ t.store.flash = s.store.flash ∧ t.mem = s.mem ∧ t.mash.voices = s.mash.voices
      ∧ (s.chain.enteredRun = false → t.chain.rootId = s.offer.id ∧ t.chain.ringN = s.offer.n % 4
          ∧ bits (t.regN bCHAIN 0x30) 4 2 = s.offer.hops % 4 ∧ bits (t.regN bCHAIN 0x30) 6 2 = s.offer.n % 4) := by
  obtain ⟨v, hadopt, htime, hblock, hchain, hid, hmail, hflash, hmem, hvoices, hpending, hpart⟩ := alignAdopt_eq s
  have hrun : v.chain.enteredRun = s.chain.enteredRun := by rw [hchain]
  have hoffer : v.offer = s.offer := offer_congr hid (by rw [hchain]) (by rw [hchain]) hrun
  have hexec : exec .alignAdopt s = .next v.enterRun := by
    obtain ⟨regs, id, n, hv⟩ := enterRun_eq v
    rw [exec_alignAdopt, execAlignAdopt, if_pos h, hadopt]
    refine done_same _ _ ?_ ?_
    all_goals rw [hv]
    · exact hpending
    · exact hpart
  have hlink := enterRun_linkState v
  have hfirst : s.chain.enteredRun = false → v.enterRun.chain.rootId = s.offer.id ∧ v.enterRun.chain.ringN = s.offer.n % 4
      ∧ bits (v.enterRun.regN bCHAIN 0x30) 4 2 = s.offer.hops % 4 ∧ bits (v.enterRun.regN bCHAIN 0x30) 6 2 = s.offer.n % 4 := by
    intro hnew
    have hnew' : v.chain.enteredRun = false := hrun.trans hnew
    rw [← hoffer]
    exact ⟨by rw [enterRun_first hnew'], by rw [enterRun_first hnew'], enterRun_position hnew'⟩
  refine ⟨v.enterRun, hexec, ?_, ?_, hlink, ?_, ?_, ?_, ?_, ?_, ?_, ?_, ?_, hfirst⟩
  all_goals
    obtain ⟨regs, id, n, hv⟩ := enterRun_eq v
    rw [hv]
  · exact htime
  · exact hblock
  · exact congrArg Chain.txFrame hchain
  · exact congrArg Chain.rxFrame hchain
  · exact congrArg Chain.realign hchain
  · exact hmail
  · exact hflash
  · exact hmem
  · exact hvoices

/-! ### GLOBAL_START_RELEASE (R551, R552, R597) -/

/-- What each step of a fold keeps, the fold keeps. -/
theorem foldl_kept {σ ι α : Type} {f : σ → ι → σ} {obs : σ → α} {l : List ι} (h : ∀ s, ∀ a ∈ l, obs (f s a) = obs s) (s : σ) :
    obs (l.foldl f s) = obs s := by
  induction l generalizing s with
  | nil => rfl
  | cons a l ih => exact (ih (fun t b hb => h t b (List.mem_cons_of_mem _ hb)) (f s a)).trans (h s a List.mem_cons_self)

/-- What only step `k` of a fold changes is what that step makes of it. -/
theorem foldl_once {σ ι α : Type} {f : σ → ι → σ} {obs : σ → α} {l : List ι} {k : ι} (hk : k ∈ l) (hnd : l.Nodup)
    (h : ∀ s a, a ≠ k → obs (f s a) = obs s) (s : σ) : ∃ t, obs t = obs s ∧ obs (l.foldl f s) = obs (f t k) := by
  induction l generalizing s with
  | nil => cases hk
  | cons a l ih =>
    obtain ⟨hout, hnd⟩ := List.nodup_cons.1 hnd
    by_cases hak : a = k
    · subst hak
      exact ⟨s, rfl, foldl_kept (fun t b hb => h t b (fun hba => hout (hba ▸ hb))) (f s a)⟩
    · obtain ⟨t, ht, hfold⟩ := ih ((List.mem_cons.1 hk).resolve_left (Ne.symm hak)) hnd (f s a)
      exact ⟨t, ht.trans (h s a hak), hfold⟩

/-- Unit k as a release shows it: its control register and its own state. -/
def State.unitView (k : Nat) (s : State) : Word × TimerUnit × Nat := (s.reg bTIMER (tmrReg k 0), s.unit k, s.tmr.length)

/-- Cluster c as a release shows it: its control and count registers and its own state. -/
def State.clusterView (c : Nat) (s : State) : Word × Word × TimerCluster × Nat :=
  (s.reg bTIMER (tclReg c 0), s.reg bTIMER (tclReg c 0xC), s.cluster c, s.tcl.length)

/-- The units of a mask are released. -/
def State.releaseUnits (s : State) (mask : Nat) : State :=
  (List.range 4).foldl (fun (s : State) u => if bit mask u then s.releaseUnit u else s) s

/-- The clusters of a mask are released. -/
def State.releaseClusters (s : State) (mask : Nat) : State :=
  (List.range 3).foldl (fun (s : State) c => if bit mask (4 + c) then s.releaseCluster c else s) s

theorem globalStart_eq (s : State) (mask : Nat) :
    s.globalStart mask = ((s.releaseUnits mask).releaseClusters mask).setReg bTIMER 8 (w32 ((s.releaseUnits mask).releaseClusters mask).time) := rfl

section Views
variable (s : State)

theorem setReg_unitView {k o : Nat} (h : regKey bTIMER (tmrReg k 0) ≠ regKey bTIMER o) (w : Word) :
    (s.setReg bTIMER o w).unitView k = s.unitView k := by
  unfold State.unitView
  rw [State.reg_setReg_ne _ _ _ _ _ _ h]
  rfl

theorem setReg_clusterView {c o : Nat} (h : regKey bTIMER (tclReg c 0) ≠ regKey bTIMER o) (h' : regKey bTIMER (tclReg c 0xC) ≠ regKey bTIMER o)
    (w : Word) : (s.setReg bTIMER o w).clusterView c = s.clusterView c := by
  unfold State.clusterView
  rw [State.reg_setReg_ne _ _ _ _ _ _ h, State.reg_setReg_ne _ _ _ _ _ _ h']
  rfl

theorem modTcl_cluster_ne {c d : Nat} (h : d ≠ c) (f : TimerCluster → TimerCluster) :
    ({ s with tcl := modAt s.tcl d f } : State).clusterView c = s.clusterView c := by
  simp [State.clusterView, State.cluster, State.reg, modAt, h]

theorem modTcl_cluster_same {c : Nat} (h : c < s.tcl.length) (f : TimerCluster → TimerCluster) :
    ({ s with tcl := modAt s.tcl c f } : State).cluster c = f (s.cluster c) := by
  simp [State.cluster, modAt, List.getElem?_eq_getElem h]

end Views

/-- The held values of a cluster dropped. -/
def TimerCluster.unheld (k : TimerCluster) : TimerCluster := { k with heldReload := none, heldDuty := none }

/-- What the held registers and the held values do not show, taking them does not change (R550). -/
theorem takeHeld_kept {α : Type} {obs : State → α} {c : Nat} (hreload : ∀ t w, obs (t.setReg bTIMER (tclReg c 4) w) = obs t)
    (hduty : ∀ t w, obs (t.setReg bTIMER (tclReg c 8) w) = obs t)
    (hheld : ∀ t : State, obs { t with tcl := modAt t.tcl c TimerCluster.unheld } = obs t) (s : State) : obs (s.takeHeld c) = obs s := by
  have hend : ∀ t : State, t.tcl = s.tcl → obs { t with tcl := modAt s.tcl c TimerCluster.unheld } = obs t := fun t ht => ht ▸ hheld t
  unfold State.takeHeld
  dsimp only
  cases (s.cluster c).heldReload with
  | none =>
    cases (s.cluster c).heldDuty with
    | none => exact hend s rfl
    | some y => exact (hend (s.setReg bTIMER (tclReg c 8) (w32 y)) rfl).trans (hduty s _)
  | some x =>
    cases (s.cluster c).heldDuty with
    | none => exact (hend (s.setReg bTIMER (tclReg c 4) (w32 x)) rfl).trans (hreload s _)
    | some y =>
      exact (hend ((s.setReg bTIMER (tclReg c 4) (w32 x)).setReg bTIMER (tclReg c 8) (w32 y)) rfl).trans ((hduty _ _).trans (hreload s _))

section Release
variable (s : State)

theorem releaseUnit_other {u k : Nat} (h : u ≠ k) : (s.releaseUnit u).unitView k = s.unitView k := by
  have hset := setReg_unitView s (k := k) (o := tmrReg u 0) (by unfold regKey tmrReg; omega) (setBit (s.reg bTIMER (tmrReg u 0)) 0)
  rw [← hset]
  simp [State.unitView, State.releaseUnit, State.unit, State.reg, modAt, h]

theorem releaseUnit_own {k : Nat} (h : k < s.tmr.length) :
    (s.releaseUnit k).unitView k = (setBit (s.reg bTIMER (tmrReg k 0)) 0, { s.unit k with phase := 0, edges := 0 }, s.tmr.length) := by
  have hreg : (s.releaseUnit k).reg bTIMER (tmrReg k 0) = setBit (s.reg bTIMER (tmrReg k 0)) 0 := State.reg_setReg s _ _ _
  rw [State.unitView, hreg]
  simp [State.releaseUnit, State.unit, State.setReg, modAt, List.getElem?_eq_getElem h]

theorem releaseUnit_clusterView {u c : Nat} (hu : u < 4) : (s.releaseUnit u).clusterView c = s.clusterView c :=
  setReg_clusterView s (by unfold regKey tmrReg tclReg; omega) (by unfold regKey tmrReg tclReg; omega) _

theorem releaseCluster_unitView {c k : Nat} (hk : k < 4) : (s.releaseCluster c).unitView k = s.unitView k := by
  have hset : ∀ (t : State) r w, r < 0x20 → (t.setReg bTIMER (tclReg c r) w).unitView k = t.unitView k :=
    fun t r w _ => setReg_unitView t (by unfold regKey tmrReg tclReg; omega) w
  refine (takeHeld_kept (obs := State.unitView k) (fun t w => hset t 4 w (by decide)) (fun t w => hset t 8 w (by decide)) (fun _ => rfl) _).trans ?_
  exact (hset _ 0xC 0 (by decide)).trans (hset s 0 _ (by decide))

theorem releaseCluster_other {c d : Nat} (h : d ≠ c) : (s.releaseCluster d).clusterView c = s.clusterView c := by
  have hset : ∀ (t : State) r w, r < 0x20 → (t.setReg bTIMER (tclReg d r) w).clusterView c = t.clusterView c :=
    fun t r w _ => setReg_clusterView t (by unfold regKey tclReg; omega) (by unfold regKey tclReg; omega) w
  refine (takeHeld_kept (obs := State.clusterView c) (fun t w => hset t 4 w (by decide)) (fun t w => hset t 8 w (by decide))
    (fun t => modTcl_cluster_ne t h _) _).trans ?_
  refine (modTcl_cluster_ne ((s.setReg bTIMER (tclReg d 0) (setBit (s.reg bTIMER (tclReg d 0)) 0)).setReg bTIMER (tclReg d 0xC) 0) h _).trans ?_
  exact (hset _ 0xC 0 (by decide)).trans (hset s 0 _ (by decide))

/-- A released cluster runs from count 0 upwards. -/
theorem releaseCluster_own {c : Nat} (h : c < s.tcl.length) :
    (s.releaseCluster c).reg bTIMER (tclReg c 0) = setBit (s.reg bTIMER (tclReg c 0)) 0
      ∧ (s.releaseCluster c).reg bTIMER (tclReg c 0xC) = 0 ∧ ((s.releaseCluster c).cluster c).down = false := by
  let v : State := (s.setReg bTIMER (tclReg c 0) (setBit (s.reg bTIMER (tclReg c 0)) 0)).setReg bTIMER (tclReg c 0xC) 0
  let w : State := { v with tcl := modAt s.tcl c fun k => { k with down := false } }
  have hregs : ∀ r, r = 0 ∨ r = 0xC → (w.takeHeld c).reg bTIMER (tclReg c r) = w.reg bTIMER (tclReg c r) := by
    intro r hr
    refine takeHeld_kept (obs := fun t => t.reg bTIMER (tclReg c r)) (fun t x => ?_) (fun t x => ?_) (fun _ => rfl) w
    · exact State.reg_setReg_ne _ _ _ _ _ _ (by unfold regKey tclReg; omega)
    · exact State.reg_setReg_ne _ _ _ _ _ _ (by unfold regKey tclReg; omega)
  have hdown : ((w.takeHeld c).cluster c).down = (w.cluster c).down := by
    refine takeHeld_kept (obs := fun t => (t.cluster c).down) (fun _ _ => rfl) (fun _ _ => rfl) (fun t => ?_) w
    by_cases ht : c < t.tcl.length
    · exact (congrArg TimerCluster.down (modTcl_cluster_same t ht TimerCluster.unheld) :)
    · simp [State.cluster, modAt, List.getElem?_eq_none (Nat.not_lt.1 ht)]
  have hcount : v.reg bTIMER (tclReg c 0xC) = 0 := State.reg_setReg ..
  refine ⟨(hregs 0 (.inl rfl)).trans ?_, (hregs 0xC (.inr rfl)).trans hcount, hdown.trans ?_⟩
  · exact (State.reg_setReg_ne _ _ _ _ _ _ (by unfold regKey tclReg; omega)).trans (State.reg_setReg s _ _ _)
  · exact congrArg TimerCluster.down (modTcl_cluster_same v h fun k => { k with down := false })

theorem releaseUnits_clusterView (mask c : Nat) : (s.releaseUnits mask).clusterView c = s.clusterView c := by
  refine foldl_kept (fun t u hu => ?_) s
  split
  · exact releaseUnit_clusterView t (List.mem_range.1 hu)
  · rfl

theorem releaseClusters_unitView (mask : Nat) {k : Nat} (hk : k < 4) : (s.releaseClusters mask).unitView k = s.unitView k := by
  refine foldl_kept (fun t c _ => ?_) s
  split
  · exact releaseCluster_unitView t hk
  · rfl

theorem releaseUnits_view (mask : Nat) {k : Nat} (hk : k < 4) (hlen : s.tmr.length = 4) :
    (s.releaseUnits mask).unitView k = if bit mask k then (setBit (s.reg bTIMER (tmrReg k 0)) 0, { s.unit k with phase := 0, edges := 0 }, 4)
      else s.unitView k := by
  obtain ⟨t, ht, hfold⟩ := foldl_once (f := fun (s : State) u => if bit mask u then s.releaseUnit u else s) (obs := State.unitView k)
    (List.mem_range.2 hk) List.nodup_range (fun t u hu => by
      split
      · exact releaseUnit_other t hu
      · rfl) s
  obtain ⟨hreg, hunit, htmr⟩ : t.reg bTIMER (tmrReg k 0) = s.reg bTIMER (tmrReg k 0) ∧ t.unit k = s.unit k ∧ t.tmr.length = s.tmr.length := by
    simpa [State.unitView] using ht
  refine hfold.trans ?_
  split
  · rw [releaseUnit_own t (by omega), hreg, hunit, htmr, hlen]
  · exact ht

theorem releaseClusters_own {mask c : Nat} (hc : c < 3) (hlen : s.tcl.length = 3) (hbit : bit mask (4 + c) = true) :
    (s.releaseClusters mask).reg bTIMER (tclReg c 0) = setBit (s.reg bTIMER (tclReg c 0)) 0
      ∧ (s.releaseClusters mask).reg bTIMER (tclReg c 0xC) = 0 ∧ ((s.releaseClusters mask).cluster c).down = false := by
  obtain ⟨t, ht, hfold⟩ := foldl_once (f := fun (s : State) c => if bit mask (4 + c) then s.releaseCluster c else s) (obs := State.clusterView c)
    (List.mem_range.2 hc) List.nodup_range (fun t d hd => by
      split
      · exact releaseCluster_other t hd
      · rfl) s
  rw [if_pos hbit] at hfold
  simp only [State.clusterView, Prod.mk.injEq] at ht hfold
  obtain ⟨hctrl, -, -, htcl⟩ := ht
  obtain ⟨hctrl', hcount', hcluster', -⟩ := hfold
  obtain ⟨h0, hC, hdown⟩ := releaseCluster_own t (c := c) (by omega)
  rw [hctrl] at h0
  exact ⟨hctrl'.trans h0, hcount'.trans hC, (congrArg TimerCluster.down hcluster').trans hdown⟩

theorem releaseClusters_unnamed {mask c : Nat} (hbit : bit mask (4 + c) = false) :
    (s.releaseClusters mask).clusterView c = s.clusterView c := by
  refine foldl_kept (fun t d _ => ?_) s
  by_cases hd : d = c
  · subst hd
    rw [if_neg (by simp [hbit])]
  · split
    · exact releaseCluster_other t hd
    · rfl

end Release

/-- A start that is due goes to its mask where ACCEPT is set, else nowhere. -/
theorem startRelease_due {s : State} {f mask : Nat} (hstarts : s.chain.starts = [(f, mask)]) (hdue : f + 4 < 16 * s.lastBlock + 16) :
    s.startRelease =
      let u : State := { s with time := max s.time ((f + 4) * 256), chain.starts := [] }
      if bit (s.regN bTIMER 4) 0 then u.globalStart mask else u := by
  unfold State.startRelease
  rw [hstarts]
  have hfold : (0 ||| mask) = mask := Nat.zero_or mask
  simp only [minBy, List.filter_cons, List.filter_nil, beq_self_eq_true, if_true, bne_self_eq_false, Bool.false_eq_true, if_false,
    List.foldl_cons, List.foldl_nil, hfold]
  exact if_neg (by omega)

/-- What a global start leaves of the named units and clusters, and of the others. -/
theorem globalStart_views (u : State) (mask : Nat) (htmr : u.tmr.length = 4) (htcl : u.tcl.length = 3) :
    (u.globalStart mask).reg bTIMER 8 = w32 u.time
      ∧ (∀ k < 4, (u.globalStart mask).unitView k
          = if bit mask k then (setBit (u.reg bTIMER (tmrReg k 0)) 0, { u.unit k with phase := 0, edges := 0 }, 4) else u.unitView k)
      ∧ (∀ c < 3, bit mask (4 + c) = true → (u.globalStart mask).reg bTIMER (tclReg c 0) = setBit (u.reg bTIMER (tclReg c 0)) 0
          ∧ (u.globalStart mask).reg bTIMER (tclReg c 0xC) = 0 ∧ ((u.globalStart mask).cluster c).down = false)
      ∧ (∀ c < 3, bit mask (4 + c) = false → (u.globalStart mask).clusterView c = u.clusterView c) := by
  have htime : ((u.releaseUnits mask).releaseClusters mask).time = u.time :=
    (foldl_kept (obs := State.time) (fun t c _ => by
      split
      · obtain ⟨r, k, l, h⟩ := releaseCluster_timersOnly t c
        rw [h]
      · rfl) _).trans (foldl_kept (obs := State.time) (fun t k _ => by split <;> rfl) u)
  have hgstat : ∀ c r, regKey bTIMER (tclReg c r) ≠ regKey bTIMER 8 := fun c r => by unfold regKey tclReg; omega
  have hunits : ∀ c, (u.releaseUnits mask).clusterView c = u.clusterView c := releaseUnits_clusterView u mask
  rw [globalStart_eq, htime]
  refine ⟨State.reg_setReg .., fun k hk => ?_, fun c hc hbit => ?_, fun c hc hbit => ?_⟩
  · rw [setReg_unitView _ (by unfold regKey tmrReg; omega), releaseClusters_unitView _ _ hk, releaseUnits_view u mask hk htmr]
  · have hview := hunits c
    simp only [State.clusterView, Prod.mk.injEq] at hview
    obtain ⟨hctrl, -, -, hlen⟩ := hview
    obtain ⟨h0, hC, hdown⟩ := releaseClusters_own (u.releaseUnits mask) hc (hlen.trans htcl) hbit
    rw [State.reg_setReg_ne _ _ _ _ _ _ (hgstat c 0), State.reg_setReg_ne _ _ _ _ _ _ (hgstat c 0xC)]
    exact ⟨h0.trans (by rw [hctrl]), hC, hdown⟩
  · rw [setReg_clusterView _ (hgstat c 0) (hgstat c 0xC), releaseClusters_unnamed _ hbit, hunits]

theorem globalStart_released {s : State} {f mask : Nat} (hready : s.isReady = true) (hstarts : s.chain.starts = [(f, mask)])
    (htmr : s.tmr.length = 4) (htcl : s.tcl.length = 3) (hdue : f + 4 < 16 * s.lastBlock + 16) (haccept : bit (s.regN bTIMER 4) 0 = true) :
    let u : State := { s with time := max s.time ((f + 4) * 256), chain.starts := [] }
    ∃ t, exec .globalStartRelease s = .next t ∧ t = { u with regs := t.regs, tmr := t.tmr, tcl := t.tcl }
      ∧ t.reg bTIMER 8 = w32 u.time
      ∧ (∀ k < 4, (bit mask k = true →
            t.reg bTIMER (tmrReg k 0) = s.reg bTIMER (tmrReg k 0) ||| 1#32 ∧ (t.unit k).phase = 0 ∧ (t.unit k).edges = 0)
          ∧ (bit mask k = false → t.reg bTIMER (tmrReg k 0) = s.reg bTIMER (tmrReg k 0) ∧ t.unit k = s.unit k))
      ∧ (∀ c < 3, (bit mask (4 + c) = true →
            t.reg bTIMER (tclReg c 0) = s.reg bTIMER (tclReg c 0) ||| 1#32 ∧ t.reg bTIMER (tclReg c 0xC) = 0 ∧ (t.cluster c).down = false)
          ∧ (bit mask (4 + c) = false → t.reg bTIMER (tclReg c 0) = s.reg bTIMER (tclReg c 0) ∧ t.cluster c = s.cluster c)) := by
  intro u
  obtain ⟨regs, tmr, tcl, hframe⟩ := globalStart_timersOnly u mask
  obtain ⟨hgstat, hunits, hnamed, hunnamed⟩ := globalStart_views u mask htmr htcl
  refine ⟨u.globalStart mask, ?_, ?_, hgstat, fun k hk => ⟨fun hbit => ?_, fun hbit => ?_⟩, fun c hc => ⟨fun hbit => hnamed c hc hbit, fun hbit => ?_⟩⟩
  · rw [exec_globalStartRelease, execGlobalStartRelease, if_pos hready, startRelease_due hstarts hdue]
    dsimp only
    rw [if_pos haccept]
    refine done_same _ _ ?_ ?_
    all_goals rw [hframe]
  · rw [hframe]
  · have hview := hunits k hk
    rw [if_pos hbit] at hview
    simp only [State.unitView, Prod.mk.injEq] at hview
    obtain ⟨hctrl, hunit, -⟩ := hview
    exact ⟨hctrl, congrArg TimerUnit.phase hunit, congrArg TimerUnit.edges hunit⟩
  · have hview := hunits k hk
    rw [if_neg (by simp [hbit])] at hview
    simp only [State.unitView, Prod.mk.injEq] at hview
    exact ⟨hview.1, hview.2.1⟩
  · have hview := hunnamed c hc hbit
    simp only [State.clusterView, Prod.mk.injEq] at hview
    obtain ⟨hctrl, -, hcluster, -⟩ := hview
    exact ⟨hctrl, hcluster⟩

/-- Settles O52: the neighbour's time where it may be taken, and a start by whether it is due and whether ACCEPT is set. -/
theorem chainTimes : Obligations.ChainTimes := by
  intro s at'
  refine ⟨fun h => alignAdopt_taken h, fun h => ?idle, fun f mask hready hstarts htmr htcl => ⟨fun hlate => ?early, fun hdue => ⟨fun haccept => ?refused,
    fun haccept => globalStart_released hready hstarts htmr htcl hdue haccept⟩⟩⟩
  case idle =>
    rw [exec_alignAdopt, execAlignAdopt, if_neg (by simp [h])]
    exact done_same s s rfl rfl
  case early =>
    have hstay : s.startRelease = s := by
      unfold State.startRelease
      rw [hstarts]
      exact if_pos hlate
    rw [exec_globalStartRelease, execGlobalStartRelease, if_pos hready, hstay]
    exact done_same s s rfl rfl
  case refused =>
    rw [exec_globalStartRelease, execGlobalStartRelease, if_pos hready, startRelease_due hstarts hdue]
    dsimp only
    rw [if_neg (by simp [haccept])]
    exact done_same _ _ rfl rfl

end Sys2Proof.Machine
end

section
/-! Supplies (R604, R605, R623), the end of a reset (R628, R630), the clock reference and the PLL's loops (R608 to R614). -/
namespace Sys2Proof.Machine

/-! ### Messages of the analog die's supervisors and PLL -/

/-- A change of the supplies and the reference that keeps the phase, followed by a message of class C1 or C2: the message is captured (R328). -/
theorem ends_power_captured {s : State} {m : BitVec 64} (p : Power) (hphase : p.phase = s.pwr.phase) (hclass : msgClass m = 1 ∨ msgClass m = 2)
    (hm : Heard s m) (hf : FreeSet s m) :
    s.ends (({ s with pwr := p } : State).report m 11 0) = .next (({ s with pwr := p } : State).captured m 11 0) :=
  ends_report_captured 11 0 (hm.of_kiln (congrArg (· == Phase.ready) hphase) rfl) hclass hf rfl rfl

theorem msgClass_supplyMsg (code : Nat) : msgClass (supplyMsg code) = 1 := msgClass_mkMsg ..

theorem msgClass_clockMsg (cls : Nat) : msgClass (clockMsg cls) = cls % 4 := msgClass_mkMsg ..

theorem ready_phase {s : State} (h : s.isReady = true) : s.pwr.phase = .ready := beq_iff_eq.mp h

theorem ready_clocked {s : State} (h : s.isReady = true) : s.clocked = true := by
  unfold State.clocked
  rw [ready_phase h]

/-! ### Supplies -/

/-- A warning that has not been raised since its rail came back is raised (R605). -/
theorem ends_supplyWarning {s : State} {code : Nat} {back : Bool} (hm : Heard s (supplyMsg code)) (hf : FreeSet s (supplyMsg code))
    (hnew : nthB s.pwr.warned code = false ∨ back = true) :
    s.ends (s.supplyWarning code back)
      = .next (({ s with pwr.warned := s.pwr.warned.set code true } : State).captured (supplyMsg code) 11 0) := by
  have hraise : ¬ ((!s.isReady || (nthB s.pwr.warned code && !back)) = true) := by
    rw [hm.isReady]
    rcases hnew with h | h <;> simp [h]
  unfold State.supplyWarning
  rw [if_neg hraise]
  exact ends_power_captured _ rfl (.inl (msgClass_supplyMsg code)) hm hf

/-- Before READY, and again before its rail has come back, a warning is none (R605). -/
theorem supplyWarning_none {s : State} {code : Nat} {back : Bool}
    (h : s.isReady = false ∨ (nthB s.pwr.warned code = true ∧ back = false)) : s.supplyWarning code back = s := by
  unfold State.supplyWarning
  refine if_pos ?_
  rcases h with h | ⟨h, hback⟩
  · rw [h]; rfl
  · rw [h, hback]; exact Bool.or_true _

theorem supplyThreshold_low {s : State} {rail : Nat} (back : Bool) (h : rail < 4) :
    s.supplyThreshold rail (.low back) = s.supplyWarning rail back := if_neg (by omega)

theorem supplyThreshold_high {s : State} {rail : Nat} (back : Bool) (h : rail < 4) :
    s.supplyThreshold rail (.high back) = s.supplyWarning (rail + 4) back := if_neg (by omega)

/-- Settles O57. -/
theorem supplyWarnings : Obligations.SupplyWarnings := by
  unfold Obligations.SupplyWarnings
  intro s rail back hrail hquiet m warns
  have quiet {t : State} (h : t = s) : s.ends t = .next s := by rw [h]; exact ends_quiet s s hquiet rfl rfl
  refine ⟨?low, ?high, ?again, ?early, ?disagree, ?release⟩
  case low =>
    intro hm hf hnew
    rw [exec_supplyThreshold, execSupplyThreshold, supplyThreshold_low back hrail]
    exact ends_supplyWarning hm hf hnew
  case high =>
    intro hm hf hnew
    rw [exec_supplyThreshold, execSupplyThreshold, supplyThreshold_high back hrail]
    exact ends_supplyWarning hm hf hnew
  case again =>
    intro h
    rw [exec_supplyThreshold, execSupplyThreshold, supplyThreshold_low false hrail]
    exact quiet (supplyWarning_none (.inr ⟨h, rfl⟩))
  case early =>
    intro h
    rw [exec_supplyThreshold, execSupplyThreshold, supplyThreshold_low back hrail]
    exact quiet (supplyWarning_none (.inl h))
  case disagree =>
    intro hm hf
    rw [exec_comparatorDisagreement, execComparatorDisagreement, State.comparatorDisagreement, if_neg (by omega)]
    exact ends_report_captured 11 0 hm (.inl (msgClass_supplyMsg _)) hf rfl rfl
  case release =>
    rw [exec_supplyRelease]
    exact done_same s _ rfl rfl

/-! ### RESET_N -/

/-- A start whose options were read and whose latch is clear (R628, R630). -/
theorem resetRelease_starts {s : State} (hphase : s.pwr.phase = .inReset) (hrails : ∀ x ∈ s.pwr.railLow, x = false)
    (hcask : s.part.caskBad = false) (hlatch : s.pwr.latch = none) :
    s.resetRelease = { s with
      pwr.phase := .released
      pwr.resetHeld := false
      pwr.driveLow := false
      pwr.shadow := s.part.shadow
      pwr.resetCause := s.pwr.resetCause &&& ~~~0x80#32 } := by
  have hstart : ¬ ((s.pwr.phase != .inReset || s.pwr.railLow.any id) = true) := by
    simpa [hphase] using hrails
  have hunlatched : s.latched = false := congrArg Option.isSome hlatch
  unfold State.resetRelease
  rw [if_neg hstart, hunlatched]
  exact if_neg (by simp [hcask])

theorem resetRelease_waits {s : State} (h : true ∈ s.pwr.railLow) : s.resetRelease = s := by
  have hlow : s.pwr.railLow.any id = true := List.any_eq_true.mpr ⟨true, h, rfl⟩
  unfold State.resetRelease
  exact if_pos (by simp [hlow])

/-! ### The reference (R608 to R613) -/

/-- A source with its qualification noted: since when, the first time (R609). -/
def State.sourceQualified (s : State) (primary : Bool) : State :=
  if primary then { s with pwr.qualP := some (s.pwr.qualP.getD s.time) } else { s with pwr.qualB := some (s.pwr.qualB.getD s.time) }

section Source
variable (s : State) (primary : Bool)

theorem sourceQualified_eq : ∃ p, s.sourceQualified primary = { s with pwr := p } ∧ p.refUsed = s.pwr.refUsed ∧ p.phase = s.pwr.phase := by
  cases primary
  · exact ⟨_, rfl, rfl, rfl⟩
  · exact ⟨_, rfl, rfl, rfl⟩

theorem sourceQualified_refUsed : (s.sourceQualified primary).pwr.refUsed = s.pwr.refUsed := by
  obtain ⟨p, h, href, -⟩ := sourceQualified_eq s primary
  rw [h]; exact href

theorem sourceQualified_clocked : (s.sourceQualified primary).clocked = s.clocked := by
  obtain ⟨p, h, -, hphase⟩ := sourceQualified_eq s primary
  unfold State.clocked
  rw [h]
  exact congrArg (fun x : Phase => match x with | .inReset | .released => false | _ => true) hphase

variable {s primary}

/-- What a source that exists does when it qualifies (R609, R612, R613). -/
theorem referenceQualified_eq (hreset : s.pwr.phase ≠ .inReset) (hstandby : s.pwr.phase ≠ .standby)
    (hsource : primary = true ∨ s.pwr.shadow.refBackup ≠ 3) :
    s.referenceQualified primary = match s.pwr.refUsed with
      | some _ => s.sourceQualified primary
      | none =>
        if !s.clocked then { s.sourceQualified primary with pwr.refUsed := some primary }
        else if primary then s.sourceQualified primary
        else { s.sourceQualified primary with pwr.refUsed := some false, pwr.holdover := none, pwr.holdTold := false } := by
  have hhas : s.hasSource primary = true := by
    unfold State.hasSource
    rcases hsource with h | h <;> simp [h]
  rw [← sourceQualified_refUsed s primary, ← sourceQualified_clocked s primary]
  unfold State.referenceQualified
  exact if_neg (by simp [hreset, hstandby, hhas])

end Source

theorem startAndReference : Says.StartAndReference := by
  unfold Says.StartAndReference
  intro s primary u qualifies
  have hu : u = s.sourceQualified primary := rfl
  have hqueue : u.pending = s.pending ∧ u.part = s.part := by
    obtain ⟨p, h, -⟩ := sourceQualified_eq s primary
    rw [hu, h]; exact ⟨rfl, rfl⟩
  have unclocked_iff : s.clocked = false ↔ s.pwr.phase = .inReset ∨ s.pwr.phase = .released := by
    unfold State.clocked
    cases s.pwr.phase <;> simp
  refine ⟨?starts, ?waits, ?first, ?inUse, ?holdover, ?lost, ?takeback, ?early⟩
  case starts =>
    intro hphase hrails hcask hlatch
    rw [exec_resetRelease, execResetRelease, resetRelease_starts hphase hrails hcask hlatch]
    exact done_same s _ rfl rfl
  case waits =>
    intro _ hlow
    rw [exec_resetRelease, execResetRelease, resetRelease_waits hlow]
    exact done_same s s rfl rfl
  case first =>
    intro ⟨hreset, hstandby, hsource⟩ hused hreleased
    rw [exec_referenceQualified, execReferenceQualified, referenceQualified_eq hreset hstandby hsource, hused,
      unclocked_iff.mpr (.inr hreleased)]
    exact done_same s { u with pwr.refUsed := some primary } hqueue.1 hqueue.2
  case inUse =>
    intro ⟨hreset, hstandby, hsource⟩ hused
    obtain ⟨r, hr⟩ := Option.ne_none_iff_exists'.mp hused
    rw [exec_referenceQualified, execReferenceQualified, referenceQualified_eq hreset hstandby hsource, hr]
    exact done_same s u hqueue.1 hqueue.2
  case holdover =>
    intro ⟨hreset, hstandby, hsource⟩ hused hreleased
    have hclocked : s.clocked = true := by
      rw [← Bool.not_eq_false, unclocked_iff]
      exact not_or.mpr ⟨hreset, hreleased⟩
    rw [exec_referenceQualified, execReferenceQualified, referenceQualified_eq hreset hstandby hsource, hused, hclocked]
    cases primary with
    | true => exact done_same s u hqueue.1 hqueue.2
    | false => exact done_same s { u with pwr.refUsed := some false, pwr.holdover := none, pwr.holdTold := false } hqueue.1 hqueue.2
  case lost =>
    intro hused
    rw [exec_backupLost, execBackupLost, State.backupLost, if_neg hused]
    cases primary
    · exact done_same s _ rfl rfl
    · exact done_same s _ rfl rfl
  case takeback =>
    intro t hqual hclocked hstandby hused hsecond hboundary
    rw [exec_primaryTakeback, execPrimaryTakeback, State.primaryTakeback, hqual]
    dsimp only
    rw [if_pos (by simp [hclocked, hstandby, hused, hsecond, hboundary])]
    exact done_same s _ rfl rfl
  case early =>
    intro t hqual hsoon
    rw [exec_primaryTakeback, execPrimaryTakeback, State.primaryTakeback, hqual]
    dsimp only
    rw [if_neg (by simp; omega)]
    exact done_same s s rfl rfl

/-! ### Losses (R611, R612, R614) -/

theorem referenceFaults : Says.ReferenceFaults := by
  unfold Says.ReferenceFaults
  intro s hquiet m
  refine ⟨fun hstandby hm hf => ?_, ?_, ?_⟩
  · have hclocked : s.clocked = true := ready_clocked hm.isReady
    have hruns : ¬ ((!s.clocked || s.pwr.phase == .standby) = true) := by simp [hclocked, hstandby]
    refine ⟨fun hused hbackup => ?_, fun hused hbackup => ?_, fun hused => ?_, fun hmain hother => ⟨?_, ?_⟩⟩
    · rw [exec_referenceLoss, execReferenceLoss, State.referenceLoss, if_neg hruns, hused]
      have hmoves : (true && s.pwr.qualB.isSome) = true := by simpa [Option.isSome_iff_ne_none] using hbackup
      dsimp only
      rw [if_pos rfl, if_pos hmoves]
      exact ends_power_captured _ rfl (.inl (msgClass_clockMsg 1)) hm hf
    · rw [exec_referenceLoss, execReferenceLoss, State.referenceLoss, if_neg hruns, hused]
      dsimp only
      rw [if_pos rfl, hbackup, if_neg (by decide)]
      exact ends_power_captured _ rfl (.inl (msgClass_clockMsg 1)) hm hf
    · rw [exec_referenceLoss, execReferenceLoss, State.referenceLoss, if_neg hruns, hused]
      exact ends_power_captured _ rfl (.inl (msgClass_clockMsg 1)) hm hf
    · rw [exec_pllLoopFail, execPllLoopFail, State.pllLoopFail]
      dsimp only
      rw [if_pos rfl, if_pos rfl, hmain, hother, if_neg (by simpa using hruns)]
      exact ends_power_captured _ rfl (.inl (msgClass_clockMsg 1)) hm hf
    · rw [exec_pllLoopFail, execPllLoopFail, State.pllLoopFail]
      dsimp only
      rw [if_neg Bool.false_ne_true, if_neg Bool.false_ne_true, hmain, hother, if_neg (by simpa using hruns)]
      exact ends_power_captured _ rfl (.inl (msgClass_clockMsg 1)) hm hf
  · intro t hheld htold hlong hprimary hbackup hm hf
    rw [exec_holdoverTimeout, execHoldoverTimeout, State.holdoverTimeout, hheld]
    dsimp only
    rw [if_neg (by simp [htold, hprimary, hbackup]; omega)]
    exact ends_power_captured _ rfl (.inr (msgClass_clockMsg 2)) hm hf
  · intro t hheld hsoon
    rw [exec_holdoverTimeout, execHoldoverTimeout, State.holdoverTimeout, hheld]
    dsimp only
    rw [if_pos (by simp [hsoon])]
    exact ends_quiet s s hquiet rfl rfl

/-- Settles O58. -/
theorem references : Obligations.References := ⟨startAndReference, referenceFaults⟩

end Sys2Proof.Machine
end

section
/-! The management and service lines: characters, timeout, transmission and DE (R559 to R564), and frames (R567 to R571). -/
namespace Sys2Proof.Machine

/-! ### A line's state -/

section Line
variable {s : State} {x : Nat}

theorem onUart_set (hx : x < s.uarts.length) (f : Uart → Uart) : s.onUart x f = { s with uarts := s.uarts.set x (f (s.uart x)) } :=
  congrArg (fun l => { s with uarts := l }) (modAt_eq_set hx (Uart.reset x) f)

theorem onUart_uart (hx : x < s.uarts.length) (f : Uart → Uart) : (s.onUart x f).uart x = f (s.uart x) := by
  rw [onUart_set hx]
  exact (List.getD_eq_getElem _ _ (by simpa using hx)).trans (by simp)

theorem onUart_onUart (f g : Uart → Uart) : (s.onUart x f).onUart x g = s.onUart x (g ∘ f) := by
  unfold State.onUart
  exact congrArg (fun l => { s with uarts := l }) (List.modify_modify_eq ..)

/-- A change of a line matters by what it makes of the line's state. -/
theorem onUart_congr (hx : x < s.uarts.length) {f g : Uart → Uart} (h : f (s.uart x) = g (s.uart x)) : s.onUart x f = s.onUart x g := by
  rw [onUart_set hx, onUart_set hx, h]

/-- What gives a line's state itself leaves everything alone. -/
theorem onUart_self (hx : x < s.uarts.length) {f : Uart → Uart} (h : f (s.uart x) = s.uart x) : s.onUart x f = s := by
  rw [onUart_set hx, h]
  have hself : s.uarts.set x (s.uart x) = s.uarts := by
    unfold State.uart
    rw [List.getD_eq_getElem _ _ hx]
    exact List.set_getElem_self hx
  rw [hself]

/-- DMA's block of line x, in characters (R563). -/
def State.lineBlock (s : State) (x : Nat) : Nat := max 1 (bits (s.regN (bUART0 + x) 0xC) 16 11)

/-- An empty FIFO gives DMA nothing (R563). -/
theorem lineDma_empty (hx : x < s.uarts.length) (h : (s.uart x).fifo = []) :
    s.lineDma x = s.onUart x fun u => { u with partialBlock := u.partialBlock % s.lineBlock x } := by
  unfold State.lineDma
  rw [onUart_set hx, onUart_set hx, h]
  simp [State.lineBlock]

/-- A character that finds the FIFO empty reaches the frame by DMA (R563). -/
theorem lineDma_push_lineDma (hx : x < s.uarts.length) (h : (s.uart x).fifo = []) (b : Byte) (bad : Bool) :
    ((s.lineDma x).linePush x b bad).lineDma x = s.onUart x fun u => { u with
      frame := u.frame ++ [b]
      frameBad := u.frameBad || bad
      partialBlock := (u.partialBlock + 1) % s.lineBlock x } := by
  let emptied : Uart → Uart := fun u => { u with partialBlock := u.partialBlock % s.lineBlock x }
  let pushed : Uart → Uart := fun u => { u with fifo := u.fifo ++ [(b, bad)] }
  have hfifo : ((s.onUart x emptied).uart x).fifo = [] := by rw [onUart_uart hx]; exact h
  have hpush : (s.lineDma x).linePush x b bad = s.onUart x (pushed ∘ emptied) := by
    rw [lineDma_empty hx h, ← onUart_onUart]
    exact if_pos (by rw [hfifo]; decide)
  rw [hpush]
  unfold State.lineDma
  rw [onUart_onUart]
  refine onUart_congr hx ?_
  have hblock : max 1 (bits ((s.onUart x (pushed ∘ emptied)).regN (bUART0 + x) 0xC) 16 11) = s.lineBlock x := rfl
  rw [hblock]
  simp [emptied, pushed, h]

/-! ### Characters (R559 to R562) -/

/-- A register written with what it holds. -/
theorem reg_setReg_self (s : State) (b o c p : Nat) : (s.setReg b o (s.reg b o)).reg c p = s.reg c p := by
  by_cases h : regKey c p = regKey b o
  · have hsame (t : State) : t.reg c p = t.reg b o := congrArg (sget (regDefault t.part.variant) t.regs) h
    rw [hsame, hsame]
    exact State.reg_setReg ..
  · exact State.reg_setReg_ne _ _ _ _ _ _ h

/-- The parity bit of a character fits, or none is asked for. -/
def State.parityFits (s : State) (x : Nat) (c : RxChar) : Prop :=
  bits (nthW (s.uart x).active 0).toNat 2 2 = 0 ∨ c.parityOk = true

theorem parityBad_false {c : RxChar} (h : s.parityFits x c) :
    (decide (bits (nthW (s.uart x).active 0).toNat 2 2 ≠ 0) && !c.parityOk) = false := by
  rcases h with h | h <;> simp [h]

theorem charBad_eq {c : RxChar} (h : s.parityFits x c) : s.charBad x c = !c.stopOk := by
  unfold State.charBad
  rw [parityBad_false h, Bool.or_false]

/-- A good character leaves UART_STAT as it is (R559). -/
theorem charFlags_fine {c : RxChar} (hstop : c.stopOk = true) (hparity : s.parityFits x c) (hnoise : c.noise = false) :
    s.charFlags x c = s.setReg (bUART0 + x) 0x10 (s.reg (bUART0 + x) 0x10) := by
  unfold State.charFlags
  simp only [parityBad_false hparity, hstop, hnoise]
  rfl

/-- A character without a stop bit sets FERR and counts (R561). -/
theorem charFlags_unstopped {c : RxChar} (hstop : c.stopOk = false) (hparity : s.parityFits x c) (hnoise : c.noise = false) :
    s.charFlags x c = (s.setReg (bUART0 + x) 0x10 (setBit (s.reg (bUART0 + x) 0x10) 9)).countReg (bUART0 + x) 0x18 16 16 1 := by
  unfold State.charFlags
  simp only [parityBad_false hparity, hstop, hnoise]
  rfl

theorem reg_setReg_offset (s : State) (b : Nat) {o p : Nat} (w : Word) (h : p ≠ o) : (s.setReg b o w).reg b p = s.reg b p :=
  State.reg_setReg_ne _ _ _ _ _ _ (by unfold regKey; omega)

/-- A line that hears a character, settings in force, flags and then takes it. -/
theorem uartCharacter_heard {c : RxChar} (hhears : s.lineHears x = true) (hset : (s.uart x).newSettings = true) {t : State}
    (ht : s.charFlags x c = t) :
    s.uartCharacter x c = if c.stalled then t.linePush x c.byte (t.charBad x c)
      else ((t.lineDma x).linePush x c.byte (t.charBad x c)).lineDma x := by
  subst ht
  have hsettings : s.rxSettings x = s := if_pos hset
  unfold State.uartCharacter
  rw [if_neg (by simp [hhears])]
  dsimp only
  rw [hsettings]

/-- A full FIFO loses its newest character: OVR sets and counts, and the frame is spoilt (R562). -/
theorem linePush_full (h : (s.uart x).fifo.length = 32) (b : Byte) (bad : Bool) :
    s.linePush x b bad =
      ((s.onUart x fun u => { u with fifo := u.fifo.take 31 ++ [(b, bad)], frameBad := true }).setReg (bUART0 + x) 0x10
        (setBit (s.reg (bUART0 + x) 0x10) 8)).countReg (bUART0 + x) 0x18 0 16 1 := by
  unfold State.linePush
  exact if_neg (by omega)

theorem reg_countReg (s : State) (b o lo n k : Nat) : (s.countReg b o lo n k).reg b o = countField (s.reg b o) lo n k :=
  State.reg_setReg ..

theorem reg_countReg_offset (s : State) (b : Nat) {o p : Nat} (lo n k : Nat) (h : p ≠ o) : (s.countReg b o lo n k).reg b p = s.reg b p :=
  reg_setReg_offset s b _ h

/-- A character that DMA takes: the line's state after it. -/
def Uart.fed (u : Uart) (block : Nat) (c : RxChar) (bad : Bool) : Uart :=
  { u with frame := u.frame ++ [c.byte], frameBad := u.frameBad || bad, partialBlock := (u.partialBlock + 1) % block }

/-- A character that the line hears, whose FIFO is empty and whose DMA runs, reaches the frame (R559, R563). -/
theorem uartCharacter_fed {c : RxChar} {r : Sparse Word} (hx : x < s.uarts.length) (hhears : s.lineHears x = true)
    (hset : (s.uart x).newSettings = true) (hfifo : (s.uart x).fifo = []) (hstall : c.stalled = false) (hparity : s.parityFits x c)
    (hflags : s.charFlags x c = { s with regs := r }) (hblock : ({ s with regs := r } : State).lineBlock x = s.lineBlock x) :
    s.uartCharacter x c = { s with regs := r, uarts := s.uarts.set x ((s.uart x).fed (s.lineBlock x) c !c.stopOk) } := by
  have hbad : ({ s with regs := r } : State).charBad x c = !c.stopOk := charBad_eq hparity
  rw [uartCharacter_heard hhears hset hflags, if_neg (by simp [hstall]), hbad,
    lineDma_push_lineDma (s := { s with regs := r }) hx hfifo, hblock]
  exact onUart_set (s := { s with regs := r }) hx _

/-- A good character that a stalled DMA leaves in a full FIFO (R562). -/
theorem uartCharacter_overrun {c : RxChar} {r : Sparse Word} (hx : x < s.uarts.length) (hhears : s.lineHears x = true)
    (hset : (s.uart x).newSettings = true) (hfifo : (s.uart x).fifo.length = 32) (hstall : c.stalled = true) (hparity : s.parityFits x c)
    (hflags : s.charFlags x c = { s with regs := r }) :
    s.uartCharacter x c = { s with
      regs := ((({ s with regs := r } : State).setReg (bUART0 + x) 0x10
        (setBit (({ s with regs := r } : State).reg (bUART0 + x) 0x10) 8)).countReg (bUART0 + x) 0x18 0 16 1).regs
      uarts := s.uarts.set x { s.uart x with fifo := (s.uart x).fifo.take 31 ++ [(c.byte, !c.stopOk)], frameBad := true } } := by
  have hbad : ({ s with regs := r } : State).charBad x c = !c.stopOk := charBad_eq hparity
  rw [uartCharacter_heard hhears hset hflags, if_pos hstall, hbad, linePush_full (s := { s with regs := r }) hfifo,
    onUart_set (s := { s with regs := r }) hx]
  rfl

end Line

theorem uartCharacters : Says.UartCharacter := by
  unfold Says.UartCharacter
  intro s x c hx hlen hhears hset b u block parity fine frames
  have hlines : x < s.uarts.length := by omega
  have ends {t : State} (h : s.uartCharacter x c = t) (hq : t.pending = s.pending) (hp : t.part = s.part) :
      exec (.uartCharacter x c) s = .next t := by
    rw [exec_uartCharacter, execUartCharacter, h]
    exact done_same s t hq hp
  let kept := s.setReg b 0x10 (s.reg b 0x10)
  have hkept (k o : Nat) : kept.reg k o = s.reg k o := reg_setReg_self s b 0x10 k o
  refine ⟨?good, ?unstopped, ?full⟩
  case good =>
    rintro ⟨hstop, hparity⟩ hnoise hfifo hstall
    have hblock : kept.lineBlock x = s.lineBlock x := congrArg (fun w : Word => max 1 (bits w.toNat 16 11)) (hkept (bUART0 + x) 0xC)
    have h := uartCharacter_fed (r := kept.regs) hlines hhears hset hfifo hstall hparity (charFlags_fine hstop hparity hnoise) hblock
    rw [hstop] at h
    exact ⟨_, ends h rfl rfl, hkept, rfl⟩
  case unstopped =>
    intro hstop hnoise hparity hfifo hstall
    let marked := s.setReg b 0x10 (setBit (s.reg b 0x10) 9)
    let flagged := marked.countReg b 0x18 16 16 1
    have hset' : flagged.reg b 0xC = s.reg b 0xC :=
      (reg_countReg_offset marked b 16 16 1 (by decide)).trans (reg_setReg_offset s b _ (by decide))
    have hblock : flagged.lineBlock x = s.lineBlock x := congrArg (fun w : Word => max 1 (bits w.toNat 16 11)) hset'
    have h := uartCharacter_fed (r := flagged.regs) hlines hhears hset hfifo hstall hparity (charFlags_unstopped hstop hparity hnoise) hblock
    rw [hstop] at h
    refine ⟨_, ends h rfl rfl, rfl, (reg_countReg_offset marked b 16 16 1 (by decide)).trans (State.reg_setReg ..),
      (reg_countReg marked b 0x18 16 16 1).trans ?_⟩
    rw [reg_setReg_offset s b _ (by decide)]
  case full =>
    rintro ⟨hstop, hparity⟩ hnoise hfifo hstall
    let marked := kept.setReg b 0x10 (setBit (kept.reg b 0x10) 8)
    have h := uartCharacter_overrun (r := kept.regs) hlines hhears hset hfifo hstall hparity (charFlags_fine hstop hparity hnoise)
    rw [hstop] at h
    refine ⟨_, ends h rfl rfl, (reg_countReg_offset marked b 0 16 1 (by decide)).trans ((State.reg_setReg ..).trans ?_),
      (reg_countReg marked b 0x18 0 16 1).trans ?_, rfl⟩
    · rw [hkept]
    · rw [reg_setReg_offset kept b _ (by decide), hkept]

/-! ### Timeout, transmission and DE (R563 to R565) -/

section Flush
variable {s : State} {x : Nat}

/-- Without a partial block there is nothing to flush (R563). -/
theorem lineFlush_idle (hx : x < s.uarts.length) (hfifo : (s.uart x).fifo = []) (hpartial : (s.uart x).partialBlock = 0) :
    s.lineFlush x = s := by
  have hdma : s.lineDma x = s := by
    rw [lineDma_empty hx hfifo]
    refine onUart_self hx ?_
    have hnone : (s.uart x).partialBlock % s.lineBlock x = (s.uart x).partialBlock := by rw [hpartial, Nat.zero_mod]
    rw [hnone]
  unfold State.lineFlush
  rw [hdma]
  exact if_pos hpartial

/-- A partial block ends its frame (R563). -/
theorem lineFlush_partial (hx : x < s.uarts.length) (hfifo : (s.uart x).fifo = []) (hsome : 0 < (s.uart x).partialBlock)
    (hpartial : (s.uart x).partialBlock < s.lineBlock x) :
    s.lineFlush x =
      s.onUart x fun u => { u with ready := u.ready ++ [(u.frame, u.frameBad)], frame := [], frameBad := false, partialBlock := 0 } := by
  have hdma : s.lineDma x = s := by
    rw [lineDma_empty hx hfifo]
    refine onUart_self hx ?_
    rw [Nat.mod_eq_of_lt hpartial]
  unfold State.lineFlush
  rw [hdma]
  exact if_neg (by omega)

end Flush

theorem uartLine : Says.UartLine := by
  unfold Says.UartLine
  intro s x hx hlen u block ctrl
  have hlines : x < s.uarts.length := by omega
  refine ⟨?flush, ?idle, ?sends, ?empty, ?tail⟩
  case flush =>
    intro hon hfifo hsome hpartial
    rw [exec_uartTimeout, execUartTimeout, if_pos hon, lineFlush_partial hlines hfifo hsome hpartial, onUart_set hlines]
    exact done_same s _ rfl rfl
  case idle =>
    intro hon hfifo hpartial
    rw [exec_uartTimeout, execUartTimeout, if_pos hon, lineFlush_idle hlines hfifo hpartial]
    exact done_same s s rfl rfl
  case sends =>
    intro f rest hon hqueue
    rw [exec_uartTransmit, execUartTransmit, State.uartTransmit, if_neg (by simp [hon]), hqueue]
    dsimp only
    rw [onUart_set hlines]
    exact done_same s _ rfl rfl
  case empty =>
    intro hon hqueue
    rw [exec_uartTransmit, execUartTransmit, State.uartTransmit, if_neg (by simp [hon]), hqueue]
    exact done_same s s rfl rfl
  case tail =>
    intro hup
    rw [exec_uartDeTail, execUartDeTail, if_pos hup, onUart_set hlines]
    exact done_same s _ rfl rfl

/-- Settles O45. -/
theorem uartLines : Obligations.UartLines := ⟨uartCharacters, uartLine⟩

/-! ### Frames (R567 to R571) -/

/-- PING's checks read neither registers nor lines. -/
theorem refusal_ping {s : State} {c : Cmd} (hop : c.opcode = 0x02) (regs : Sparse Word) (uarts : List Uart) :
    ({ s with regs := regs, uarts := uarts } : State).refusal c = s.refusal c := by
  obtain ⟨origin, opcode, session, seq, words⟩ := c
  subst hop
  rfl

section Frame
variable {s : State} {x pos : Nat} {c : Cmd}

/-- Where no other response waits, a line's command is answered on its line, or not at all (R387, R570). -/
theorem respond_line {answer : Bool} (hreplies : s.fw.replies = []) (horigin : c.origin = .line x pos answer) (ws : List Word) :
    s.respond c ws =
      if answer then s.queueFrame x (lineFrame pos (header c.opcode c.session c.seq ws.length :: ws)) else s := by
  have hnone : { s with fw.replies := [] } = s := by rw [← hreplies]
  unfold State.respond
  rw [flushReplies_single (r := Reply.mk c.opcode c.session c.seq c.origin (some ws) none) (by rw [hreplies]; rfl) rfl, horigin]
  cases answer with
  | true => exact congrArg (fun t : State => t.queueFrame x (lineFrame pos (header c.opcode c.session c.seq ws.length :: ws))) hnone
  | false => exact hnone

/-- The frame that line x flushed first is taken off its queue. -/
def State.frameOff (s : State) (x : Nat) (rest : List (List Byte × Bool)) : State :=
  { s with uarts := s.uarts.set x { s.uart x with ready := rest } }

theorem lineFrameTaken_takes {f : List Byte} {bad : Bool} {rest : List (List Byte × Bool)} (rd : List PageFault)
    (hx : x < s.uarts.length) (htake : s.canTake = true) (hserved : s.lineServed x = true) (hready : (s.uart x).ready = (f, bad) :: rest) :
    s.lineFrameTaken x rd = (s.frameOff x rest).takeFrame x f bad rd := by
  unfold State.lineFrameTaken
  rw [if_neg (by simp [htake, hserved]), hready]
  have hset := modAt_eq_set hx (Uart.reset x) fun u => { u with ready := rest }
  dsimp only
  rw [hset]
  rfl

/-- The count of frames is no part of the position in the ring. -/
theorem ownPosition_countFrame (hx : x < 2) (lo n k : Nat) : (s.countReg (bUART0 + x) 0x14 lo n k).ownPosition = s.ownPosition := by
  have hstat : (s.countReg (bUART0 + x) 0x14 lo n k).reg bCHAIN 0x30 = s.reg bCHAIN 0x30 :=
    State.reg_setReg_ne _ _ _ _ _ _ (by unfold regKey bCHAIN bUART0; omega)
  unfold State.ownPosition State.regN
  rw [hstat]
  rfl

/-- What a PING of a line leaves: its frame queued where an answer is asked for (R404, R570). -/
def State.pinged (s : State) (x : Nat) (answer : Bool) (c : Cmd) : State :=
  if answer then s.queueFrame x (lineFrame s.ownPosition (header 0x02 c.session c.seq 3 :: [okWord, w32 s.time, w32 (s.time / 2 ^ 32)])) else s

theorem pinged_writes (s : State) (x : Nat) (answer : Bool) (c : Cmd) : (s.pinged x answer c).fw.writes = s.fw.writes := by
  cases answer
  · rfl
  · rfl

theorem takeCmd_ping {answer : Bool} (rd : List PageFault) (horigin : c.origin = .line x s.ownPosition answer) (hop : c.opcode = 0x02)
    (hpass : s.refusal c = none) (htake : s.canTake = true) (hreplies : s.fw.replies = []) :
    s.takeCmd rd c = s.pinged x answer c := by
  have hwork : workOf rd c.opcode c s = s.respond c [okWord, w32 s.time, w32 (s.time / 2 ^ 32)] := by
    rw [hop]
    rfl
  unfold State.takeCmd State.takeWith
  rw [if_neg (by simp [htake, horigin]), hpass]
  dsimp only
  rw [hwork, respond_line hreplies horigin, hop]
  rfl

/-- A good PING to this position or to all counts and is taken (R570, R571). -/
theorem takeFrame_ping {f : List Byte} (rd : List PageFault) (hx : x < 2) (hgood : frameGood f = true)
    (haddr : u8 f 0 = 0x0F ∨ u8 f 0 = s.ownPosition) (hop : (frameCmd x s.ownPosition f).opcode = 0x02)
    (hpass : s.refusal (frameCmd x s.ownPosition f) = none) (htake : s.canTake = true) (hreplies : s.fw.replies = []) :
    s.takeFrame x f false rd =
      (s.countReg (bUART0 + x) 0x14 0 16 1).pinged x (u8 f 0 != 0x0F) (frameCmd x s.ownPosition f) := by
  have hpos := ownPosition_countFrame (s := s) hx 0 16 1
  have hping : (s.countReg (bUART0 + x) 0x14 0 16 1).takeCmd rd (frameCmd x s.ownPosition f)
      = (s.countReg (bUART0 + x) 0x14 0 16 1).pinged x (u8 f 0 != 0x0F) (frameCmd x s.ownPosition f) :=
    takeCmd_ping rd (by rw [hpos]; rfl) hop ((refusal_ping hop _ _).trans hpass) htake hreplies
  have hserves : serviceOpcode (frameCmd x s.ownPosition f).opcode = true := by
    rw [hop]
    rfl
  unfold State.takeFrame
  rw [if_neg (by simp [hgood]), if_neg (by omega)]
  dsimp only
  rw [hpos, if_neg (by simp [hserves]), hping, pinged_writes]
  refine if_neg ?_
  have hwrites : (s.countReg (bUART0 + x) 0x14 0 16 1).fw.writes = s.fw.writes := rfl
  rw [hwrites, List.drop_length]
  exact Bool.false_ne_true

/-- An answer to a frame taken off its line's queue joins the frames that go out. -/
theorem frameOff_queueFrame (hx : x < s.uarts.length) (rest : List (List Byte × Bool)) (r : Sparse Word) (g : List Byte) :
    ({ s.frameOff x rest with regs := r } : State).queueFrame x g =
      { s with regs := r, uarts := s.uarts.set x { s.uart x with ready := rest, outq := (s.uart x).outq ++ [g] } } := by
  have hin : x < (s.frameOff x rest).uarts.length := by simpa [State.frameOff] using hx
  have hline : (s.frameOff x rest).uarts.getD x (Uart.reset x) = { s.uart x with ready := rest } := by
    rw [List.getD_eq_getElem _ _ hin]
    exact List.getElem_set_self ..
  have hset := modAt_eq_set hin (Uart.reset x) fun u => { u with outq := u.outq ++ [g] }
  rw [hline] at hset
  unfold State.queueFrame
  dsimp only
  rw [hset]
  simp [State.frameOff]

end Frame

/-- Settles O46. -/
theorem uartFrames : Obligations.UartFrames := by
  unfold Obligations.UartFrames
  intro s x f bad rest hx hlen htake hserved hreplies hquiet hready rd b u taken c good
  have hlines : x < s.uarts.length := by omega
  have hpopped : taken [] = s.frameOff x rest := by
    have hnone : u.outq ++ [] = u.outq := List.append_nil _
    show { s with uarts := s.uarts.set x { u with ready := rest, outq := u.outq ++ [] } } = s.frameOff x rest
    rw [hnone]
    rfl
  have ends {t : State} (h : (s.frameOff x rest).takeFrame x f bad rd = t) (hk : t.kiln = s.kiln) (hq : t.pending = s.pending)
      (hp : t.part = s.part) : exec (.uartFrame x rd) s = .next t := by
    rw [exec_uartFrame, execUartFrame, lineFrameTaken_takes rd hlines htake hserved hready, h]
    exact ends_quiet s t (by rw [hk]; exact hquiet) hq hp
  refine ⟨?dropped, ?foreign, ?answered, ?broadcast⟩
  case dropped =>
    intro hbad
    have h : (s.frameOff x rest).takeFrame x f bad rd = (s.frameOff x rest).countReg b 0x14 16 16 1 :=
      if_pos (by rcases hbad with h | h <;> simp [h])
    exact ⟨_, ends h rfl rfl rfl, by rw [hpopped]; rfl, reg_countReg ..⟩
  case foreign =>
    rintro ⟨hbad, hgood⟩ hall hown
    have h : (s.frameOff x rest).takeFrame x f bad rd = s.frameOff x rest :=
      (if_neg (by simp [hbad, hgood])).trans (if_pos ⟨hall, hown⟩)
    rw [hpopped]
    exact ends h rfl rfl rfl
  case answered =>
    rintro ⟨rfl, hgood⟩ hown hall hop hpass
    have h := takeFrame_ping (s := s.frameOff x rest) rd hx hgood (.inr hown) hop ((refusal_ping hop _ _).trans hpass) htake hreplies
    have hanswer : (u8 f 0 != 0x0F) = true := bne_iff_ne.mpr hall
    let v := (s.frameOff x rest).countReg b 0x14 0 16 1
    have hpos : v.ownPosition = s.ownPosition := ownPosition_countFrame (s := s.frameOff x rest) hx 0 16 1
    have hqueued := frameOff_queueFrame hlines rest v.regs
      (lineFrame v.ownPosition (header 0x02 c.session c.seq 3 :: [okWord, w32 s.time, w32 (s.time / 2 ^ 32)]))
    rw [hanswer] at h
    refine ⟨_, ends (h.trans hqueued) rfl rfl rfl, reg_countReg (s.frameOff x rest) b 0x14 0 16 1, ?_⟩
    rw [hpos]
  case broadcast =>
    rintro ⟨rfl, hgood⟩ hall hop hpass
    have h := takeFrame_ping (s := s.frameOff x rest) rd hx hgood (.inl hall) hop ((refusal_ping hop _ _).trans hpass) htake hreplies
    have hsilent : (u8 f 0 != 0x0F) = false := bne_eq_false_iff_eq.mpr hall
    rw [hsilent] at h
    exact ⟨_, ends h rfl rfl rfl, reg_countReg .., by rw [hpopped]; rfl⟩

end Sys2Proof.Machine
end

section
/-! CHAIN_FRAME_TRANSMIT also hears what waits for the Kiln (R319), which the statement leaves out. -/
namespace Sys2Proof.Machine

/-- READY with the chain link in SEEK and a CHAIN_CRC message that waits for the Kiln. -/
def linkWithMessage : State :=
  { State.reset with
    pwr.phase := .ready
    fw.unitAgreed := 0x8
    regs := [(regKey bCHAIN 0x30, 1)]
    kiln.raised := [⟨mkMsg 0 0 kChainCrc 0 0 0, 8, 1⟩] }

/-- The link sends its next frame, and the premises of the clause on sending hold. -/
theorem linkWithMessage_sends :
    linkWithMessage.linkOn = true ∧ linkWithMessage.chain.enteredRun = false ∧ linkWithMessage.linkReset 5 = false
      ∧ linkWithMessage.frameTurn linkWithMessage.chain.txFrame = some 1 := by
  decide +kernel

/-- No message waits for the Kiln once a frame has been sent (R319). -/
theorem chainFrameTransmit_noneRaised {s t : State} (h : exec .chainFrameTransmit s = .next t) : t.kiln.raised = [] := by
  rw [exec_chainFrameTransmit, execChainFrameTransmit, State.ends, State.done] at h
  injection h with hstate
  rw [← hstate]
  exact hear_raised _

/-- Refutes O51: the clause on sending lets only the time and the chain link change, but has no premise that no message waits for the
Kiln, as the clauses on receiving have. A message that waits is taken by the Kiln at the end of the command (R319). -/
theorem not_chainFrames : ¬ Obligations.ChainFrames := by
  unfold Obligations.ChainFrames
  intro h
  obtain ⟨hon, hnew, hreset, hturn⟩ := linkWithMessage_sends
  obtain ⟨hsends, -⟩ := h linkWithMessage [] true hon hnew
  obtain ⟨t, out, hexec, hkeeps, -⟩ := hsends 1 hturn (Nat.le_refl 0) hreset
  have hraised : t.kiln.raised = linkWithMessage.kiln.raised := (congrArg (fun u : State => u.kiln.raised) hkeeps :)
  rw [chainFrameTransmit_noneRaised hexec] at hraised
  exact absurd hraised (by decide)

end Sys2Proof.Machine
end
